-- ==== Sys2Proof/Word.lean ====
section
/-! DEFINITION. The word type, bytes, and the plainest arithmetic on numbers as rows of bits. -/

namespace Sys2Proof

/-- A scalar register, an instruction word or an extension word: 64 bits (R206, R61). -/
abbrev Word := BitVec 64

/-- One byte of memory (R5). -/
abbrev Byte := BitVec 8

/-- The field of `n` that begins at bit `lo` and is `w` bits wide. -/
def fld (n lo w : Nat) : Nat := n / 2 ^ lo % 2 ^ w

/-- Bit `i` of `n`. -/
def bitOf (n i : Nat) : Bool := n / 2 ^ i % 2 == 1

/-- `⌈a / b⌉`. -/
def ceilDiv (a b : Nat) : Nat := (a + b - 1) / b

end Sys2Proof
end

