-- ==== Sys2Proof/Syntax.lean ====
section
/-! DEFINITION. The instructions: one constructor per row of the opcode table, with its operands. -/

namespace Sys2Proof

/-- The predicate of a word: PN and PR (R206, R208). -/
structure Pred where
  pn : Bool
  pr : Nat
deriving DecidableEq, Repr

/-- An immediate: in its field of the first word, or in the extension word that replaces it (R222). -/
inductive Imm (n : Nat) where
  | short (v : BitVec n)
  | long (v : Word)
deriving DecidableEq, Repr

/-- Point scopes of strong accesses, fences and cache maintenance (R160). -/
inductive Scope where
  | hive | die | pkg | sys
deriving DecidableEq, Repr

/-- Rounding modes (R116). -/
inductive Rm where
  | rne | rtz | rup | rdn | rto
deriving DecidableEq, Repr

/-- Plain, widening and saturating forms (R218). -/
inductive WF where
  | plain | wide | sat
deriving DecidableEq, Repr

/-- Relations of VCMP (R295). -/
inductive Rel where
  | eq | ne | lt | le | gt | ge
deriving DecidableEq, Repr

/-- The second source of a comb instruction: a vector register, or a broadcast scalar register (R218). -/
inductive Src2 where
  | vec (vb : Nat)
  | scal (sb : Nat)
deriving DecidableEq, Repr

/-- A source modifier (R223): none, `.sh(d)`, or `.grp(2^k, j)`. -/
inductive Modifier where
  | none
  | sh (d : BitVec 19)
  | grp (k j : Nat)
deriving DecidableEq, Repr

/-- The source modifier word: one modifier for each of VA, VB and VC (R223). -/
structure Mods where
  a : Modifier
  b : Modifier
  c : Modifier
deriving DecidableEq, Repr

/-- The waggle fields of an engine or matrix operation: the term it is armed on, if ARM is 1, and its TAG (R217). -/
structure Trig where
  armed : Option Nat
  tag : Nat
deriving DecidableEq, Repr

/-- Where MXMAC takes B from: comb registers, or a honey-store stream (R220). -/
inductive BSrc where
  | comb (vb : Nat)
  | honey (h sb : Nat)
deriving DecidableEq, Repr

/-- Who writes a partition's register: a SETC of a task, or the host through VF BAR0 (R413). -/
inductive RegWrite where
  | setc (p : Pred) (sa : Nat)
  | bar (vf : Nat) (value : Word)
deriving DecidableEq, Repr

/-- Where an inbound request arrives: at a port, 0 to 7 the peers and 8 the host port (R417, R418); in BAR0 of the physical function
(0) or of a virtual function (R413); or in a function's configuration space (R422). -/
inductive Inbound where
  | port (p : Nat)
  | bar (vf : Nat)
  | config (vf : Nat)
deriving DecidableEq, Repr

/-- What times out (R416): the scalar request that a task awaits; or every request on a port, from now on, or no longer. -/
inductive TimedOut where
  | task (t : Nat)
  | port (p : Nat) (mute : Bool)
deriving DecidableEq, Repr

/-- Every instruction of the opcode table: one constructor per row. The constructors with a `Pred` (and the register
writes with a row of their own) are read from instruction words; the others are steps of the device's other agents,
which have no word. -/
inductive Instr where
  /-- ADD (R235). -/
  | add (p : Pred) (sd : Nat) (sa : Nat) (sb : Nat)
  /-- SUB (R235). -/
  | sub (p : Pred) (sd : Nat) (sa : Nat) (sb : Nat)
  /-- MUL (R235). -/
  | mul (p : Pred) (sd : Nat) (sa : Nat) (sb : Nat)
  /-- MULH (R235). -/
  | mulh (p : Pred) (sd : Nat) (sa : Nat) (sb : Nat)
  /-- MULHU (R235). -/
  | mulhu (p : Pred) (sd : Nat) (sa : Nat) (sb : Nat)
  /-- DIV (R236). -/
  | div (p : Pred) (sd : Nat) (sa : Nat) (sb : Nat)
  /-- DIVU (R236). -/
  | divu (p : Pred) (sd : Nat) (sa : Nat) (sb : Nat)
  /-- REM (R236). -/
  | rem (p : Pred) (sd : Nat) (sa : Nat) (sb : Nat)
  /-- REMU (R236). -/
  | remu (p : Pred) (sd : Nat) (sa : Nat) (sb : Nat)
  /-- AND (R235). -/
  | andS (p : Pred) (sd : Nat) (sa : Nat) (sb : Nat)
  /-- OR (R235). -/
  | orS (p : Pred) (sd : Nat) (sa : Nat) (sb : Nat)
  /-- XOR (R235). -/
  | xorS (p : Pred) (sd : Nat) (sa : Nat) (sb : Nat)
  /-- SHL (R235). -/
  | shl (p : Pred) (sd : Nat) (sa : Nat) (sb : Nat)
  /-- SHR (R235). -/
  | shr (p : Pred) (sd : Nat) (sa : Nat) (sb : Nat)
  /-- SRA (R235). -/
  | sra (p : Pred) (sd : Nat) (sa : Nat) (sb : Nat)
  /-- ROL (R235). -/
  | rol (p : Pred) (sd : Nat) (sa : Nat) (sb : Nat)
  /-- CLZ (R235). -/
  | clz (p : Pred) (sd : Nat) (sa : Nat)
  /-- CTZ (R235). -/
  | ctz (p : Pred) (sd : Nat) (sa : Nat)
  /-- POPC (R235). -/
  | popc (p : Pred) (sd : Nat) (sa : Nat)
  /-- MIN (R235). -/
  | minS (p : Pred) (sd : Nat) (sa : Nat) (sb : Nat)
  /-- MAX (R235). -/
  | maxS (p : Pred) (sd : Nat) (sa : Nat) (sb : Nat)
  /-- MINU (R235). -/
  | minu (p : Pred) (sd : Nat) (sa : Nat) (sb : Nat)
  /-- MAXU (R235). -/
  | maxu (p : Pred) (sd : Nat) (sa : Nat) (sb : Nat)
  /-- SEL (R235). -/
  | sel (p : Pred) (sd : Nat) (sa : Nat) (sb : Nat) (sc : Nat)
  /-- EXTS (R237). -/
  | exts (p : Pred) (sd : Nat) (sa : Nat) (sb : Nat)
  /-- EXTZ (R237). -/
  | extz (p : Pred) (sd : Nat) (sa : Nat) (sb : Nat)
  /-- INS (R237). -/
  | ins (p : Pred) (sd : Nat) (sa : Nat) (sb : Nat) (sc : Nat)
  /-- ADDI (R238). -/
  | addi (p : Pred) (sd : Nat) (sa : Nat) (imm : Imm 32)
  /-- MULI (R238). -/
  | muli (p : Pred) (sd : Nat) (sa : Nat) (imm : Imm 32)
  /-- ANDI (R238). -/
  | andi (p : Pred) (sd : Nat) (sa : Nat) (imm : Imm 32)
  /-- ORI (R238). -/
  | ori (p : Pred) (sd : Nat) (sa : Nat) (imm : Imm 32)
  /-- XORI (R238). -/
  | xori (p : Pred) (sd : Nat) (sa : Nat) (imm : Imm 32)
  /-- SHLI (R238). -/
  | shli (p : Pred) (sd : Nat) (sa : Nat) (imm : Imm 32)
  /-- SHRI (R238). -/
  | shri (p : Pred) (sd : Nat) (sa : Nat) (imm : Imm 32)
  /-- SRAI (R238). -/
  | srai (p : Pred) (sd : Nat) (sa : Nat) (imm : Imm 32)
  /-- MOVI (R238). -/
  | movi (p : Pred) (sd : Nat) (imm : Imm 32)
  /-- CMPEQ (R239). -/
  | cmpeq (p : Pred) (qd : Nat) (sa : Nat) (sb : Nat)
  /-- CMPNE (R239). -/
  | cmpne (p : Pred) (qd : Nat) (sa : Nat) (sb : Nat)
  /-- CMPLT (R239). -/
  | cmplt (p : Pred) (qd : Nat) (sa : Nat) (sb : Nat)
  /-- CMPLTU (R239). -/
  | cmpltu (p : Pred) (qd : Nat) (sa : Nat) (sb : Nat)
  /-- CMPLE (R239). -/
  | cmple (p : Pred) (qd : Nat) (sa : Nat) (sb : Nat)
  /-- CMPLEU (R239). -/
  | cmpleu (p : Pred) (qd : Nat) (sa : Nat) (sb : Nat)
  /-- CMPEQI (R239). -/
  | cmpeqi (p : Pred) (qd : Nat) (sa : Nat) (imm : Imm 32)
  /-- CMPLTI (R239). -/
  | cmplti (p : Pred) (qd : Nat) (sa : Nat) (imm : Imm 32)
  /-- QAND (R240). -/
  | qand (p : Pred) (qd : Nat) (qa : Nat) (qb : Nat)
  /-- QOR (R240). -/
  | qor (p : Pred) (qd : Nat) (qa : Nat) (qb : Nat)
  /-- QXOR (R240). -/
  | qxor (p : Pred) (qd : Nat) (qa : Nat) (qb : Nat)
  /-- QNOT (R240). -/
  | qnot (p : Pred) (qd : Nat) (qa : Nat)
  /-- LEA (R241). -/
  | lea (p : Pred) (sd : Nat) (h : Nat) (sa : Nat) (imm : Imm 19)
  /-- HCHK (R241). -/
  | hchk (p : Pred) (sd : Nat) (h : Nat) (sa : Nat) (sb : Nat) (imm : Imm 19)
  /-- BR (R242). -/
  | br (p : Pred) (off : BitVec 24)
  /-- JMP (R242). -/
  | jmp (p : Pred) (sa : Nat) (link : Nat)
  /-- CALL (R242). -/
  | call (p : Pred) (sl : Nat) (off : BitVec 24)
  /-- RET (R242). -/
  | ret (p : Pred) (sa : Nat)
  /-- LOOP (R244). -/
  | loop (p : Pred) (lc : Nat) (sa : Nat) (off : BitVec 24)
  /-- LOOPI (R244). -/
  | loopi (p : Pred) (lc : Nat) (count : BitVec 16) (off : BitVec 24)
  /-- LBRK (R247). -/
  | lbrk (p : Pred) (lc : Nat)
  /-- IPREF (R249). -/
  | ipref (p : Pred) (n : Nat) (off : BitVec 24)
  /-- TRAP (R250). -/
  | trap (p : Pred) (imm : Imm 16)
  /-- TRET (R203). -/
  | tret (p : Pred)
  /-- HALT (R251). -/
  | halt (p : Pred)
  /-- YIELD (R250). -/
  | yield (p : Pred)
  /-- LD (R252). -/
  | ld (p : Pred) (str : Option Scope) (sd : Nat) (h : Nat) (sa : Nat) (imm : Imm 19)
  /-- LD_I8 (R252). -/
  | ldI8 (p : Pred) (str : Option Scope) (sd : Nat) (h : Nat) (sa : Nat) (imm : Imm 19)
  /-- LD_I16 (R252). -/
  | ldI16 (p : Pred) (str : Option Scope) (sd : Nat) (h : Nat) (sa : Nat) (imm : Imm 19)
  /-- LD_I32 (R252). -/
  | ldI32 (p : Pred) (str : Option Scope) (sd : Nat) (h : Nat) (sa : Nat) (imm : Imm 19)
  /-- LD_Z8 (R252). -/
  | ldZ8 (p : Pred) (str : Option Scope) (sd : Nat) (h : Nat) (sa : Nat) (imm : Imm 19)
  /-- LD_Z16 (R252). -/
  | ldZ16 (p : Pred) (str : Option Scope) (sd : Nat) (h : Nat) (sa : Nat) (imm : Imm 19)
  /-- LD_Z32 (R252). -/
  | ldZ32 (p : Pred) (str : Option Scope) (sd : Nat) (h : Nat) (sa : Nat) (imm : Imm 19)
  /-- ST (R252). -/
  | st (p : Pred) (str : Option Scope) (sd : Nat) (h : Nat) (sa : Nat) (imm : Imm 19)
  /-- ST_I8 (R252). -/
  | stI8 (p : Pred) (str : Option Scope) (sd : Nat) (h : Nat) (sa : Nat) (imm : Imm 19)
  /-- ST_I16 (R252). -/
  | stI16 (p : Pred) (str : Option Scope) (sd : Nat) (h : Nat) (sa : Nat) (imm : Imm 19)
  /-- ST_I32 (R252). -/
  | stI32 (p : Pred) (str : Option Scope) (sd : Nat) (h : Nat) (sa : Nat) (imm : Imm 19)
  /-- AADD (R254). -/
  | aadd (p : Pred) (w4 : Bool) (scope : Scope) (sd : Nat) (h : Nat) (sa : Nat) (sb : Nat) (imm : Imm 19)
  /-- AMIN (R254). -/
  | amin (p : Pred) (w4 : Bool) (scope : Scope) (sd : Nat) (h : Nat) (sa : Nat) (sb : Nat) (imm : Imm 19)
  /-- AMAX (R254). -/
  | amax (p : Pred) (w4 : Bool) (scope : Scope) (sd : Nat) (h : Nat) (sa : Nat) (sb : Nat) (imm : Imm 19)
  /-- AAND (R254). -/
  | aand (p : Pred) (w4 : Bool) (scope : Scope) (sd : Nat) (h : Nat) (sa : Nat) (sb : Nat) (imm : Imm 19)
  /-- AOR (R254). -/
  | aor (p : Pred) (w4 : Bool) (scope : Scope) (sd : Nat) (h : Nat) (sa : Nat) (sb : Nat) (imm : Imm 19)
  /-- AXOR (R254). -/
  | axor (p : Pred) (w4 : Bool) (scope : Scope) (sd : Nat) (h : Nat) (sa : Nat) (sb : Nat) (imm : Imm 19)
  /-- ASWP (R254). -/
  | aswp (p : Pred) (w4 : Bool) (scope : Scope) (sd : Nat) (h : Nat) (sa : Nat) (sb : Nat) (imm : Imm 19)
  /-- ACAS (R254). -/
  | acas (p : Pred) (w4 : Bool) (scope : Scope) (sd : Nat) (h : Nat) (sa : Nat) (sb : Nat) (imm : Imm 19)
  /-- FENCE_ACQ (R256). -/
  | fenceAcq (p : Pred) (scope : Scope)
  /-- FENCE_REL (R256). -/
  | fenceRel (p : Pred) (scope : Scope)
  /-- FENCE_AR (R256). -/
  | fenceAr (p : Pred) (scope : Scope)
  /-- LSYNC (R257). -/
  | lsync (p : Pred)
  /-- WAIT (R258). -/
  | wait (p : Pred) (limits : Option Word)
  /-- SLEEPTIL (R166). -/
  | sleeptil (p : Pred) (sa : Nat)
  /-- BARINIT (R173). -/
  | barinit (p : Pred) (sd : Nat) (h : Nat) (sa : Nat) (sb : Nat) (imm : BitVec 12)
  /-- BARARR (R173). -/
  | bararr (p : Pred) (sd : Nat) (h : Nat) (sa : Nat) (sb : Nat) (imm : BitVec 12)
  /-- BARWAIT (R262). -/
  | barwait (p : Pred) (sd : Nat) (h : Nat) (sa : Nat) (sb : Nat) (imm : BitVec 12)
  /-- BARKILL (R173). -/
  | barkill (p : Pred) (sd : Nat) (h : Nat) (sa : Nat) (imm : BitVec 12)
  /-- GETC (R264). -/
  | getc (p : Pred) (sd : Nat) (creg : BitVec 12)
  /-- SETC (R264). -/
  | setc (p : Pred) (creg : BitVec 12) (sa : Nat)
  /-- VSTART_WRITE (R187). -/
  | vstartWrite (p : Pred) (sa : Nat)
  /-- AVL_STRIP_WRITE (R264). -/
  | avlStripWrite (p : Pred) (strip : Bool) (sa : Nat)
  /-- HBASE_WRITE (R133). -/
  | hbaseWrite (rw : RegWrite)
  /-- TLBINV (R154). -/
  | tlbinv (rw : RegWrite)
  /-- LSEED_WRITE (R178). -/
  | lseedWrite (rw : RegWrite)
  /-- SWAP_SLOT_WRITE (R188). -/
  | swapSlotWrite (base : Bool) (rw : RegWrite)
  /-- PFDONE (R192). -/
  | pfdone (rw : RegWrite)
  /-- LQCTL_WRITE (R174). -/
  | lqctlWrite (k : Nat) (rw : RegWrite)
  /-- LQPROD_DOORBELL (R175). -/
  | lqprodDoorbell (k : Nat) (rw : RegWrite)
  /-- SVC (R265). -/
  | svc (p : Pred) (sd : Nat) (sa : Nat)
  /-- CFLUSH (R266). -/
  | cflush (p : Pred) (scope : Scope) (h : Nat) (sa : Nat) (sb : Nat)
  /-- CINV (R266). -/
  | cinv (p : Pred) (scope : Scope) (icache : Bool) (h : Nat) (sa : Nat) (sb : Nat)
  /-- ENQ (R268). -/
  | enq (p : Pred) (sa : Nat)
  /-- DEQ (R268). -/
  | deq (p : Pred) (sd : Nat)
  /-- LAUNCH (R269). -/
  | launch (p : Pred) (sd : Nat) (h : Nat) (sa : Nat) (k : Nat)
  /-- WGCFG_WR (R270). -/
  | wgcfgWr (p : Pred) (sd : Nat) (sa : Nat) (term : Bool) (n : Nat)
  /-- WGCFG_FREE (R270). -/
  | wgcfgFree (p : Pred) (sd : Nat) (sa : Nat) (term : Bool) (n : Nat)
  /-- WGCFG_RD (R270). -/
  | wgcfgRd (p : Pred) (sd : Nat) (sa : Nat) (term : Bool) (n : Nat)
  /-- WGFIRE (R271). -/
  | wgfire (p : Pred) (code : Nat)
  /-- WGWAIT (R436). -/
  | wgwait (p : Pred) (sd : Nat) (term : Nat)
  /-- VCFG (R291). -/
  | vcfg (p : Pred) (vd : Nat) (sb : Nat) (m : Option Mods)
  /-- VSETVL (R292). -/
  | vsetvl (p : Pred) (sb : Nat) (m : Option Mods)
  /-- VSETCAP (R292). -/
  | vsetcap (p : Pred) (vd : Nat) (sb : Nat) (m : Option Mods)
  /-- VGETCAP (R292). -/
  | vgetcap (p : Pred) (sb : Nat) (va : Nat) (m : Option Mods)
  /-- VDISC (R292). -/
  | vdisc (p : Pred) (va : Nat) (m : Option Mods)
  /-- VADD (R296). -/
  | vadd (p : Pred) (rm : Rm) (wf : WF) (vd : Nat) (va : Nat) (src : Src2) (m : Option Mods)
  /-- VSUB (R296). -/
  | vsub (p : Pred) (rm : Rm) (wf : WF) (vd : Nat) (va : Nat) (src : Src2) (m : Option Mods)
  /-- VMUL (R296). -/
  | vmul (p : Pred) (rm : Rm) (wf : WF) (vd : Nat) (va : Nat) (src : Src2) (m : Option Mods)
  /-- VMAC (R105). -/
  | vmac (p : Pred) (rm : Rm) (sat : Bool) (vd : Nat) (va : Nat) (src : Src2) (m : Option Mods)
  /-- VFMA (R105). -/
  | vfma (p : Pred) (rm : Rm) (vd : Nat) (va : Nat) (src : Src2) (m : Option Mods)
  /-- VDIV (R296). -/
  | vdiv (p : Pred) (rm : Rm) (wf : WF) (vd : Nat) (va : Nat) (src : Src2) (m : Option Mods)
  /-- VRCP (R296). -/
  | vrcp (p : Pred) (rm : Rm) (vd : Nat) (va : Nat) (m : Option Mods)
  /-- VRSQ (R296). -/
  | vrsq (p : Pred) (rm : Rm) (vd : Nat) (va : Nat) (m : Option Mods)
  /-- VEXP (R296). -/
  | vexp (p : Pred) (rm : Rm) (vd : Nat) (va : Nat) (m : Option Mods)
  /-- VMIN (R296). -/
  | vmin (p : Pred) (rm : Rm) (wide : Bool) (vd : Nat) (va : Nat) (src : Src2) (m : Option Mods)
  /-- VMAX (R296). -/
  | vmax (p : Pred) (rm : Rm) (wide : Bool) (vd : Nat) (va : Nat) (src : Src2) (m : Option Mods)
  /-- VABS (R296). -/
  | vabs (p : Pred) (rm : Rm) (sat : Bool) (vd : Nat) (va : Nat) (m : Option Mods)
  /-- VNEG (R296). -/
  | vneg (p : Pred) (rm : Rm) (sat : Bool) (vd : Nat) (va : Nat) (m : Option Mods)
  /-- VAND (R294). -/
  | vand (p : Pred) (vd : Nat) (va : Nat) (src : Src2) (m : Option Mods)
  /-- VOR (R294). -/
  | vor (p : Pred) (vd : Nat) (va : Nat) (src : Src2) (m : Option Mods)
  /-- VXOR (R294). -/
  | vxor (p : Pred) (vd : Nat) (va : Nat) (src : Src2) (m : Option Mods)
  /-- VNOT (R294). -/
  | vnot (p : Pred) (vd : Nat) (va : Nat) (m : Option Mods)
  /-- VSHL (R294). -/
  | vshl (p : Pred) (vd : Nat) (va : Nat) (src : Src2) (m : Option Mods)
  /-- VSHR (R294). -/
  | vshr (p : Pred) (vd : Nat) (va : Nat) (src : Src2) (m : Option Mods)
  /-- VSRA (R294). -/
  | vsra (p : Pred) (vd : Nat) (va : Nat) (src : Src2) (m : Option Mods)
  /-- VCMP (R297). -/
  | vcmp (p : Pred) (rel : Rel) (mdst : Bool) (vd : Nat) (va : Nat) (src : Src2) (m : Option Mods)
  /-- VSEL (R297). -/
  | vsel (p : Pred) (vd : Nat) (va : Nat) (vb : Nat) (mc : Nat) (m : Option Mods)
  /-- VMOV (R297). -/
  | vmov (p : Pred) (vd : Nat) (va : Nat) (m : Option Mods)
  /-- VBCAST (R297). -/
  | vbcast (p : Pred) (vd : Nat) (sb : Nat) (fmt : BitVec 8) (m : Option Mods)
  /-- VCVT (R124). -/
  | vcvt (p : Pred) (rm : Rm) (vd : Nat) (va : Nat) (fmt : BitVec 8) (m : Option Mods)
  /-- VCVT_MEM (R298). -/
  | vcvtMem (p : Pred) (rm : Rm) (vd : Nat) (sb : Nat) (fmt : BitVec 8) (m : Option Mods)
  /-- VSHIFT (R297). -/
  | vshift (p : Pred) (vd : Nat) (va : Nat) (sb : Nat) (m : Option Mods)
  /-- VRAND (R299). -/
  | vrand (p : Pred) (vd : Nat) (sb : Nat) (fmt : BitVec 8) (m : Option Mods)
  /-- VLD (R301). -/
  | vld (p : Pred) (vd : Nat) (h : Nat) (sb : Nat) (disp : Option Word)
  /-- VST (R302). -/
  | vst (p : Pred) (va : Nat) (h : Nat) (sb : Nat) (disp : Option Word)
  /-- VLDFF (R303). -/
  | vldff (p : Pred) (vd : Nat) (h : Nat) (sb : Nat) (disp : Option Word)
  /-- VRSUM_O (R127). -/
  | vrsumO (p : Pred) (rm : Rm) (nov : Bool) (vd : Nat) (va : Nat) (osb : Option Nat) (m : Option Mods)
  /-- VRSUM_T (R128). -/
  | vrsumT (p : Pred) (rm : Rm) (nov : Bool) (vd : Nat) (va : Nat) (osb : Option Nat) (m : Option Mods)
  /-- VRMAX (R305). -/
  | vrmax (p : Pred) (nov : Bool) (vd : Nat) (va : Nat) (osb : Option Nat) (m : Option Mods)
  /-- VRMIN (R305). -/
  | vrmin (p : Pred) (nov : Bool) (vd : Nat) (va : Nat) (osb : Option Nat) (m : Option Mods)
  /-- VCOUNT (R305). -/
  | vcount (p : Pred) (nov : Bool) (vd : Nat) (osb : Option Nat) (m : Option Mods)
  /-- VRANK (R306). -/
  | vrank (p : Pred) (vd : Nat) (va : Nat) (m : Option Mods)
  /-- VDEFER (R308). -/
  | vdefer (p : Pred) (sb : Nat) (path : Nat) (m : Option Mods)
  /-- VDRAIN (R309). -/
  | vdrain (p : Pred) (vd : Nat) (ma : Nat) (sb : Nat) (path : Nat) (m : Option Mods)
  /-- MAND (R310). -/
  | mand (p : Pred) (md : Nat) (ma : Nat) (mb : Nat) (m : Option Mods)
  /-- MOR (R310). -/
  | mor (p : Pred) (md : Nat) (ma : Nat) (mb : Nat) (m : Option Mods)
  /-- MXOR (R310). -/
  | mxor (p : Pred) (md : Nat) (ma : Nat) (mb : Nat) (m : Option Mods)
  /-- MNOT (R310). -/
  | mnot (p : Pred) (md : Nat) (ma : Nat) (m : Option Mods)
  /-- MFIRST (R310). -/
  | mfirst (p : Pred) (md : Nat) (ma : Nat) (m : Option Mods)
  /-- PASS (R312). -/
  | pass (p : Pred) (vd : Nat) (va : Nat) (vb : Nat) (osb : Option Nat) (ctl : BitVec 8) (word : Word)
  /-- PSEQ (R285). -/
  | pseq (p : Pred) (vd : Nat) (va : Nat) (vb : Nat) (osb : Option Nat) (word : Word)
  /-- PTLOAD (R313). -/
  | ptload (p : Pred) (h : Nat) (sb : Nat)
  /-- SEARCH (R312). -/
  | search (p : Pred) (vd : Nat) (va : Nat) (vb : Nat) (sb : Nat) (ctl : BitVec 8) (word : Word)
  /-- VMWRITE (R314). -/
  | vmwrite (p : Pred) (md : Nat) (sb : Nat)
  /-- CMODE (R314). -/
  | cmode (p : Pred) (sb : Nat)
  /-- VSCRUB (R314). -/
  | vscrub (p : Pred)
  /-- VTOPK (R325). -/
  | vtopk (p : Pred) (nanhi : Bool) (vd : Nat) (ve : Nat) (va : Nat) (sd : Nat) (sa : Nat) (m : Option Mods)
  /-- VBOTK (R325). -/
  | vbotk (p : Pred) (nanhi : Bool) (vd : Nat) (ve : Nat) (va : Nat) (sd : Nat) (sa : Nat) (m : Option Mods)
  /-- VARGMAX (R326). -/
  | vargmax (p : Pred) (nanhi : Bool) (nov : Bool) (vd : Nat) (ve : Nat) (va : Nat) (sd : Nat) (m : Option Mods)
  /-- VARGMIN (R326). -/
  | vargmin (p : Pred) (nanhi : Bool) (nov : Bool) (vd : Nat) (ve : Nat) (va : Nat) (sd : Nat) (m : Option Mods)
  /-- VSORT (R327). -/
  | vsort (p : Pred) (nanhi : Bool) (vd : Nat) (ve : Nat) (va : Nat) (sd : Nat) (m : Option Mods)
  /-- VPERM (R328). -/
  | vperm (p : Pred) (vd : Nat) (va : Nat) (vb : Nat) (m : Option Mods)
  /-- VUNIQ (R329). -/
  | vuniq (p : Pred) (vd : Nat) (ve : Nat) (va : Nat) (sd : Nat) (m : Option Mods)
  /-- VSIM (R330). -/
  | vsim (p : Pred) (vd : Nat) (va : Nat) (vb : Nat) (m : Option Mods)
  /-- VNEAR (R331). -/
  | vnear (p : Pred) (vd : Nat) (ve : Nat) (va : Nat) (vb : Nat) (sd : Nat) (sa : Nat) (m : Option Mods)
  /-- NMSEARCH (R333). -/
  | nmsearch (p : Pred) (vd : Nat) (va : Nat) (sd : Nat) (sa : Nat) (m : Option Mods)
  /-- MXATT (R338). -/
  | mxatt (p : Pred) (sa : Nat) (sb : Nat)
  /-- MXDET (R338). -/
  | mxdet (p : Pred)
  /-- MXZERO (R338). -/
  | mxzero (p : Pred) (ad : Nat)
  /-- MXMAC (R348). -/
  | mxmac (p : Pred) (rm : Rm) (sat : Bool) (trig : Trig) (ad : Nat) (va : Nat) (b : BSrc) (sa : Nat) (mm1 : Nat) (nm1 : Nat) (km1 : Nat)
  /-- MXLD (R350). -/
  | mxld (p : Pred) (trig : Trig) (ad : Nat) (sa : Nat) (h : Nat)
  /-- MXRD (R349). -/
  | mxrd (p : Pred) (trig : Trig) (ad : Nat) (sa : Nat) (sb : Nat) (h : Nat)
  /-- MXSCL (R351). -/
  | mxscl (p : Pred) (trig : Trig) (sa : Nat) (h : Nat)
  /-- MXDRAIN (R353). -/
  | mxdrain (p : Pred) (rm : Rm) (trig : Trig) (va : Nat) (ad : Nat) (vb : Nat) (sa : Nat) (mm1 : Nat) (nm1 : Nat) (tfmt : BitVec 8) (ozp : BitVec 8) (usep : Bool) (rowt : Bool) (dclr : Bool)
  /-- FGATH (R364). -/
  | fgath (p : Pred) (trig : Trig) (vd : Nat) (vi : Nat) (h : Nat) (fset : BitVec 12) (gfmt : BitVec 8) (lsc : Nat) (rbase : Nat)
  /-- FSCAT (R365). -/
  | fscat (p : Pred) (trig : Trig) (va : Nat) (vi : Nat) (h : Nat) (fset : BitVec 12) (lsc : Nat) (rbase : Nat)
  /-- FSCATA (R366). -/
  | fscata (p : Pred) (rm : Rm) (trig : Trig) (va : Nat) (vi : Nat) (h : Nat) (fset : BitVec 12) (lsc : Nat) (rbase : Nat)
  /-- FSTRM (R368). -/
  | fstrm (p : Pred) (trig : Trig) (sd : Nat) (sa : Nat) (sb : Nat) (h : Nat) (fset : BitVec 12) (sfmt : BitVec 8) (dir : Bool) (q : Nat) (stride : BitVec 32)
  /-- FGSYNC (R372). -/
  | fgsync (p : Pred) (sd : Nat) (mask : BitVec 8)
  /-- VPOP (R369). -/
  | vpop (p : Pred) (sd : Nat) (vd : Nat) (q : Nat)
  /-- VPUSH (R370). -/
  | vpush (p : Pred) (sd : Nat) (va : Nat) (q : Nat)
  /-- COPY (R373). -/
  | copy (p : Pred) (trig : Trig) (sd : Nat) (sa : Nat) (sb : Nat) (h : Nat) (fset : BitVec 12) (sh : Nat) (sor : Nat)
  /-- COPY2D (R373). -/
  | copy2d (p : Pred) (trig : Trig) (sd : Nat) (sa : Nat) (sb : Nat) (h : Nat) (fset : BitVec 12) (sh : Nat) (sor : Nat)
  /-- HSRD (R376). -/
  | hsrd (p : Pred) (trig : Trig) (sa : Nat) (vd : Nat) (h : Nat)
  /-- HSWR (R377). -/
  | hswr (p : Pred) (sa : Nat) (sb : Nat) (h : Nat) (sh : Nat) (sor : Nat)
  /-- SPST (R378). -/
  | spst (p : Pred) (sa : Nat) (va : Nat) (h : Nat)
  /-- SPLD (R379). -/
  | spld (p : Pred) (sa : Nat) (vd : Nat) (h : Nat)
  /-- CONTRACT (R382). -/
  | contract (p : Pred) (trig : Trig) (sa : Nat) (h : Nat) (fset : BitVec 12)
  /-- KVSEQ_NEW (R398). -/
  | kvseqNew (p : Pred) (sd : Nat) (sa : Nat) (sb : Nat) (sc : Nat) (h : Nat) (tag : Nat) (brow : Nat) (bmaxl : Nat)
  /-- KVSEQ_END (R398). -/
  | kvseqEnd (p : Pred) (sd : Nat) (sa : Nat) (h : Nat)
  /-- KVSEQ_SEAL (R398). -/
  | kvseqSeal (p : Pred) (sd : Nat) (sa : Nat) (h : Nat)
  /-- SPTAG (R399). -/
  | sptag (p : Pred) (sa : Nat) (h : Nat) (tag : Nat)
  /-- KVAPP (R400). -/
  | kvapp (p : Pred) (sd : Nat) (sa : Nat) (sc : Nat) (h : Nat) (sh : Nat) (sor : Nat)
  /-- KVLOOK (R401). -/
  | kvlook (p : Pred) (sd : Nat) (sa : Nat) (sb : Nat) (h : Nat)
  /-- KVLOOK_LD (R401). -/
  | kvlookLd (p : Pred) (vd : Nat) (sd : Nat) (sa : Nat) (sb : Nat) (h : Nat)
  /-- KVLOOK_PF (R401). -/
  | kvlookPf (p : Pred) (sd : Nat) (sa : Nat) (sb : Nat) (h : Nat)
  /-- KVFREE (R402). -/
  | kvfree (p : Pred) (sd : Nat) (sa : Nat) (sb : Nat) (sc : Nat) (h : Nat)
  /-- SPRET_HOLE (R403). -/
  | spretHole (p : Pred) (sd : Nat) (sa : Nat) (h : Nat) (tag : Nat)
  /-- SPRET_CLOSE (R403). -/
  | spretClose (p : Pred) (sd : Nat) (sa : Nat) (h : Nat) (tag : Nat)
  /-- BMREORD (R404). -/
  | bmreord (p : Pred) (sd : Nat) (sa : Nat) (sb : Nat) (sc : Nat) (h : Nat)
  /-- PFXFIND (R405). -/
  | pfxfind (p : Pred) (sd : Nat) (sa : Nat) (sb : Nat) (h : Nat)
  /-- PFXFIND_DROP (R405). -/
  | pfxfindDrop (p : Pred) (sd : Nat) (sb : Nat) (h : Nat)
  /-- PFXINS (R405). -/
  | pfxins (p : Pred) (sd : Nat) (sa : Nat) (sb : Nat) (sc : Nat) (h : Nat)
  /-- KVPIN (R406). -/
  | kvpin (p : Pred) (sd : Nat) (sb : Nat) (h : Nat)
  /-- KVUNPIN (R406). -/
  | kvunpin (p : Pred) (sd : Nat) (sb : Nat) (h : Nat)
  /-- KVPULL (R407). -/
  | kvpull (p : Pred) (trig : Trig) (sd : Nat) (sa : Nat) (sb : Nat) (h : Nat) (fset : BitVec 12)
  /-- KVEVICT (R406). -/
  | kvevict (p : Pred) (trig : Trig) (sd : Nat) (sb : Nat) (h : Nat) (fset : BitVec 12)
  /-- ATTN (R409). -/
  | attn (p : Pred) (trig : Trig) (sd : Nat) (sa : Nat) (h : Nat)
  /-- ILLEGAL_OPCODE (R210). -/
  | illegalOpcode (w : Word) (x : Option Word)
  /-- SCALAR_LOAD_RETURN (R253). -/
  | scalarLoadReturn (t : Nat)
  /-- STORE_PERFORM (R157). -/
  | storePerform (t n : Nat)
  /-- SLEEPTIL_WAKE (R166). -/
  | sleeptilWake (t : Nat)
  /-- WAGGLE_TERM_FIRE (R71). -/
  | waggleTermFire (hv term : Nat)
  /-- VECTOR_ACCESS_COMPLETE (R165). -/
  | vectorAccessComplete (t : Nat) (store : Bool)
  /-- MX_QUEUE_OP (R345). -/
  | mxQueueOp (t : Nat)
  /-- MX_K_STEP (R344). -/
  | mxKStep (t : Nat)
  /-- FORAGER_ACCESS (R362). -/
  | foragerAccess (j : Nat)
  /-- JOB_COMPLETE (R165). -/
  | jobComplete (j : Nat)
  /-- ENGINE_RETRY (R362). -/
  | engineRetry (j : Nat)
  /-- KVAPP_COMMIT (R400). -/
  | kvappCommit (j : Nat)
  /-- KV_EVICT_COMPLETE (R406). -/
  | kvEvictComplete (j : Nat)
  /-- KV_PULL_COMPLETE (R407). -/
  | kvPullComplete (j : Nat)
  /-- CARD_FETCH (R175). -/
  | cardFetch (vf k : Nat)
  /-- DRAW (R177). -/
  | draw (vf l : Nat)
  /-- COMB_CLEAR (R59). -/
  | combClear (t : Nat)
  /-- LAUNCH_END (R47). -/
  | launchEnd (vf l : Nat)
  /-- TASK_SWAP (R189). -/
  | taskSwap (t : Nat)
  /-- TASK_RESTORE (R192). -/
  | taskRestore (t hv vlc : Nat)
  /-- PARTITION_SAVED (R194). -/
  | partitionSaved (vf : Nat)
  /-- PARTITION_RESTORED (R194). -/
  | partitionRestored (vf : Nat)
  /-- NOTICE_WRITE (R197). -/
  | noticeWrite (vf : Nat)
  /-- COUNT_TREE_SUM (R26). -/
  | countTreeSum (t : Nat)
  /-- ROW_EXCHANGE (R322). -/
  | rowExchange (t : Nat)
  /-- SEQUENCER_PASS (R283). -/
  | sequencerPass (t : Nat)
  /-- MODE_SWITCH (R141). -/
  | modeSwitch (t : Nat) (linear : Bool)
  /-- LEASE_EXPIRE (R142). -/
  | leaseExpire (t : Nat)
  /-- INSTRUCTION_PAGE_FAULT (R207). -/
  | instructionPageFault (t : Nat) (addr : Nat)
  /-- STAGE_EPOCH (R179). -/
  | stageEpoch 
  /-- AFR_UPDATE (R183). -/
  | afrUpdate 
  /-- CLOCK_STEP_CHANGE (R427). -/
  | clockStepChange 
  /-- REFRESH_START (R30). -/
  | refreshStart 
  /-- REFRESH_END (R31). -/
  | refreshEnd 
  /-- PSCTL_SAVE (R194). -/
  | psctlSave (vf : Nat)
  /-- PSCTL_RESTORE (R194). -/
  | psctlRestore (vf : Nat)
  /-- CFGLEN (R423). -/
  | cfglen (len : Word) (image : List Byte)
  /-- PCREATE (R425). -/
  | pcreate (args : List Word)
  /-- PDESTROY (R425). -/
  | pdestroy (args : List Word)
  /-- PSAVE (R425). -/
  | psave (args : List Word)
  /-- PRESTORE (R425). -/
  | prestore (args : List Word)
  /-- QSUP (R425). -/
  | qsup (args : List Word)
  /-- PEERWIN (R417). -/
  | peerwin (args : List Word)
  /-- ATTEST (R424). -/
  | attest (args : List Word)
  /-- CHECKPOINT (R428). -/
  | checkpoint (args : List Word)
  /-- CFGNEXT (R425). -/
  | cfgnext (args : List Word)
  /-- LKILL (R426). -/
  | lkill (args : List Word)
  /-- UNKNOWN_COMMAND (R425). -/
  | unknownCommand (c : Nat) (args : List Word)
  /-- MAILBOX_COMPLETE (R425). -/
  | mailboxComplete 
  /-- VERSION (R420). -/
  | version (port hi lo : Nat)
  /-- BAREVT (R419). -/
  | barevt (port : Nat) (gen : Word) (addr event : Nat) (g : Word) (tag : Nat)
  /-- BARRSP (R419). -/
  | barrsp (port tag : Nat) (status : Word)
  /-- BARRSP_TIMEOUT (R419). -/
  | barrspTimeout (t : Nat)
  /-- LSTART (R419). -/
  | lstart (port : Nat) (gen : Word) (rank : Nat)
  /-- LINK_UP (R420). -/
  | linkUp (port : Nat)
  /-- COMPLETION_TIMEOUT (R416). -/
  | completionTimeout (what : TimedOut)
  /-- LINK_DOWN (R416). -/
  | linkDown (port : Nat)
  /-- IDE_CHECK_FAIL (R412). -/
  | ideCheckFail (port : Nat)
  /-- INBOUND_READ (R417). -/
  | inboundRead (at_ : Inbound) (addr len : Nat)
  /-- INBOUND_WRITE (R418). -/
  | inboundWrite (at_ : Inbound) (addr : Nat) (bytes : List Byte)
  /-- INBOUND_ATOMIC (R417). -/
  | inboundAtomic (port : Nat) (addr : Nat) (op : Nat) (w4 : Bool) (a b : Word)
  /-- READY_SET (R422). -/
  | readySet (bit : Nat)
  /-- FUNCTION_FAIL (R422). -/
  | functionFail (bit : Nat)
  /-- THERMAL_HOLD (R427). -/
  | thermalHold (on : Bool)
  /-- THERMAL_RESET (R427). -/
  | thermalReset 
  /-- DEVICE_RESET (R6). -/
  | deviceReset 
  /-- IDE_REKEY (R412). -/
  | ideRekey (port : Nat)
  /-- UNKNOWN_VENDOR_MESSAGE (R419). -/
  | unknownVendorMessage (port : Nat) (code : Nat)
  /-- CACHE_WRITE_BACK (R159). -/
  | cacheWriteBack (hv line : Nat)
  /-- HIVE_CACHE_PREFETCH (R148). -/
  | hiveCachePrefetch (t : Nat) (va : Nat)
  /-- BAR_REGISTER_WRITE (R413). -/
  | barRegisterWrite (vf : Nat) (creg : BitVec 12) (value : Word)
deriving DecidableEq, Repr

end Sys2Proof
end

