-- ==== Sys2Proof/WellFormed.lean ====
section
/-! DEFINITION. Which instructions an encoding can hold: operand ranges and the checks of steps 2 and 3 of R211. -/

namespace Sys2Proof

/-- PR names one of eight predicates. -/
def Pred.ok (p : Pred) : Bool := decide (p.pr < 8)

/-- The predicate of a whole-task word: PR must be 0 (R208, R211). -/
def Pred.whole (p : Pred) : Bool := p.pr == 0

/-- A second source within the register ranges (R212). -/
def Src2.ok : Src2 → Bool
  | .vec vb => decide (vb < 32)
  | .scal sb => decide (sb < 64)

/-- Whether the second source is a vector register. -/
def Src2.isVec : Src2 → Bool
  | .vec _ => true
  | .scal _ => false

/-- A B source within the register ranges. -/
def BSrc.ok : BSrc → Bool
  | .comb vb => decide (vb < 32)
  | .honey h sb => decide (h < 256) && decide (sb < 64)

/-- A waggle term from 0 to 15 and a TAG of three bits (R217). -/
def Trig.ok (t : Trig) : Bool := decide (t.armed.getD 0 < 16) && decide (t.tag < 8)

/-- An optional scalar register. -/
def optReg (o : Option Nat) : Bool := decide (o.getD 0 < 64)

/-- The value of an unsigned shift immediate lies from 0 to 63 (R238). -/
def Imm.isShift {n : Nat} : Imm n → Bool
  | .short v => decide (v.toNat < 64)
  | .long v => decide (v.toNat < 64)

/-- A modifier the format allows: K from 1 to 12 and j below 2^K (R223). -/
def Modifier.ok : Modifier → Bool
  | .none => true
  | .sh _ => true
  | .grp k j => decide (1 ≤ k) && decide (k ≤ 12) && decide (j < 2 ^ k)

/-- Modifiers stand only on the slots that the instruction reads as vector sources (R223). -/
def Mods.okFor (m : Option Mods) (ua ub uc : Bool) : Bool :=
  match m with
  | none => true
  | some m => m.a.ok && m.b.ok && m.c.ok && (ua || m.a == .none) && (ub || m.b == .none) && (uc || m.c == .none)

/-- KIND of a pass or sequence word (R279 to R281). -/
def passKind (x : Word) : Nat := fld x.toNat 62 2

/-- A column specifier of a value that R278's table marks as a fault: SEL 0 with OFF 48 to 62. -/
def cspecIll (c : Nat) : Bool := c / 64 == 0 && decide (48 ≤ c % 64) && c % 64 != 63

/-- A raw pass has a value that the tables of R278 to R282 mark as a fault, or a KIND that its instruction does not take (R281): SHIFT 3,
FEED 3, AUX[2:0], the low bits of a search pass, and column specifiers. -/
def passIll (kind : Nat) (aux : BitVec 8) (x : Word) : Bool :=
  passKind x != kind || fld aux.toNat 6 2 == 3 || fld aux.toNat 4 2 == 3 || fld aux.toNat 0 3 != 0 ||
    (if kind = 0 then cspecIll (fld x.toNat 54 8) || cspecIll (fld x.toNat 46 8) || cspecIll (fld x.toNat 38 8)
     else cspecIll (fld x.toNat 54 8) || cspecIll (fld x.toNat 40 8) || fld x.toNat 0 28 != 0)

/-- A format that R85 defines and that has contents: the targets of VBCAST and VCVT (R295). -/
def targetFmt (f : BitVec 8) : Bool :=
  let n := f.toNat
  n == 0x01 || (decide (0x20 ≤ n) && decide (n ≤ 0x24)) || n == 0x27 || n == 0x30 || n == 0x31 ||
    (decide (0x40 ≤ n) && decide (n ≤ 0xBF))

/-- The targets of VRAND: UINT1 to UINT64, or BIT (R299). -/
def randFmt (f : BitVec 8) : Bool :=
  f.toNat == 0x01 || (decide (0x80 ≤ f.toNat) && decide (f.toNat ≤ 0xBF))

/-- The output zero point of MXDRAIN: within the range of an integer target, 0 for a floating-point target (R352). A
target that MXDRAIN does not take is refused later, by MX.MXFMT. -/
def ozpOk (fmt ozp : BitVec 8) : Bool :=
  let n := fmt.toNat
  if decide (0x40 ≤ n) && decide (n ≤ 0x5F) then
    let w := n - 0x3F
    decide (8 ≤ w) || (decide (-(2 ^ (w - 1) : Int) ≤ ozp.toInt) && decide (ozp.toInt < (2 ^ (w - 1) : Int)))
  else if decide (0x80 ≤ n) && decide (n ≤ 0x9F) then decide (8 ≤ n - 0x7F) || decide (ozp.toNat < 2 ^ (n - 0x7F))
  else if (decide (0x20 ≤ n) && decide (n ≤ 0x24)) || n == 0x27 then ozp == 0
  else true

/-- Register numbers whose SETC has a row of its own in the opcode table. -/
def hasOwnRow (creg : BitVec 12) : Bool :=
  let n := creg.toNat
  n == 0x012 || n == 0x013 || n == 0x014 || n == 0x802 || n == 0x803 || n == 0x809 || n == 0x80A || n == 0x80C ||
    n == 0x80D || (decide (0x850 ≤ n) && decide (n ≤ 0x86F))

/-- OPC of a first word that R224 leaves unassigned, 0x00 and 0x7F among them. -/
def illegalWord (w : Word) : Bool :=
  let o := fld w.toNat 56 7
  !(decide (1 ≤ o) && decide (o ≤ 6) || (decide (0x20 ≤ o) && decide (o ≤ 0x22)) ||
    (decide (0x30 ≤ o) && decide (o ≤ 0x32)) || (decide (0x38 ≤ o) && decide (o ≤ 0x3B)) ||
    (decide (0x40 ≤ o) && decide (o ≤ 0x48)) || (decide (0x60 ≤ o) && decide (o ≤ 0x62)) ||
    (decide (0x68 ≤ o) && decide (o ≤ 0x6A)) || (decide (0x70 ≤ o) && decide (o ≤ 0x74)) ||
    (decide (0x78 ≤ o) && decide (o ≤ 0x7B)))

/-- A register write whose SETC form has its fields in range. -/
def RegWrite.wf : RegWrite → Bool
  | .setc p sa => p.ok && decide (sa < 64)
  | .bar _ _ => true

/-- The SETC form of a register write. -/
def RegWrite.isSetc : RegWrite → Bool
  | .setc _ _ => true
  | .bar _ _ => false

/-- The operands of an instruction lie in the ranges its encoding gives them, and no check of steps 2 and 3 of R211
refuses it. A step of another agent has no encoding and is well formed. -/
def Instr.wf : Instr → Bool
  | .add p sd sa sb =>
    p.ok && decide (sd < 64) && decide (sa < 64) && decide (sb < 64)
  | .sub p sd sa sb =>
    p.ok && decide (sd < 64) && decide (sa < 64) && decide (sb < 64)
  | .mul p sd sa sb =>
    p.ok && decide (sd < 64) && decide (sa < 64) && decide (sb < 64)
  | .mulh p sd sa sb =>
    p.ok && decide (sd < 64) && decide (sa < 64) && decide (sb < 64)
  | .mulhu p sd sa sb =>
    p.ok && decide (sd < 64) && decide (sa < 64) && decide (sb < 64)
  | .div p sd sa sb =>
    p.ok && decide (sd < 64) && decide (sa < 64) && decide (sb < 64)
  | .divu p sd sa sb =>
    p.ok && decide (sd < 64) && decide (sa < 64) && decide (sb < 64)
  | .rem p sd sa sb =>
    p.ok && decide (sd < 64) && decide (sa < 64) && decide (sb < 64)
  | .remu p sd sa sb =>
    p.ok && decide (sd < 64) && decide (sa < 64) && decide (sb < 64)
  | .andS p sd sa sb =>
    p.ok && decide (sd < 64) && decide (sa < 64) && decide (sb < 64)
  | .orS p sd sa sb =>
    p.ok && decide (sd < 64) && decide (sa < 64) && decide (sb < 64)
  | .xorS p sd sa sb =>
    p.ok && decide (sd < 64) && decide (sa < 64) && decide (sb < 64)
  | .shl p sd sa sb =>
    p.ok && decide (sd < 64) && decide (sa < 64) && decide (sb < 64)
  | .shr p sd sa sb =>
    p.ok && decide (sd < 64) && decide (sa < 64) && decide (sb < 64)
  | .sra p sd sa sb =>
    p.ok && decide (sd < 64) && decide (sa < 64) && decide (sb < 64)
  | .rol p sd sa sb =>
    p.ok && decide (sd < 64) && decide (sa < 64) && decide (sb < 64)
  | .clz p sd sa =>
    p.ok && decide (sd < 64) && decide (sa < 64)
  | .ctz p sd sa =>
    p.ok && decide (sd < 64) && decide (sa < 64)
  | .popc p sd sa =>
    p.ok && decide (sd < 64) && decide (sa < 64)
  | .minS p sd sa sb =>
    p.ok && decide (sd < 64) && decide (sa < 64) && decide (sb < 64)
  | .maxS p sd sa sb =>
    p.ok && decide (sd < 64) && decide (sa < 64) && decide (sb < 64)
  | .minu p sd sa sb =>
    p.ok && decide (sd < 64) && decide (sa < 64) && decide (sb < 64)
  | .maxu p sd sa sb =>
    p.ok && decide (sd < 64) && decide (sa < 64) && decide (sb < 64)
  | .sel p sd sa sb sc =>
    p.ok && decide (sd < 64) && decide (sa < 64) && decide (sb < 64) && decide (sc < 64)
  | .exts p sd sa sb =>
    p.ok && decide (sd < 64) && decide (sa < 64) && decide (sb < 64)
  | .extz p sd sa sb =>
    p.ok && decide (sd < 64) && decide (sa < 64) && decide (sb < 64)
  | .ins p sd sa sb sc =>
    p.ok && decide (sd < 64) && decide (sa < 64) && decide (sb < 64) && decide (sc < 64)
  | .addi p sd sa _ =>
    p.ok && decide (sd < 64) && decide (sa < 64)
  | .muli p sd sa _ =>
    p.ok && decide (sd < 64) && decide (sa < 64)
  | .andi p sd sa _ =>
    p.ok && decide (sd < 64) && decide (sa < 64)
  | .ori p sd sa _ =>
    p.ok && decide (sd < 64) && decide (sa < 64)
  | .xori p sd sa _ =>
    p.ok && decide (sd < 64) && decide (sa < 64)
  | .shli p sd sa imm =>
    p.ok && decide (sd < 64) && decide (sa < 64) && imm.isShift
  | .shri p sd sa imm =>
    p.ok && decide (sd < 64) && decide (sa < 64) && imm.isShift
  | .srai p sd sa imm =>
    p.ok && decide (sd < 64) && decide (sa < 64) && imm.isShift
  | .movi p sd _ =>
    p.ok && decide (sd < 64)
  | .cmpeq p qd sa sb =>
    p.ok && decide (qd < 8) && decide (sa < 64) && decide (sb < 64)
  | .cmpne p qd sa sb =>
    p.ok && decide (qd < 8) && decide (sa < 64) && decide (sb < 64)
  | .cmplt p qd sa sb =>
    p.ok && decide (qd < 8) && decide (sa < 64) && decide (sb < 64)
  | .cmpltu p qd sa sb =>
    p.ok && decide (qd < 8) && decide (sa < 64) && decide (sb < 64)
  | .cmple p qd sa sb =>
    p.ok && decide (qd < 8) && decide (sa < 64) && decide (sb < 64)
  | .cmpleu p qd sa sb =>
    p.ok && decide (qd < 8) && decide (sa < 64) && decide (sb < 64)
  | .cmpeqi p qd sa _ =>
    p.ok && decide (qd < 8) && decide (sa < 64)
  | .cmplti p qd sa _ =>
    p.ok && decide (qd < 8) && decide (sa < 64)
  | .qand p qd qa qb =>
    p.ok && decide (qd < 8) && decide (qa < 8) && decide (qb < 8)
  | .qor p qd qa qb =>
    p.ok && decide (qd < 8) && decide (qa < 8) && decide (qb < 8)
  | .qxor p qd qa qb =>
    p.ok && decide (qd < 8) && decide (qa < 8) && decide (qb < 8)
  | .qnot p qd qa =>
    p.ok && decide (qd < 8) && decide (qa < 8)
  | .lea p sd h sa _ =>
    p.ok && decide (sd < 64) && decide (h < 256) && decide (sa < 64)
  | .hchk p sd h sa sb _ =>
    p.ok && decide (sd < 64) && decide (h < 256) && decide (sa < 64) && decide (sb < 64)
  | .br p _ =>
    p.ok
  | .jmp p sa link =>
    p.ok && decide (sa < 64) && decide (link < 64)
  | .call p sl _ =>
    p.ok && decide (sl < 64)
  | .ret p sa =>
    p.ok && decide (sa < 64)
  | .loop p lc sa _ =>
    p.ok && decide (lc < 3) && decide (sa < 64)
  | .loopi p lc _ _ =>
    p.ok && decide (lc < 3)
  | .lbrk p lc =>
    p.ok && decide (lc < 3)
  | .ipref p n _ =>
    p.ok && (decide (1 ≤ n) && decide (n ≤ 64))
  | .trap p _ =>
    p.ok
  | .tret p =>
    p.ok
  | .halt p =>
    p.ok
  | .yield p =>
    p.ok
  | .ld p _ sd h sa _ =>
    p.ok && decide (sd < 64) && decide (h < 256) && decide (sa < 64)
  | .ldI8 p _ sd h sa _ =>
    p.ok && decide (sd < 64) && decide (h < 256) && decide (sa < 64)
  | .ldI16 p _ sd h sa _ =>
    p.ok && decide (sd < 64) && decide (h < 256) && decide (sa < 64)
  | .ldI32 p _ sd h sa _ =>
    p.ok && decide (sd < 64) && decide (h < 256) && decide (sa < 64)
  | .ldZ8 p _ sd h sa _ =>
    p.ok && decide (sd < 64) && decide (h < 256) && decide (sa < 64)
  | .ldZ16 p _ sd h sa _ =>
    p.ok && decide (sd < 64) && decide (h < 256) && decide (sa < 64)
  | .ldZ32 p _ sd h sa _ =>
    p.ok && decide (sd < 64) && decide (h < 256) && decide (sa < 64)
  | .st p _ sd h sa _ =>
    p.ok && decide (sd < 64) && decide (h < 256) && decide (sa < 64)
  | .stI8 p _ sd h sa _ =>
    p.ok && decide (sd < 64) && decide (h < 256) && decide (sa < 64)
  | .stI16 p _ sd h sa _ =>
    p.ok && decide (sd < 64) && decide (h < 256) && decide (sa < 64)
  | .stI32 p _ sd h sa _ =>
    p.ok && decide (sd < 64) && decide (h < 256) && decide (sa < 64)
  | .aadd p _ _ sd h sa sb _ =>
    p.ok && decide (sd < 64) && decide (h < 256) && decide (sa < 64) && decide (sb < 64)
  | .amin p _ _ sd h sa sb _ =>
    p.ok && decide (sd < 64) && decide (h < 256) && decide (sa < 64) && decide (sb < 64)
  | .amax p _ _ sd h sa sb _ =>
    p.ok && decide (sd < 64) && decide (h < 256) && decide (sa < 64) && decide (sb < 64)
  | .aand p _ _ sd h sa sb _ =>
    p.ok && decide (sd < 64) && decide (h < 256) && decide (sa < 64) && decide (sb < 64)
  | .aor p _ _ sd h sa sb _ =>
    p.ok && decide (sd < 64) && decide (h < 256) && decide (sa < 64) && decide (sb < 64)
  | .axor p _ _ sd h sa sb _ =>
    p.ok && decide (sd < 64) && decide (h < 256) && decide (sa < 64) && decide (sb < 64)
  | .aswp p _ _ sd h sa sb _ =>
    p.ok && decide (sd < 64) && decide (h < 256) && decide (sa < 64) && decide (sb < 64)
  | .acas p _ _ sd h sa sb _ =>
    p.ok && decide (sd < 64) && decide (h < 256) && decide (sa < 64) && decide (sb < 64)
  | .fenceAcq p _ =>
    p.ok
  | .fenceRel p _ =>
    p.ok
  | .fenceAr p _ =>
    p.ok
  | .lsync p =>
    p.ok
  | .wait p _ =>
    p.ok
  | .sleeptil p sa =>
    p.ok && decide (sa < 64)
  | .barinit p sd h sa sb _ =>
    p.ok && decide (sd < 64) && decide (h < 256) && decide (sa < 64) && decide (sb < 64)
  | .bararr p sd h sa sb _ =>
    p.ok && decide (sd < 64) && decide (h < 256) && decide (sa < 64) && decide (sb < 64)
  | .barwait p sd h sa sb _ =>
    p.ok && decide (sd < 64) && decide (h < 256) && decide (sa < 64) && decide (sb < 64)
  | .barkill p sd h sa _ =>
    p.ok && decide (sd < 64) && decide (h < 256) && decide (sa < 64)
  | .getc p sd _ =>
    p.ok && decide (sd < 64)
  | .setc p creg sa =>
    p.ok && !hasOwnRow creg && decide (sa < 64)
  | .vstartWrite p sa =>
    p.ok && decide (sa < 64)
  | .avlStripWrite p _ sa =>
    p.ok && decide (sa < 64)
  | .hbaseWrite rw =>
    rw.wf
  | .tlbinv rw =>
    rw.wf
  | .lseedWrite rw =>
    rw.wf
  | .swapSlotWrite _ rw =>
    rw.wf
  | .pfdone rw =>
    rw.wf
  | .lqctlWrite k rw =>
    rw.wf && decide (k < 16)
  | .lqprodDoorbell k rw =>
    rw.wf && decide (k < 16)
  | .svc p sd sa =>
    p.ok && decide (sd < 64) && decide (sa < 64)
  | .cflush p _ h sa sb =>
    p.ok && decide (h < 256) && decide (sa < 64) && decide (sb < 64)
  | .cinv p _ _ h sa sb =>
    p.ok && decide (h < 256) && decide (sa < 64) && decide (sb < 64)
  | .enq p sa =>
    p.ok && decide (sa ≤ 56)
  | .deq p sd =>
    p.ok && decide (sd ≤ 55)
  | .launch p sd h sa k =>
    p.ok && decide (sd < 64) && decide (h < 256) && decide (sa < 64) && decide (k < 16)
  | .wgcfgWr p sd sa _ n =>
    p.ok && decide (sd < 64) && decide (sa < 64) && decide (n < 16)
  | .wgcfgFree p sd sa _ n =>
    p.ok && decide (sd < 64) && decide (sa < 64) && decide (n < 16)
  | .wgcfgRd p sd sa _ n =>
    p.ok && decide (sd < 64) && decide (sa < 64) && decide (n < 16)
  | .wgfire p code =>
    p.ok && decide (code < 4)
  | .wgwait p sd term =>
    p.ok && decide (sd < 64) && decide (term < 16)
  | .vcfg p vd sb m =>
    p.whole && decide (vd < 32) && decide (sb < 64) && Mods.okFor m false false false
  | .vsetvl p sb m =>
    p.whole && decide (sb < 64) && Mods.okFor m false false false
  | .vsetcap p vd sb m =>
    p.whole && decide (vd < 32) && decide (sb < 64) && (sb % 2 == 0) && Mods.okFor m false false false
  | .vgetcap p sb va m =>
    p.whole && decide (sb < 64) && (sb % 2 == 0) && decide (va < 32) && Mods.okFor m false false false
  | .vdisc p va m =>
    p.whole && decide (va < 32) && Mods.okFor m false false false
  | .vadd p _ _ vd va src m =>
    p.ok && decide (vd < 32) && decide (va < 32) && src.ok && Mods.okFor m true src.isVec false
  | .vsub p _ _ vd va src m =>
    p.ok && decide (vd < 32) && decide (va < 32) && src.ok && Mods.okFor m true src.isVec false
  | .vmul p _ _ vd va src m =>
    p.ok && decide (vd < 32) && decide (va < 32) && src.ok && Mods.okFor m true src.isVec false
  | .vmac p _ _ vd va src m =>
    p.ok && decide (vd < 32) && decide (va < 32) && src.ok && Mods.okFor m true src.isVec false
  | .vfma p _ vd va src m =>
    p.ok && decide (vd < 32) && decide (va < 32) && src.ok && Mods.okFor m true src.isVec false
  | .vdiv p _ _ vd va src m =>
    p.ok && decide (vd < 32) && decide (va < 32) && src.ok && Mods.okFor m true src.isVec false
  | .vrcp p _ vd va m =>
    p.ok && decide (vd < 32) && decide (va < 32) && Mods.okFor m true false false
  | .vrsq p _ vd va m =>
    p.ok && decide (vd < 32) && decide (va < 32) && Mods.okFor m true false false
  | .vexp p _ vd va m =>
    p.ok && decide (vd < 32) && decide (va < 32) && Mods.okFor m true false false
  | .vmin p _ _ vd va src m =>
    p.ok && decide (vd < 32) && decide (va < 32) && src.ok && Mods.okFor m true src.isVec false
  | .vmax p _ _ vd va src m =>
    p.ok && decide (vd < 32) && decide (va < 32) && src.ok && Mods.okFor m true src.isVec false
  | .vabs p _ _ vd va m =>
    p.ok && decide (vd < 32) && decide (va < 32) && Mods.okFor m true false false
  | .vneg p _ _ vd va m =>
    p.ok && decide (vd < 32) && decide (va < 32) && Mods.okFor m true false false
  | .vand p vd va src m =>
    p.ok && decide (vd < 32) && decide (va < 32) && src.ok && Mods.okFor m true src.isVec false
  | .vor p vd va src m =>
    p.ok && decide (vd < 32) && decide (va < 32) && src.ok && Mods.okFor m true src.isVec false
  | .vxor p vd va src m =>
    p.ok && decide (vd < 32) && decide (va < 32) && src.ok && Mods.okFor m true src.isVec false
  | .vnot p vd va m =>
    p.ok && decide (vd < 32) && decide (va < 32) && Mods.okFor m true false false
  | .vshl p vd va src m =>
    p.ok && decide (vd < 32) && decide (va < 32) && src.ok && Mods.okFor m true src.isVec false
  | .vshr p vd va src m =>
    p.ok && decide (vd < 32) && decide (va < 32) && src.ok && Mods.okFor m true src.isVec false
  | .vsra p vd va src m =>
    p.ok && decide (vd < 32) && decide (va < 32) && src.ok && Mods.okFor m true src.isVec false
  | .vcmp p _ _ vd va src m =>
    p.ok && decide (vd < 32) && decide (va < 32) && src.ok && Mods.okFor m true src.isVec false
  | .vsel p vd va vb mc m =>
    p.ok && decide (vd < 32) && decide (va < 32) && decide (vb < 32) && decide (mc < 32) && Mods.okFor m true true false
  | .vmov p vd va m =>
    p.ok && decide (vd < 32) && decide (va < 32) && Mods.okFor m true false false
  | .vbcast p vd sb fmt m =>
    p.ok && decide (vd < 32) && decide (sb < 64) && targetFmt fmt && Mods.okFor m false false false
  | .vcvt p _ vd va fmt m =>
    p.ok && decide (vd < 32) && decide (va < 32) && targetFmt fmt && Mods.okFor m true false false
  | .vcvtMem p _ vd sb fmt m =>
    p.ok && decide (vd < 32) && decide (sb < 64) && (sb % 2 == 0) && targetFmt fmt && Mods.okFor m false false false
  | .vshift p vd va sb m =>
    p.ok && decide (vd < 32) && decide (va < 32) && decide (sb < 64) && Mods.okFor m true false false
  | .vrand p vd sb fmt m =>
    p.ok && decide (vd < 32) && decide (sb < 64) && randFmt fmt && Mods.okFor m false false false
  | .vld p vd h sb _ =>
    p.ok && decide (vd < 32) && decide (h < 256) && decide (sb < 64)
  | .vst p va h sb _ =>
    p.ok && decide (va < 32) && decide (h < 256) && decide (sb < 64)
  | .vldff p vd h sb _ =>
    p.ok && decide (vd < 32) && decide (h < 256) && decide (sb < 64)
  | .vrsumO p _ nov vd va osb m =>
    p.ok && (!nov || (vd == 0 && osb.isSome)) && decide (vd < 32) && decide (va < 32) && optReg osb && Mods.okFor m true false false
  | .vrsumT p _ nov vd va osb m =>
    p.ok && (!nov || (vd == 0 && osb.isSome)) && decide (vd < 32) && decide (va < 32) && optReg osb && Mods.okFor m true false false
  | .vrmax p nov vd va osb m =>
    p.ok && (!nov || (vd == 0 && osb.isSome)) && decide (vd < 32) && decide (va < 32) && optReg osb && Mods.okFor m true false false
  | .vrmin p nov vd va osb m =>
    p.ok && (!nov || (vd == 0 && osb.isSome)) && decide (vd < 32) && decide (va < 32) && optReg osb && Mods.okFor m true false false
  | .vcount p nov vd osb m =>
    p.ok && (!nov || (vd == 0 && osb.isSome)) && decide (vd < 32) && optReg osb && Mods.okFor m false false false
  | .vrank p vd va m =>
    p.ok && decide (vd < 32) && decide (va < 32) && Mods.okFor m true false false
  | .vdefer p sb path m =>
    p.ok && decide (sb < 64) && decide (path < 16) && Mods.okFor m false false false
  | .vdrain p vd ma sb path m =>
    p.whole && decide (vd < 32) && decide (ma < 32) && decide (sb < 64) && decide (path < 16) && Mods.okFor m false false false
  | .mand p md ma mb m =>
    p.ok && decide (md < 32) && decide (ma < 32) && decide (mb < 32) && Mods.okFor m false false false
  | .mor p md ma mb m =>
    p.ok && decide (md < 32) && decide (ma < 32) && decide (mb < 32) && Mods.okFor m false false false
  | .mxor p md ma mb m =>
    p.ok && decide (md < 32) && decide (ma < 32) && decide (mb < 32) && Mods.okFor m false false false
  | .mnot p md ma m =>
    p.ok && decide (md < 32) && decide (ma < 32) && Mods.okFor m false false false
  | .mfirst p md ma m =>
    p.ok && decide (md < 32) && decide (ma < 32) && Mods.okFor m false false false
  | .pass p vd va vb osb aux x =>
    p.ok && decide (vd < 32) && decide (va < 32) && decide (vb < 32) && optReg osb && !passIll 0 aux x
  | .pseq p vd va vb osb x =>
    p.ok && decide (vd < 32) && decide (va < 32) && decide (vb < 32) && optReg osb && passKind x == 2
  | .ptload p h sb =>
    p.whole && decide (h < 256) && decide (sb < 64)
  | .search p vd va vb sb aux x =>
    p.ok && decide (vd < 32) && decide (va < 32) && decide (vb < 32) && decide (sb < 64) && (sb % 2 == 0) && !passIll 1 aux x
  | .vmwrite p md sb =>
    p.whole && decide (md < 32) && decide (sb < 64)
  | .cmode p sb =>
    p.whole && decide (sb < 64)
  | .vscrub p =>
    p.whole
  | .vtopk p _ vd ve va sd sa m =>
    p.ok && decide (vd < 32) && decide (ve < 32) && decide (va < 32) && decide (sd < 64) && decide (sa < 64) && Mods.okFor m true false false
  | .vbotk p _ vd ve va sd sa m =>
    p.ok && decide (vd < 32) && decide (ve < 32) && decide (va < 32) && decide (sd < 64) && decide (sa < 64) && Mods.okFor m true false false
  | .vargmax p _ nov vd ve va sd m =>
    p.ok && (!nov || (vd == 0 && ve == 0)) && decide (vd < 32) && decide (ve < 32) && decide (va < 32) && decide (sd < 64) && Mods.okFor m true false false
  | .vargmin p _ nov vd ve va sd m =>
    p.ok && (!nov || (vd == 0 && ve == 0)) && decide (vd < 32) && decide (ve < 32) && decide (va < 32) && decide (sd < 64) && Mods.okFor m true false false
  | .vsort p _ vd ve va sd m =>
    p.ok && decide (vd < 32) && decide (ve < 32) && decide (va < 32) && decide (sd < 64) && Mods.okFor m true false false
  | .vperm p vd va vb m =>
    p.ok && decide (vd < 32) && decide (va < 32) && decide (vb < 32) && Mods.okFor m true true false
  | .vuniq p vd ve va sd m =>
    p.ok && decide (vd < 32) && decide (ve < 32) && decide (va < 32) && decide (sd < 64) && Mods.okFor m true false false
  | .vsim p vd va vb m =>
    p.ok && decide (vd < 32) && decide (va < 32) && decide (vb < 32) && Mods.okFor m true true false
  | .vnear p vd ve va vb sd sa m =>
    p.ok && decide (vd < 32) && decide (ve < 32) && decide (va < 32) && decide (vb < 32) && decide (sd < 64) && decide (sa < 64) && Mods.okFor m true true false
  | .nmsearch p vd va sd sa m =>
    p.whole && decide (vd < 32) && decide (va < 32) && decide (sd < 64) && decide (sa < 64) && Mods.okFor m true false false
  | .mxatt p sa sb =>
    p.whole && decide (sa < 64) && decide (sb < 64)
  | .mxdet p =>
    p.whole
  | .mxzero p ad =>
    p.whole && decide (ad < 4)
  | .mxmac p _ _ trig ad va b sa mm1 nm1 km1 =>
    p.ok && (trig.ok && decide (trig.tag < 4)) && decide (ad < 4) && decide (va < 32) && b.ok && decide (sa < 64) && decide (mm1 < 128) && decide (nm1 < 128) && decide (km1 < 65536)
  | .mxld p trig ad sa h =>
    p.whole && (trig.ok && decide (trig.tag < 4)) && decide (ad < 4) && decide (sa < 64) && decide (h < 256)
  | .mxrd p trig ad sa sb h =>
    p.whole && (trig.ok && decide (trig.tag < 4)) && decide (ad < 4) && decide (sa < 64) && decide (sb < 64) && decide (h < 256)
  | .mxscl p trig sa h =>
    p.whole && (trig.ok && decide (trig.tag < 4)) && decide (sa < 64) && decide (h < 256)
  | .mxdrain p _ trig va ad vb sa mm1 nm1 tfmt ozp _ rowt _ =>
    p.ok && (trig.ok && decide (trig.tag < 4)) && decide (va < 32) && decide (ad < 4) && decide (vb < 32) && decide (sa < 64) && decide (mm1 < 128) && decide (nm1 < 128) && ozpOk tfmt ozp && (rowt || vb == 0)
  | .fgath p trig vd vi h _ _ lsc rbase =>
    p.ok && trig.ok && decide (vd < 32) && decide (vi < 32) && decide (h < 256) && decide (lsc ≤ 6) && decide (rbase < 64)
  | .fscat p trig va vi h _ lsc rbase =>
    p.ok && trig.ok && decide (va < 32) && decide (vi < 32) && decide (h < 256) && decide (lsc ≤ 6) && decide (rbase < 64)
  | .fscata p _ trig va vi h _ lsc rbase =>
    p.ok && trig.ok && decide (va < 32) && decide (vi < 32) && decide (h < 256) && decide (lsc ≤ 6) && decide (rbase < 64)
  | .fstrm p trig sd sa sb h _ _ _ q _ =>
    p.whole && trig.ok && decide (sd < 64) && decide (sa < 64) && decide (sb < 64) && decide (h < 256) && decide (q < 8)
  | .fgsync p sd _ =>
    p.whole && decide (sd < 64)
  | .vpop p sd vd q =>
    p.ok && decide (sd < 64) && decide (vd < 32) && decide (q < 8)
  | .vpush p sd va q =>
    p.ok && decide (sd < 64) && decide (va < 32) && decide (q < 8)
  | .copy p trig sd sa sb h _ sh sor =>
    p.whole && trig.ok && decide (sd < 64) && decide (sa < 64) && decide (sb < 64) && decide (h < 256) && decide (sh < 256) && decide (sor < 64)
  | .copy2d p trig sd sa sb h _ sh sor =>
    p.whole && trig.ok && decide (sd < 64) && decide (sa < 64) && decide (sb ≤ 60) && decide (h < 256) && decide (sh < 256) && decide (sor < 64)
  | .hsrd p trig sa vd h =>
    p.ok && (trig.ok && decide (trig.tag < 4)) && decide (sa < 64) && decide (vd < 32) && decide (h < 256)
  | .hswr p sa sb h sh sor =>
    p.whole && decide (sa < 64) && decide (sb < 64) && decide (h < 256) && decide (sh < 256) && decide (sor < 64)
  | .spst p sa va h =>
    p.ok && decide (sa < 64) && decide (va < 32) && decide (h < 256)
  | .spld p sa vd h =>
    p.ok && decide (sa < 64) && decide (vd < 32) && decide (h < 256)
  | .contract p trig sa h _ =>
    p.whole && (trig.ok && decide (trig.tag < 4)) && decide (sa < 64) && decide (h < 256)
  | .kvseqNew p sd sa sb sc h tag brow bmaxl =>
    p.ok && decide (sd < 64) && decide (sa < 64) && decide (sb < 64) && decide (sc < 64) && decide (h < 256) && decide (tag < 16) && decide (brow < 65536) && decide (bmaxl < 65536) && (bmaxl != 0 || (sc == 0 && brow == 0))
  | .kvseqEnd p sd sa h =>
    p.ok && decide (sd < 64) && decide (sa < 64) && decide (h < 256)
  | .kvseqSeal p sd sa h =>
    p.ok && decide (sd < 64) && decide (sa < 64) && decide (h < 256)
  | .sptag p sa h tag =>
    p.ok && decide (sa < 64) && decide (h < 256) && decide (tag < 16)
  | .kvapp p sd sa sc h sh sor =>
    p.ok && decide (sd < 64) && decide (sa < 64) && decide (sc < 64) && decide (h < 256) && decide (sh < 256) && decide (sor < 64)
  | .kvlook p sd sa sb h =>
    p.ok && decide (sd < 64) && decide (sa < 64) && decide (sb < 64) && decide (h < 256)
  | .kvlookLd p vd sd sa sb h =>
    p.ok && decide (vd < 32) && decide (sd < 64) && decide (sa < 64) && decide (sb < 64) && decide (h < 256)
  | .kvlookPf p sd sa sb h =>
    p.ok && decide (sd < 64) && decide (sa < 64) && decide (sb < 64) && decide (h < 256)
  | .kvfree p sd sa sb sc h =>
    p.ok && decide (sd < 64) && decide (sa < 64) && decide (sb < 64) && decide (sc < 64) && decide (h < 256)
  | .spretHole p sd sa h tag =>
    p.ok && decide (sd < 64) && decide (sa < 64) && decide (h < 256) && decide (tag < 16)
  | .spretClose p sd sa h tag =>
    p.ok && decide (sd < 64) && decide (sa < 64) && decide (h < 256) && decide (tag < 16)
  | .bmreord p sd sa sb sc h =>
    p.ok && decide (sd < 64) && decide (sa < 64) && decide (sb < 64) && decide (sc < 64) && decide (h < 256)
  | .pfxfind p sd sa sb h =>
    p.ok && decide (sd < 64) && decide (sa < 64) && decide (sb < 64) && decide (h < 256)
  | .pfxfindDrop p sd sb h =>
    p.ok && decide (sd < 64) && decide (sb < 64) && decide (h < 256)
  | .pfxins p sd sa sb sc h =>
    p.ok && decide (sd < 64) && decide (sa < 64) && decide (sb < 64) && decide (sc < 64) && decide (h < 256)
  | .kvpin p sd sb h =>
    p.ok && decide (sd < 64) && decide (sb < 64) && decide (h < 256)
  | .kvunpin p sd sb h =>
    p.ok && decide (sd < 64) && decide (sb < 64) && decide (h < 256)
  | .kvpull p trig sd sa sb h _ =>
    p.ok && trig.ok && decide (sd < 64) && decide (sa < 64) && decide (sb < 64) && decide (h < 256)
  | .kvevict p trig sd sb h _ =>
    p.ok && trig.ok && decide (sd < 64) && decide (sb < 64) && decide (h < 256)
  | .attn p trig sd sa h =>
    p.ok && trig.ok && decide (sd < 64) && decide (sa < 64) && decide (h < 256)
  | .illegalOpcode w x => illegalWord w && (x.isSome == w.getLsbD 63)
  | .scalarLoadReturn _ => true
  | .storePerform _ _ => true
  | .sleeptilWake _ => true
  | .waggleTermFire _ _ => true
  | .vectorAccessComplete _ _ => true
  | .mxQueueOp _ => true
  | .mxKStep _ => true
  | .foragerAccess _ => true
  | .jobComplete _ => true
  | .engineRetry _ => true
  | .kvappCommit _ => true
  | .kvEvictComplete _ => true
  | .kvPullComplete _ => true
  | .cardFetch _ _ => true
  | .draw _ _ => true
  | .combClear _ => true
  | .launchEnd _ _ => true
  | .taskSwap _ => true
  | .taskRestore _ _ _ => true
  | .partitionSaved _ => true
  | .partitionRestored _ => true
  | .noticeWrite _ => true
  | .sequencerPass _ => true
  | .countTreeSum _ => true
  | .rowExchange _ => true
  | .modeSwitch _ _ => true
  | .leaseExpire _ => true
  | .instructionPageFault _ _ => true
  | .stageEpoch => true
  | .afrUpdate => true
  | .clockStepChange => true
  | .refreshStart => true
  | .refreshEnd => true
  | .psctlSave _ => true
  | .psctlRestore _ => true
  | .cfglen _ _ => true
  | .pcreate _ => true
  | .pdestroy _ => true
  | .psave _ => true
  | .prestore _ => true
  | .qsup _ => true
  | .peerwin _ => true
  | .attest _ => true
  | .checkpoint _ => true
  | .cfgnext _ => true
  | .lkill _ => true
  | .unknownCommand _ _ => true
  | .mailboxComplete => true
  | .version _ _ _ => true
  | .barevt _ _ _ _ _ _ => true
  | .barrsp _ _ _ => true
  | .barrspTimeout _ => true
  | .lstart _ _ _ => true
  | .linkUp _ => true
  | .completionTimeout _ => true
  | .linkDown _ => true
  | .ideCheckFail _ => true
  | .inboundRead _ _ _ => true
  | .inboundWrite _ _ _ => true
  | .inboundAtomic _ _ _ _ _ _ => true
  | .readySet _ => true
  | .functionFail _ => true
  | .thermalHold _ => true
  | .thermalReset => true
  | .deviceReset => true
  | .ideRekey _ => true
  | .unknownVendorMessage _ _ => true
  | .cacheWriteBack _ _ => true
  | .hiveCachePrefetch _ _ => true
  | .barRegisterWrite _ _ _ => true

/-- The instruction is read from instruction words (the others are steps of other agents). -/
def Instr.isWord : Instr → Bool
  | .add _ _ _ _ => true
  | .sub _ _ _ _ => true
  | .mul _ _ _ _ => true
  | .mulh _ _ _ _ => true
  | .mulhu _ _ _ _ => true
  | .div _ _ _ _ => true
  | .divu _ _ _ _ => true
  | .rem _ _ _ _ => true
  | .remu _ _ _ _ => true
  | .andS _ _ _ _ => true
  | .orS _ _ _ _ => true
  | .xorS _ _ _ _ => true
  | .shl _ _ _ _ => true
  | .shr _ _ _ _ => true
  | .sra _ _ _ _ => true
  | .rol _ _ _ _ => true
  | .clz _ _ _ => true
  | .ctz _ _ _ => true
  | .popc _ _ _ => true
  | .minS _ _ _ _ => true
  | .maxS _ _ _ _ => true
  | .minu _ _ _ _ => true
  | .maxu _ _ _ _ => true
  | .sel _ _ _ _ _ => true
  | .exts _ _ _ _ => true
  | .extz _ _ _ _ => true
  | .ins _ _ _ _ _ => true
  | .addi _ _ _ _ => true
  | .muli _ _ _ _ => true
  | .andi _ _ _ _ => true
  | .ori _ _ _ _ => true
  | .xori _ _ _ _ => true
  | .shli _ _ _ _ => true
  | .shri _ _ _ _ => true
  | .srai _ _ _ _ => true
  | .movi _ _ _ => true
  | .cmpeq _ _ _ _ => true
  | .cmpne _ _ _ _ => true
  | .cmplt _ _ _ _ => true
  | .cmpltu _ _ _ _ => true
  | .cmple _ _ _ _ => true
  | .cmpleu _ _ _ _ => true
  | .cmpeqi _ _ _ _ => true
  | .cmplti _ _ _ _ => true
  | .qand _ _ _ _ => true
  | .qor _ _ _ _ => true
  | .qxor _ _ _ _ => true
  | .qnot _ _ _ => true
  | .lea _ _ _ _ _ => true
  | .hchk _ _ _ _ _ _ => true
  | .br _ _ => true
  | .jmp _ _ _ => true
  | .call _ _ _ => true
  | .ret _ _ => true
  | .loop _ _ _ _ => true
  | .loopi _ _ _ _ => true
  | .lbrk _ _ => true
  | .ipref _ _ _ => true
  | .trap _ _ => true
  | .tret _ => true
  | .halt _ => true
  | .yield _ => true
  | .ld _ _ _ _ _ _ => true
  | .ldI8 _ _ _ _ _ _ => true
  | .ldI16 _ _ _ _ _ _ => true
  | .ldI32 _ _ _ _ _ _ => true
  | .ldZ8 _ _ _ _ _ _ => true
  | .ldZ16 _ _ _ _ _ _ => true
  | .ldZ32 _ _ _ _ _ _ => true
  | .st _ _ _ _ _ _ => true
  | .stI8 _ _ _ _ _ _ => true
  | .stI16 _ _ _ _ _ _ => true
  | .stI32 _ _ _ _ _ _ => true
  | .aadd _ _ _ _ _ _ _ _ => true
  | .amin _ _ _ _ _ _ _ _ => true
  | .amax _ _ _ _ _ _ _ _ => true
  | .aand _ _ _ _ _ _ _ _ => true
  | .aor _ _ _ _ _ _ _ _ => true
  | .axor _ _ _ _ _ _ _ _ => true
  | .aswp _ _ _ _ _ _ _ _ => true
  | .acas _ _ _ _ _ _ _ _ => true
  | .fenceAcq _ _ => true
  | .fenceRel _ _ => true
  | .fenceAr _ _ => true
  | .lsync _ => true
  | .wait _ _ => true
  | .sleeptil _ _ => true
  | .barinit _ _ _ _ _ _ => true
  | .bararr _ _ _ _ _ _ => true
  | .barwait _ _ _ _ _ _ => true
  | .barkill _ _ _ _ _ => true
  | .getc _ _ _ => true
  | .setc _ _ _ => true
  | .vstartWrite _ _ => true
  | .avlStripWrite _ _ _ => true
  | .hbaseWrite rw => rw.isSetc
  | .tlbinv rw => rw.isSetc
  | .lseedWrite rw => rw.isSetc
  | .swapSlotWrite _ rw => rw.isSetc
  | .pfdone rw => rw.isSetc
  | .lqctlWrite _ rw => rw.isSetc
  | .lqprodDoorbell _ rw => rw.isSetc
  | .svc _ _ _ => true
  | .cflush _ _ _ _ _ => true
  | .cinv _ _ _ _ _ _ => true
  | .enq _ _ => true
  | .deq _ _ => true
  | .launch _ _ _ _ _ => true
  | .wgcfgWr _ _ _ _ _ => true
  | .wgcfgFree _ _ _ _ _ => true
  | .wgcfgRd _ _ _ _ _ => true
  | .wgfire _ _ => true
  | .wgwait _ _ _ => true
  | .vcfg _ _ _ _ => true
  | .vsetvl _ _ _ => true
  | .vsetcap _ _ _ _ => true
  | .vgetcap _ _ _ _ => true
  | .vdisc _ _ _ => true
  | .vadd _ _ _ _ _ _ _ => true
  | .vsub _ _ _ _ _ _ _ => true
  | .vmul _ _ _ _ _ _ _ => true
  | .vmac _ _ _ _ _ _ _ => true
  | .vfma _ _ _ _ _ _ => true
  | .vdiv _ _ _ _ _ _ _ => true
  | .vrcp _ _ _ _ _ => true
  | .vrsq _ _ _ _ _ => true
  | .vexp _ _ _ _ _ => true
  | .vmin _ _ _ _ _ _ _ => true
  | .vmax _ _ _ _ _ _ _ => true
  | .vabs _ _ _ _ _ _ => true
  | .vneg _ _ _ _ _ _ => true
  | .vand _ _ _ _ _ => true
  | .vor _ _ _ _ _ => true
  | .vxor _ _ _ _ _ => true
  | .vnot _ _ _ _ => true
  | .vshl _ _ _ _ _ => true
  | .vshr _ _ _ _ _ => true
  | .vsra _ _ _ _ _ => true
  | .vcmp _ _ _ _ _ _ _ => true
  | .vsel _ _ _ _ _ _ => true
  | .vmov _ _ _ _ => true
  | .vbcast _ _ _ _ _ => true
  | .vcvt _ _ _ _ _ _ => true
  | .vcvtMem _ _ _ _ _ _ => true
  | .vshift _ _ _ _ _ => true
  | .vrand _ _ _ _ _ => true
  | .vld _ _ _ _ _ => true
  | .vst _ _ _ _ _ => true
  | .vldff _ _ _ _ _ => true
  | .vrsumO _ _ _ _ _ _ _ => true
  | .vrsumT _ _ _ _ _ _ _ => true
  | .vrmax _ _ _ _ _ _ => true
  | .vrmin _ _ _ _ _ _ => true
  | .vcount _ _ _ _ _ => true
  | .vrank _ _ _ _ => true
  | .vdefer _ _ _ _ => true
  | .vdrain _ _ _ _ _ _ => true
  | .mand _ _ _ _ _ => true
  | .mor _ _ _ _ _ => true
  | .mxor _ _ _ _ _ => true
  | .mnot _ _ _ _ => true
  | .mfirst _ _ _ _ => true
  | .pass _ _ _ _ _ _ _ => true
  | .pseq _ _ _ _ _ _ => true
  | .ptload _ _ _ => true
  | .search _ _ _ _ _ _ _ => true
  | .vmwrite _ _ _ => true
  | .cmode _ _ => true
  | .vscrub _ => true
  | .vtopk _ _ _ _ _ _ _ _ => true
  | .vbotk _ _ _ _ _ _ _ _ => true
  | .vargmax _ _ _ _ _ _ _ _ => true
  | .vargmin _ _ _ _ _ _ _ _ => true
  | .vsort _ _ _ _ _ _ _ => true
  | .vperm _ _ _ _ _ => true
  | .vuniq _ _ _ _ _ _ => true
  | .vsim _ _ _ _ _ => true
  | .vnear _ _ _ _ _ _ _ _ => true
  | .nmsearch _ _ _ _ _ _ => true
  | .mxatt _ _ _ => true
  | .mxdet _ => true
  | .mxzero _ _ => true
  | .mxmac _ _ _ _ _ _ _ _ _ _ _ => true
  | .mxld _ _ _ _ _ => true
  | .mxrd _ _ _ _ _ _ => true
  | .mxscl _ _ _ _ => true
  | .mxdrain _ _ _ _ _ _ _ _ _ _ _ _ _ _ => true
  | .fgath _ _ _ _ _ _ _ _ _ => true
  | .fscat _ _ _ _ _ _ _ _ => true
  | .fscata _ _ _ _ _ _ _ _ _ => true
  | .fstrm _ _ _ _ _ _ _ _ _ _ _ => true
  | .fgsync _ _ _ => true
  | .vpop _ _ _ _ => true
  | .vpush _ _ _ _ => true
  | .copy _ _ _ _ _ _ _ _ _ => true
  | .copy2d _ _ _ _ _ _ _ _ _ => true
  | .hsrd _ _ _ _ _ => true
  | .hswr _ _ _ _ _ _ => true
  | .spst _ _ _ _ => true
  | .spld _ _ _ _ => true
  | .contract _ _ _ _ _ => true
  | .kvseqNew _ _ _ _ _ _ _ _ _ => true
  | .kvseqEnd _ _ _ _ => true
  | .kvseqSeal _ _ _ _ => true
  | .sptag _ _ _ _ => true
  | .kvapp _ _ _ _ _ _ _ => true
  | .kvlook _ _ _ _ _ => true
  | .kvlookLd _ _ _ _ _ _ => true
  | .kvlookPf _ _ _ _ _ => true
  | .kvfree _ _ _ _ _ _ => true
  | .spretHole _ _ _ _ _ => true
  | .spretClose _ _ _ _ _ => true
  | .bmreord _ _ _ _ _ _ => true
  | .pfxfind _ _ _ _ _ => true
  | .pfxfindDrop _ _ _ _ => true
  | .pfxins _ _ _ _ _ _ => true
  | .kvpin _ _ _ _ => true
  | .kvunpin _ _ _ _ => true
  | .kvpull _ _ _ _ _ _ _ => true
  | .kvevict _ _ _ _ _ _ => true
  | .attn _ _ _ _ _ => true
  | .illegalOpcode _ _ => true
  | .scalarLoadReturn _ => false
  | .storePerform _ _ => false
  | .sleeptilWake _ => false
  | .waggleTermFire _ _ => false
  | .vectorAccessComplete _ _ => false
  | .mxQueueOp _ => false
  | .mxKStep _ => false
  | .foragerAccess _ => false
  | .jobComplete _ => false
  | .engineRetry _ => false
  | .kvappCommit _ => false
  | .kvEvictComplete _ => false
  | .kvPullComplete _ => false
  | .cardFetch _ _ => false
  | .draw _ _ => false
  | .combClear _ => false
  | .launchEnd _ _ => false
  | .taskSwap _ => false
  | .taskRestore _ _ _ => false
  | .partitionSaved _ => false
  | .partitionRestored _ => false
  | .noticeWrite _ => false
  | .sequencerPass _ => false
  | .countTreeSum _ => false
  | .rowExchange _ => false
  | .modeSwitch _ _ => false
  | .leaseExpire _ => false
  | .instructionPageFault _ _ => false
  | .stageEpoch => false
  | .afrUpdate => false
  | .clockStepChange => false
  | .refreshStart => false
  | .refreshEnd => false
  | .psctlSave _ => false
  | .psctlRestore _ => false
  | .cfglen _ _ => false
  | .pcreate _ => false
  | .pdestroy _ => false
  | .psave _ => false
  | .prestore _ => false
  | .qsup _ => false
  | .peerwin _ => false
  | .attest _ => false
  | .checkpoint _ => false
  | .cfgnext _ => false
  | .lkill _ => false
  | .unknownCommand _ _ => false
  | .mailboxComplete => false
  | .version _ _ _ => false
  | .barevt _ _ _ _ _ _ => false
  | .barrsp _ _ _ => false
  | .barrspTimeout _ => false
  | .lstart _ _ _ => false
  | .linkUp _ => false
  | .completionTimeout _ => false
  | .linkDown _ => false
  | .ideCheckFail _ => false
  | .inboundRead _ _ _ => false
  | .inboundWrite _ _ _ => false
  | .inboundAtomic _ _ _ _ _ _ => false
  | .readySet _ => false
  | .functionFail _ => false
  | .thermalHold _ => false
  | .thermalReset => false
  | .deviceReset => false
  | .ideRekey _ => false
  | .unknownVendorMessage _ _ => false
  | .cacheWriteBack _ _ => false
  | .hiveCachePrefetch _ _ => false
  | .barRegisterWrite _ _ _ => false

end Sys2Proof
end

