-- ==== Sys2Proof/Decode.lean ====
section
/-! DEFINITION. The decoder, total on any words and rejecting by name, and the encoder written from the same tables
(R206 to R224). -/

namespace Sys2Proof

/-- The code of a rounding mode (R116). -/
def Rm.code : Rm → Nat
  | .rne => 0 | .rtz => 1 | .rup => 2 | .rdn => 3 | .rto => 4

/-- The rounding mode of a code; codes 5 to 7 are refused before they are read. -/
def Rm.of : Nat → Rm
  | 0 => .rne | 1 => .rtz | 2 => .rup | 3 => .rdn | _ => .rto

/-- The code of a form (R218). -/
def WF.code : WF → Nat
  | .plain => 0 | .wide => 1 | .sat => 2

/-- The form of a code; code 3 is refused before it is read. -/
def WF.of : Nat → WF
  | 0 => .plain | 1 => .wide | _ => .sat

/-- The code of a relation (R295). -/
def Rel.code : Rel → Nat
  | .eq => 0 | .ne => 1 | .lt => 2 | .le => 3 | .gt => 4 | .ge => 5

/-- The relation of a code; codes 6 and 7 are refused before they are read. -/
def Rel.of : Nat → Rel
  | 0 => .eq | 1 => .ne | 2 => .lt | 3 => .le | 4 => .gt | _ => .ge

/-- The code of a scope (R216). -/
def Scope.code : Scope → Nat
  | .hive => 0 | .die => 1 | .pkg => 2 | .sys => 3

/-- The scope of a code. -/
def Scope.of : Nat → Scope
  | 0 => .hive | 1 => .die | 2 => .pkg | _ => .sys

/-- SCOPE of an access: its scope when it is strong, 0 when it is weak (R216). -/
def Scope.optCode : Option Scope → Nat
  | none => 0
  | some s => s.code

/-- Strength from STR and SCOPE. -/
def Scope.optOf (str scope : Nat) : Option Scope := if str == 1 then some (Scope.of scope) else none

/-- The immediate field of the first word: zero when the extension word carries the immediate (R222). -/
def Imm.field {n : Nat} : Imm n → Nat
  | .short v => v.toNat
  | .long _ => 0

/-- The extension word of an immediate. -/
def Imm.ext {n : Nat} : Imm n → Option Word
  | .short _ => none
  | .long v => some v

/-- The immediate that a field and an extension word give (R222). -/
def Imm.of (n : Nat) (xo : Option Word) (field : Nat) : Imm n :=
  match xo with
  | none => .short (BitVec.ofNat n field)
  | some v => .long v

/-- BS, VB and SB of a second source (R218). -/
def Src2.bsBit : Src2 → Nat
  | .vec _ => 0
  | .scal _ => 1
/-- SB of a second source. -/
def Src2.sbField : Src2 → Nat
  | .vec _ => 0
  | .scal sb => sb
/-- VB of a second source. -/
def Src2.vbField : Src2 → Nat
  | .vec vb => vb
  | .scal _ => 0
/-- The second source that BS, SB and VB give. -/
def Src2.of (bs sb vb : Nat) : Src2 := if bs == 1 then .scal sb else .vec vb

/-- BSRC of a B source (R220). -/
def BSrc.bsrcBit : BSrc → Nat
  | .comb _ => 0
  | .honey _ _ => 1
/-- VB of a B source. -/
def BSrc.vbField : BSrc → Nat
  | .comb vb => vb
  | .honey _ _ => 0
/-- H of a B source. -/
def BSrc.hField : BSrc → Nat
  | .comb _ => 0
  | .honey h _ => h
/-- SB of a B source. -/
def BSrc.sbField : BSrc → Nat
  | .comb _ => 0
  | .honey _ sb => sb
/-- The B source that BSRC, VB, H and SB give. -/
def BSrc.of (bsrc vb h sb : Nat) : BSrc := if bsrc == 1 then .honey h sb else .comb vb

/-- ARM of an operation (R217). -/
def Trig.armBit (t : Trig) : Nat := if t.armed.isSome then 1 else 0
/-- TERM of an operation: 0 when it is not armed. -/
def Trig.termField (t : Trig) : Nat := t.armed.getD 0
/-- ARM, TERM and TAG as AUX holds them (R217). -/
def Trig.aux (t : Trig) : Nat := t.armBit * 128 + t.termField * 8 + t.tag
/-- The fields ARM, TERM and TAG as an operation. -/
def Trig.ofA (arm term tag : Nat) : Trig := ⟨if arm == 1 then some term else none, tag⟩
/-- The operation that AUX gives. -/
def Trig.ofAux (aux : Nat) : Trig := .ofA (fld aux 7 1) (fld aux 3 4) (fld aux 0 3)
/-- TERM is nonzero although ARM is 0 (R217). -/
def Trig.rsvAux (aux : Nat) : Bool := fld aux 7 1 == 0 && fld aux 3 4 != 0

/-- The 21 bits of a modifier (R223). -/
def Modifier.bits : Modifier → Nat
  | .none => 0
  | .sh d => 1 * 2 ^ 19 + d.toNat
  | .grp k j => 2 * 2 ^ 19 + k * 2 ^ 12 + j
/-- The modifier of 21 bits; KIND 3 is refused before it is read. -/
def Modifier.of (b : Nat) : Modifier :=
  match fld b 19 2 with
  | 0 => .none
  | 1 => .sh (BitVec.ofNat 19 (fld b 0 19))
  | _ => .grp (fld b 12 5) (fld b 0 12)
/-- KIND 3, K outside 1 to 12, or j at or above g: INSN.ILLFN (R223). -/
def Modifier.ill (b : Nat) : Bool :=
  fld b 19 2 == 3 ||
    (fld b 19 2 == 2 &&
      (fld b 12 5 == 0 || decide (fld b 12 5 > 12) || decide (fld b 0 12 ≥ 2 ^ fld b 12 5)))
/-- A reserved bit of a modifier is nonzero: INSN.RSVNZ (R223). -/
def Modifier.rsvd (b : Nat) : Bool :=
  (fld b 19 2 == 0 && fld b 0 19 != 0) || (fld b 19 2 == 2 && fld b 17 2 != 0)

/-- The modifiers of an extension word. -/
def Mods.of (xo : Option Word) : Option Mods :=
  xo.map fun x => ⟨.of (fld x.toNat 42 21), .of (fld x.toNat 21 21), .of (fld x.toNat 0 21)⟩
/-- The extension word of the modifiers (R223). -/
def Mods.word (m : Option Mods) : Option Word :=
  m.map fun m => BitVec.ofNat 64 (m.a.bits * 2 ^ 42 + m.b.bits * 2 ^ 21 + m.c.bits)
/-- A modifier is illegal (R223). -/
def Mods.ill (xo : Option Word) : Bool :=
  match xo with
  | none => false
  | some x => Modifier.ill (fld x.toNat 42 21) || Modifier.ill (fld x.toNat 21 21) || Modifier.ill (fld x.toNat 0 21)
/-- A reserved bit is nonzero, or a modifier stands on a slot that is no vector source (R223). -/
def Mods.rsvd (xo : Option Word) (ua ub uc : Bool) : Bool :=
  match xo with
  | none => false
  | some x =>
    fld x.toNat 63 1 != 0 || Modifier.rsvd (fld x.toNat 42 21) || Modifier.rsvd (fld x.toNat 21 21) ||
      Modifier.rsvd (fld x.toNat 0 21) || (!ua && fld x.toNat 42 21 != 0) || (!ub && fld x.toNat 21 21 != 0) ||
      (!uc && fld x.toNat 0 21 != 0)

/-- A field of the operand word; 0 when there is none. -/
def xfld (xo : Option Word) (lo w : Nat) : Nat := fld (xo.getD 0).toNat lo w

/-- The fields of format S (R213). -/
structure FS where
  z : Nat
  qb : Nat
  qa : Nat
  qd : Nat
  sc : Nat
  sb : Nat
  sa : Nat
  sd : Nat
  fn : Nat
deriving DecidableEq, Repr

/-- Reads the fields of format S from a first word. -/
def FS.of (n : Nat) : FS where
  z := fld n 0 13
  qb := fld n 13 3
  qa := fld n 16 3
  qd := fld n 19 3
  sc := fld n 22 6
  sb := fld n 28 6
  sa := fld n 34 6
  sd := fld n 40 6
  fn := fld n 46 6

/-- Writes the fields of format S at their places. -/
def FS.bits (f : FS) : Nat :=
  f.z * 2 ^ 0 + f.qb * 2 ^ 13 + f.qa * 2 ^ 16 + f.qd * 2 ^ 19 + f.sc * 2 ^ 22 + f.sb * 2 ^ 28 + f.sa * 2 ^ 34 + f.sd * 2 ^ 40 + f.fn * 2 ^ 46

/-- The fields of format SI (R214). -/
structure FSI where
  imm : Nat
  qd : Nat
  sa : Nat
  sd : Nat
  fn : Nat
deriving DecidableEq, Repr

/-- Reads the fields of format SI from a first word. -/
def FSI.of (n : Nat) : FSI where
  imm := fld n 0 32
  qd := fld n 32 3
  sa := fld n 35 6
  sd := fld n 41 6
  fn := fld n 47 5

/-- Writes the fields of format SI at their places. -/
def FSI.bits (f : FSI) : Nat :=
  f.imm * 2 ^ 0 + f.qd * 2 ^ 32 + f.sa * 2 ^ 35 + f.sd * 2 ^ 41 + f.fn * 2 ^ 47

/-- The fields of format B (R215). -/
structure FB where
  off : Nat
  imm : Nat
  sa : Nat
  lc : Nat
  fn : Nat
deriving DecidableEq, Repr

/-- Reads the fields of format B from a first word. -/
def FB.of (n : Nat) : FB where
  off := fld n 0 24
  imm := fld n 24 16
  sa := fld n 40 6
  lc := fld n 46 2
  fn := fld n 48 4

/-- Writes the fields of format B at their places. -/
def FB.bits (f : FB) : Nat :=
  f.off * 2 ^ 0 + f.imm * 2 ^ 24 + f.sa * 2 ^ 40 + f.lc * 2 ^ 46 + f.fn * 2 ^ 48

/-- The fields of format M (R216). -/
structure FM where
  imm : Nat
  sb : Nat
  scope : Nat
  str : Nat
  h : Nat
  sa : Nat
  sd : Nat
  fn : Nat
deriving DecidableEq, Repr

/-- Reads the fields of format M from a first word. -/
def FM.of (n : Nat) : FM where
  imm := fld n 0 19
  sb := fld n 19 6
  scope := fld n 25 2
  str := fld n 27 1
  h := fld n 28 8
  sa := fld n 36 6
  sd := fld n 42 6
  fn := fld n 48 4

/-- Writes the fields of format M at their places. -/
def FM.bits (f : FM) : Nat :=
  f.imm * 2 ^ 0 + f.sb * 2 ^ 19 + f.scope * 2 ^ 25 + f.str * 2 ^ 27 + f.h * 2 ^ 28 + f.sa * 2 ^ 36 + f.sd * 2 ^ 42 + f.fn * 2 ^ 48

/-- The fields of format Y (R217). -/
structure FY where
  aux : Nat
  imm : Nat
  h : Nat
  sb : Nat
  sa : Nat
  sd : Nat
  fn : Nat
deriving DecidableEq, Repr

/-- Reads the fields of format Y from a first word. -/
def FY.of (n : Nat) : FY where
  aux := fld n 0 8
  imm := fld n 8 12
  h := fld n 20 8
  sb := fld n 28 6
  sa := fld n 34 6
  sd := fld n 40 6
  fn := fld n 46 6

/-- Writes the fields of format Y at their places. -/
def FY.bits (f : FY) : Nat :=
  f.aux * 2 ^ 0 + f.imm * 2 ^ 8 + f.h * 2 ^ 20 + f.sb * 2 ^ 28 + f.sa * 2 ^ 34 + f.sd * 2 ^ 40 + f.fn * 2 ^ 46

/-- The fields of format V (R218). -/
structure FV where
  z : Nat
  aux : Nat
  sb : Nat
  bs : Nat
  wf : Nat
  rm : Nat
  vc : Nat
  vb : Nat
  va : Nat
  vd : Nat
  fn : Nat
deriving DecidableEq, Repr

/-- Reads the fields of format V from a first word. -/
def FV.of (n : Nat) : FV where
  z := fld n 0 6
  aux := fld n 6 8
  sb := fld n 14 6
  bs := fld n 20 1
  wf := fld n 21 2
  rm := fld n 23 3
  vc := fld n 26 5
  vb := fld n 31 5
  va := fld n 36 5
  vd := fld n 41 5
  fn := fld n 46 6

/-- Writes the fields of format V at their places. -/
def FV.bits (f : FV) : Nat :=
  f.z * 2 ^ 0 + f.aux * 2 ^ 6 + f.sb * 2 ^ 14 + f.bs * 2 ^ 20 + f.wf * 2 ^ 21 + f.rm * 2 ^ 23 + f.vc * 2 ^ 26 + f.vb * 2 ^ 31 + f.va * 2 ^ 36 + f.vd * 2 ^ 41 + f.fn * 2 ^ 46

/-- The fields of format X (R219). -/
structure FX where
  z : Nat
  aux : Nat
  sa : Nat
  sd : Nat
  vb : Nat
  va : Nat
  ve : Nat
  vd : Nat
  fn : Nat
deriving DecidableEq, Repr

/-- Reads the fields of format X from a first word. -/
def FX.of (n : Nat) : FX where
  z := fld n 0 6
  aux := fld n 6 8
  sa := fld n 14 6
  sd := fld n 20 6
  vb := fld n 26 5
  va := fld n 31 5
  ve := fld n 36 5
  vd := fld n 41 5
  fn := fld n 46 6

/-- Writes the fields of format X at their places. -/
def FX.bits (f : FX) : Nat :=
  f.z * 2 ^ 0 + f.aux * 2 ^ 6 + f.sa * 2 ^ 14 + f.sd * 2 ^ 20 + f.vb * 2 ^ 26 + f.va * 2 ^ 31 + f.ve * 2 ^ 36 + f.vd * 2 ^ 41 + f.fn * 2 ^ 46

/-- The fields of format A (R220). -/
structure FA where
  tag : Nat
  term : Nat
  arm : Nat
  rm : Nat
  sat : Nat
  bsrc : Nat
  h : Nat
  sb : Nat
  sa : Nat
  vb : Nat
  va : Nat
  asx : Nat
  ad : Nat
  fn : Nat
deriving DecidableEq, Repr

/-- Reads the fields of format A from a first word. -/
def FA.of (n : Nat) : FA where
  tag := fld n 0 2
  term := fld n 2 4
  arm := fld n 6 1
  rm := fld n 7 3
  sat := fld n 10 1
  bsrc := fld n 11 1
  h := fld n 12 8
  sb := fld n 20 6
  sa := fld n 26 6
  vb := fld n 32 5
  va := fld n 37 5
  asx := fld n 42 2
  ad := fld n 44 2
  fn := fld n 46 6

/-- Writes the fields of format A at their places. -/
def FA.bits (f : FA) : Nat :=
  f.tag * 2 ^ 0 + f.term * 2 ^ 2 + f.arm * 2 ^ 6 + f.rm * 2 ^ 7 + f.sat * 2 ^ 10 + f.bsrc * 2 ^ 11 + f.h * 2 ^ 12 + f.sb * 2 ^ 20 + f.sa * 2 ^ 26 + f.vb * 2 ^ 32 + f.va * 2 ^ 37 + f.asx * 2 ^ 42 + f.ad * 2 ^ 44 + f.fn * 2 ^ 46

/-- The fields of format K (R221). -/
structure FK where
  aux : Nat
  mode : Nat
  tag : Nat
  h : Nat
  sc : Nat
  sb : Nat
  sa : Nat
  sd : Nat
  fn : Nat
deriving DecidableEq, Repr

/-- Reads the fields of format K from a first word. -/
def FK.of (n : Nat) : FK where
  aux := fld n 0 8
  mode := fld n 8 2
  tag := fld n 10 4
  h := fld n 14 8
  sc := fld n 22 6
  sb := fld n 28 6
  sa := fld n 34 6
  sd := fld n 40 6
  fn := fld n 46 6

/-- Writes the fields of format K at their places. -/
def FK.bits (f : FK) : Nat :=
  f.aux * 2 ^ 0 + f.mode * 2 ^ 8 + f.tag * 2 ^ 10 + f.h * 2 ^ 14 + f.sc * 2 ^ 22 + f.sb * 2 ^ 28 + f.sa * 2 ^ 34 + f.sd * 2 ^ 40 + f.fn * 2 ^ 46

/-- How the active lanes of a word are found (R208). -/
inductive Lanes where
  | q      -- one lane, by a scalar predicate
  | cell   -- the element indices below vl, by a mask
  | whole  -- one lane, active when PN is 0
deriving DecidableEq, Repr

/-- What the row of an opcode says about a word: its lanes, whether step 2 of R211 refuses it (INSN.ILLFN), whether
step 3 does (INSN.RSVNZ), whether a check of the instruction's own chapter that the word alone decides does (step 5, INSN.ILLFN), and
otherwise the instruction. -/
structure Row where
  lanes : Lanes
  illfn : Bool
  rsvnz : Bool
  own : Bool
  instr : Instr
deriving DecidableEq, Repr

/-- A row whose instruction has no check of its own that the word alone decides. -/
abbrev Row.std (l : Lanes) (illfn rsvnz : Bool) (i : Instr) : Row := ⟨l, illfn, rsvnz, false, i⟩

/-- A function value that no table assigns: INSN.ILLFN (R211, R234). -/
def Row.unassigned (l : Lanes) : Row := ⟨l, true, false, false, .lsync ⟨false, 0⟩⟩

/-- SETC (R263): registers with a row of their own in the opcode table select that row's instruction. -/
def setcRow (p : Pred) (xo : Option Word) (f : FY) : Row :=
  let i : Instr :=
    match f.imm with
    | 0x012 => .vstartWrite p f.sa
    | 0x013 => .avlStripWrite p false f.sa
    | 0x014 => .avlStripWrite p true f.sa
    | 0x802 => .hbaseWrite (.setc p f.sa)
    | 0x803 => .tlbinv (.setc p f.sa)
    | 0x809 => .lseedWrite (.setc p f.sa)
    | 0x80A => .swapSlotWrite false (.setc p f.sa)
    | 0x80C => .swapSlotWrite true (.setc p f.sa)
    | 0x80D => .pfdone (.setc p f.sa)
    | n =>
      if decide (0x850 ≤ n) && decide (n ≤ 0x85F) then .lqctlWrite (n - 0x850) (.setc p f.sa)
      else if decide (0x860 ≤ n) && decide (n ≤ 0x86F) then .lqprodDoorbell (n - 0x860) (.setc p f.sa)
      else .setc p (BitVec.ofNat 12 n) f.sa
  ⟨.q, xo.isSome, f.sd != 0 || f.sb != 0 || f.h != 0 || f.aux != 0, false, i⟩

/-- The functions of OPC 0x01 (format S). -/
def row01 (p : Pred) (xo : Option Word) (f : FS) : Row :=
  match f.fn with
  | 0 => .std .q (xo.isSome)
      (f.z != 0 || f.qb != 0 || f.qa != 0 || f.qd != 0 || f.sc != 0)
      (.add p f.sd f.sa f.sb)
  | 1 => .std .q (xo.isSome)
      (f.z != 0 || f.qb != 0 || f.qa != 0 || f.qd != 0 || f.sc != 0)
      (.sub p f.sd f.sa f.sb)
  | 2 => .std .q (xo.isSome)
      (f.z != 0 || f.qb != 0 || f.qa != 0 || f.qd != 0 || f.sc != 0)
      (.mul p f.sd f.sa f.sb)
  | 3 => .std .q (xo.isSome)
      (f.z != 0 || f.qb != 0 || f.qa != 0 || f.qd != 0 || f.sc != 0)
      (.mulh p f.sd f.sa f.sb)
  | 4 => .std .q (xo.isSome)
      (f.z != 0 || f.qb != 0 || f.qa != 0 || f.qd != 0 || f.sc != 0)
      (.mulhu p f.sd f.sa f.sb)
  | 5 => .std .q (xo.isSome)
      (f.z != 0 || f.qb != 0 || f.qa != 0 || f.qd != 0 || f.sc != 0)
      (.div p f.sd f.sa f.sb)
  | 6 => .std .q (xo.isSome)
      (f.z != 0 || f.qb != 0 || f.qa != 0 || f.qd != 0 || f.sc != 0)
      (.divu p f.sd f.sa f.sb)
  | 7 => .std .q (xo.isSome)
      (f.z != 0 || f.qb != 0 || f.qa != 0 || f.qd != 0 || f.sc != 0)
      (.rem p f.sd f.sa f.sb)
  | 8 => .std .q (xo.isSome)
      (f.z != 0 || f.qb != 0 || f.qa != 0 || f.qd != 0 || f.sc != 0)
      (.remu p f.sd f.sa f.sb)
  | 9 => .std .q (xo.isSome)
      (f.z != 0 || f.qb != 0 || f.qa != 0 || f.qd != 0 || f.sc != 0)
      (.andS p f.sd f.sa f.sb)
  | 10 => .std .q (xo.isSome)
      (f.z != 0 || f.qb != 0 || f.qa != 0 || f.qd != 0 || f.sc != 0)
      (.orS p f.sd f.sa f.sb)
  | 11 => .std .q (xo.isSome)
      (f.z != 0 || f.qb != 0 || f.qa != 0 || f.qd != 0 || f.sc != 0)
      (.xorS p f.sd f.sa f.sb)
  | 12 => .std .q (xo.isSome)
      (f.z != 0 || f.qb != 0 || f.qa != 0 || f.qd != 0 || f.sc != 0)
      (.shl p f.sd f.sa f.sb)
  | 13 => .std .q (xo.isSome)
      (f.z != 0 || f.qb != 0 || f.qa != 0 || f.qd != 0 || f.sc != 0)
      (.shr p f.sd f.sa f.sb)
  | 14 => .std .q (xo.isSome)
      (f.z != 0 || f.qb != 0 || f.qa != 0 || f.qd != 0 || f.sc != 0)
      (.sra p f.sd f.sa f.sb)
  | 15 => .std .q (xo.isSome)
      (f.z != 0 || f.qb != 0 || f.qa != 0 || f.qd != 0 || f.sc != 0)
      (.rol p f.sd f.sa f.sb)
  | 16 => .std .q (xo.isSome)
      (f.z != 0 || f.qb != 0 || f.qa != 0 || f.qd != 0 || f.sc != 0 || f.sb != 0)
      (.clz p f.sd f.sa)
  | 17 => .std .q (xo.isSome)
      (f.z != 0 || f.qb != 0 || f.qa != 0 || f.qd != 0 || f.sc != 0 || f.sb != 0)
      (.ctz p f.sd f.sa)
  | 18 => .std .q (xo.isSome)
      (f.z != 0 || f.qb != 0 || f.qa != 0 || f.qd != 0 || f.sc != 0 || f.sb != 0)
      (.popc p f.sd f.sa)
  | 19 => .std .q (xo.isSome)
      (f.z != 0 || f.qb != 0 || f.qa != 0 || f.qd != 0 || f.sc != 0)
      (.minS p f.sd f.sa f.sb)
  | 20 => .std .q (xo.isSome)
      (f.z != 0 || f.qb != 0 || f.qa != 0 || f.qd != 0 || f.sc != 0)
      (.maxS p f.sd f.sa f.sb)
  | 21 => .std .q (xo.isSome)
      (f.z != 0 || f.qb != 0 || f.qa != 0 || f.qd != 0 || f.sc != 0)
      (.minu p f.sd f.sa f.sb)
  | 22 => .std .q (xo.isSome)
      (f.z != 0 || f.qb != 0 || f.qa != 0 || f.qd != 0 || f.sc != 0)
      (.maxu p f.sd f.sa f.sb)
  | 23 => .std .q (xo.isSome)
      (f.z != 0 || f.qb != 0 || f.qa != 0 || f.qd != 0)
      (.sel p f.sd f.sa f.sb f.sc)
  | 24 => .std .q (xo.isSome)
      (f.z != 0 || f.qb != 0 || f.qa != 0 || f.qd != 0 || f.sc != 0)
      (.exts p f.sd f.sa f.sb)
  | 25 => .std .q (xo.isSome)
      (f.z != 0 || f.qb != 0 || f.qa != 0 || f.qd != 0 || f.sc != 0)
      (.extz p f.sd f.sa f.sb)
  | 26 => .std .q (xo.isSome)
      (f.z != 0 || f.qb != 0 || f.qa != 0 || f.qd != 0)
      (.ins p f.sd f.sa f.sb f.sc)
  | _ => Row.unassigned .q

/-- The functions of OPC 0x02 (format SI). -/
def row02 (p : Pred) (xo : Option Word) (f : FSI) : Row :=
  match f.fn with
  | 0 => .std .q (false)
      ((xo.isSome && f.imm != 0) || f.qd != 0)
      (.addi p f.sd f.sa (Imm.of 32 xo f.imm))
  | 1 => .std .q (false)
      ((xo.isSome && f.imm != 0) || f.qd != 0)
      (.muli p f.sd f.sa (Imm.of 32 xo f.imm))
  | 2 => .std .q (false)
      ((xo.isSome && f.imm != 0) || f.qd != 0)
      (.andi p f.sd f.sa (Imm.of 32 xo f.imm))
  | 3 => .std .q (false)
      ((xo.isSome && f.imm != 0) || f.qd != 0)
      (.ori p f.sd f.sa (Imm.of 32 xo f.imm))
  | 4 => .std .q (false)
      ((xo.isSome && f.imm != 0) || f.qd != 0)
      (.xori p f.sd f.sa (Imm.of 32 xo f.imm))
  | 5 => .mk .q (false)
      ((xo.isSome && f.imm != 0) || f.qd != 0)
      ((!(Imm.of 32 xo f.imm).isShift))
      (.shli p f.sd f.sa (Imm.of 32 xo f.imm))
  | 6 => .mk .q (false)
      ((xo.isSome && f.imm != 0) || f.qd != 0)
      ((!(Imm.of 32 xo f.imm).isShift))
      (.shri p f.sd f.sa (Imm.of 32 xo f.imm))
  | 7 => .mk .q (false)
      ((xo.isSome && f.imm != 0) || f.qd != 0)
      ((!(Imm.of 32 xo f.imm).isShift))
      (.srai p f.sd f.sa (Imm.of 32 xo f.imm))
  | 8 => .std .q (false)
      ((xo.isSome && f.imm != 0) || f.qd != 0 || f.sa != 0)
      (.movi p f.sd (Imm.of 32 xo f.imm))
  | _ => Row.unassigned .q

/-- The functions of OPC 0x03 (format S). -/
def row03 (p : Pred) (xo : Option Word) (f : FS) : Row :=
  match f.fn with
  | 0 => .std .q (xo.isSome)
      (f.z != 0 || f.qb != 0 || f.qa != 0 || f.sc != 0 || f.sd != 0)
      (.cmpeq p f.qd f.sa f.sb)
  | 1 => .std .q (xo.isSome)
      (f.z != 0 || f.qb != 0 || f.qa != 0 || f.sc != 0 || f.sd != 0)
      (.cmpne p f.qd f.sa f.sb)
  | 2 => .std .q (xo.isSome)
      (f.z != 0 || f.qb != 0 || f.qa != 0 || f.sc != 0 || f.sd != 0)
      (.cmplt p f.qd f.sa f.sb)
  | 3 => .std .q (xo.isSome)
      (f.z != 0 || f.qb != 0 || f.qa != 0 || f.sc != 0 || f.sd != 0)
      (.cmpltu p f.qd f.sa f.sb)
  | 4 => .std .q (xo.isSome)
      (f.z != 0 || f.qb != 0 || f.qa != 0 || f.sc != 0 || f.sd != 0)
      (.cmple p f.qd f.sa f.sb)
  | 5 => .std .q (xo.isSome)
      (f.z != 0 || f.qb != 0 || f.qa != 0 || f.sc != 0 || f.sd != 0)
      (.cmpleu p f.qd f.sa f.sb)
  | _ => Row.unassigned .q

/-- The functions of OPC 0x04 (format SI). -/
def row04 (p : Pred) (xo : Option Word) (f : FSI) : Row :=
  match f.fn with
  | 0 => .std .q (false)
      ((xo.isSome && f.imm != 0) || f.sd != 0)
      (.cmpeqi p f.qd f.sa (Imm.of 32 xo f.imm))
  | 1 => .std .q (false)
      ((xo.isSome && f.imm != 0) || f.sd != 0)
      (.cmplti p f.qd f.sa (Imm.of 32 xo f.imm))
  | _ => Row.unassigned .q

/-- The functions of OPC 0x05 (format S). -/
def row05 (p : Pred) (xo : Option Word) (f : FS) : Row :=
  match f.fn with
  | 0 => .std .q (xo.isSome)
      (f.z != 0 || f.sc != 0 || f.sb != 0 || f.sa != 0 || f.sd != 0)
      (.qand p f.qd f.qa f.qb)
  | 1 => .std .q (xo.isSome)
      (f.z != 0 || f.sc != 0 || f.sb != 0 || f.sa != 0 || f.sd != 0)
      (.qor p f.qd f.qa f.qb)
  | 2 => .std .q (xo.isSome)
      (f.z != 0 || f.sc != 0 || f.sb != 0 || f.sa != 0 || f.sd != 0)
      (.qxor p f.qd f.qa f.qb)
  | 3 => .std .q (xo.isSome)
      (f.z != 0 || f.qb != 0 || f.sc != 0 || f.sb != 0 || f.sa != 0 || f.sd != 0)
      (.qnot p f.qd f.qa)
  | _ => Row.unassigned .q

/-- The functions of OPC 0x06 (format M). -/
def row06 (p : Pred) (xo : Option Word) (f : FM) : Row :=
  match f.fn with
  | 0 => .std .q ((f.str == 0 && f.scope != 0))
      ((xo.isSome && f.imm != 0) || f.sb != 0 || f.scope != 0 || f.str != 0)
      (.lea p f.sd f.h f.sa (Imm.of 19 xo f.imm))
  | 1 => .std .q ((f.str == 0 && f.scope != 0))
      ((xo.isSome && f.imm != 0) || f.scope != 0 || f.str != 0)
      (.hchk p f.sd f.h f.sa f.sb (Imm.of 19 xo f.imm))
  | _ => Row.unassigned .q

/-- The functions of OPC 0x20 (format B). -/
def row20 (p : Pred) (xo : Option Word) (f : FB) : Row :=
  match f.fn with
  | 0 => .std .q (f.lc == 3 || xo.isSome)
      (f.imm != 0 || f.sa != 0 || f.lc != 0)
      (.br p (BitVec.ofNat 24 f.off))
  | 1 => .std .q (f.lc == 3 || xo.isSome)
      ((decide (f.imm ≥ 64)) || f.off != 0 || f.lc != 0)
      (.jmp p f.sa (f.imm % 64))
  | 2 => .std .q (f.lc == 3 || xo.isSome)
      (f.imm != 0 || f.lc != 0)
      (.call p f.sa (BitVec.ofNat 24 f.off))
  | 3 => .std .q (f.lc == 3 || xo.isSome)
      (f.off != 0 || f.imm != 0 || f.lc != 0)
      (.ret p f.sa)
  | _ => Row.unassigned .q

/-- The functions of OPC 0x21 (format B). -/
def row21 (p : Pred) (xo : Option Word) (f : FB) : Row :=
  match f.fn with
  | 0 => .std .q (f.lc == 3 || xo.isSome)
      (f.imm != 0)
      (.loop p f.lc f.sa (BitVec.ofNat 24 f.off))
  | 1 => .std .q (f.lc == 3 || xo.isSome)
      (f.sa != 0)
      (.loopi p f.lc (BitVec.ofNat 16 f.imm) (BitVec.ofNat 24 f.off))
  | 2 => .std .q (f.lc == 3 || xo.isSome)
      (f.off != 0 || f.imm != 0 || f.sa != 0)
      (.lbrk p f.lc)
  | 3 => .std .q (f.lc == 3 || xo.isSome || f.imm == 0 || decide (f.imm > 64))
      (f.sa != 0 || f.lc != 0)
      (.ipref p f.imm (BitVec.ofNat 24 f.off))
  | _ => Row.unassigned .q

/-- The functions of OPC 0x22 (format B). -/
def row22 (p : Pred) (xo : Option Word) (f : FB) : Row :=
  match f.fn with
  | 0 => .std .q (f.lc == 3)
      ((xo.isSome && f.imm != 0) || f.off != 0 || f.sa != 0 || f.lc != 0)
      (.trap p (Imm.of 16 xo f.imm))
  | 1 => .std .q (f.lc == 3 || xo.isSome)
      (f.off != 0 || f.imm != 0 || f.sa != 0 || f.lc != 0)
      (.tret p)
  | 2 => .std .q (f.lc == 3 || xo.isSome)
      (f.off != 0 || f.imm != 0 || f.sa != 0 || f.lc != 0)
      (.halt p)
  | 3 => .std .q (f.lc == 3 || xo.isSome)
      (f.off != 0 || f.imm != 0 || f.sa != 0 || f.lc != 0)
      (.yield p)
  | _ => Row.unassigned .q

/-- The functions of OPC 0x30 (format M). -/
def row30 (p : Pred) (xo : Option Word) (f : FM) : Row :=
  match f.fn with
  | 0 => .std .q ((f.str == 0 && f.scope != 0))
      ((xo.isSome && f.imm != 0) || f.sb != 0)
      (.ld p (Scope.optOf f.str f.scope) f.sd f.h f.sa (Imm.of 19 xo f.imm))
  | 1 => .std .q ((f.str == 0 && f.scope != 0))
      ((xo.isSome && f.imm != 0) || f.sb != 0)
      (.ldI8 p (Scope.optOf f.str f.scope) f.sd f.h f.sa (Imm.of 19 xo f.imm))
  | 2 => .std .q ((f.str == 0 && f.scope != 0))
      ((xo.isSome && f.imm != 0) || f.sb != 0)
      (.ldI16 p (Scope.optOf f.str f.scope) f.sd f.h f.sa (Imm.of 19 xo f.imm))
  | 3 => .std .q ((f.str == 0 && f.scope != 0))
      ((xo.isSome && f.imm != 0) || f.sb != 0)
      (.ldI32 p (Scope.optOf f.str f.scope) f.sd f.h f.sa (Imm.of 19 xo f.imm))
  | 4 => .std .q ((f.str == 0 && f.scope != 0))
      ((xo.isSome && f.imm != 0) || f.sb != 0)
      (.ldZ8 p (Scope.optOf f.str f.scope) f.sd f.h f.sa (Imm.of 19 xo f.imm))
  | 5 => .std .q ((f.str == 0 && f.scope != 0))
      ((xo.isSome && f.imm != 0) || f.sb != 0)
      (.ldZ16 p (Scope.optOf f.str f.scope) f.sd f.h f.sa (Imm.of 19 xo f.imm))
  | 6 => .std .q ((f.str == 0 && f.scope != 0))
      ((xo.isSome && f.imm != 0) || f.sb != 0)
      (.ldZ32 p (Scope.optOf f.str f.scope) f.sd f.h f.sa (Imm.of 19 xo f.imm))
  | _ => Row.unassigned .q

/-- The functions of OPC 0x31 (format M). -/
def row31 (p : Pred) (xo : Option Word) (f : FM) : Row :=
  match f.fn with
  | 0 => .std .q ((f.str == 0 && f.scope != 0))
      ((xo.isSome && f.imm != 0) || f.sb != 0)
      (.st p (Scope.optOf f.str f.scope) f.sd f.h f.sa (Imm.of 19 xo f.imm))
  | 1 => .std .q ((f.str == 0 && f.scope != 0))
      ((xo.isSome && f.imm != 0) || f.sb != 0)
      (.stI8 p (Scope.optOf f.str f.scope) f.sd f.h f.sa (Imm.of 19 xo f.imm))
  | 2 => .std .q ((f.str == 0 && f.scope != 0))
      ((xo.isSome && f.imm != 0) || f.sb != 0)
      (.stI16 p (Scope.optOf f.str f.scope) f.sd f.h f.sa (Imm.of 19 xo f.imm))
  | 3 => .std .q ((f.str == 0 && f.scope != 0))
      ((xo.isSome && f.imm != 0) || f.sb != 0)
      (.stI32 p (Scope.optOf f.str f.scope) f.sd f.h f.sa (Imm.of 19 xo f.imm))
  | _ => Row.unassigned .q

/-- The functions of OPC 0x32 (format M). -/
def row32 (p : Pred) (xo : Option Word) (f : FM) : Row :=
  match f.fn with
  | 0 => .std .q ((f.str == 0))
      ((xo.isSome && f.imm != 0))
      (.aadd p (f.fn == 8) (Scope.of f.scope) f.sd f.h f.sa f.sb (Imm.of 19 xo f.imm))
  | 1 => .std .q ((f.str == 0))
      ((xo.isSome && f.imm != 0))
      (.amin p (f.fn == 9) (Scope.of f.scope) f.sd f.h f.sa f.sb (Imm.of 19 xo f.imm))
  | 2 => .std .q ((f.str == 0))
      ((xo.isSome && f.imm != 0))
      (.amax p (f.fn == 10) (Scope.of f.scope) f.sd f.h f.sa f.sb (Imm.of 19 xo f.imm))
  | 3 => .std .q ((f.str == 0))
      ((xo.isSome && f.imm != 0))
      (.aand p (f.fn == 11) (Scope.of f.scope) f.sd f.h f.sa f.sb (Imm.of 19 xo f.imm))
  | 4 => .std .q ((f.str == 0))
      ((xo.isSome && f.imm != 0))
      (.aor p (f.fn == 12) (Scope.of f.scope) f.sd f.h f.sa f.sb (Imm.of 19 xo f.imm))
  | 5 => .std .q ((f.str == 0))
      ((xo.isSome && f.imm != 0))
      (.axor p (f.fn == 13) (Scope.of f.scope) f.sd f.h f.sa f.sb (Imm.of 19 xo f.imm))
  | 6 => .std .q ((f.str == 0))
      ((xo.isSome && f.imm != 0))
      (.aswp p (f.fn == 14) (Scope.of f.scope) f.sd f.h f.sa f.sb (Imm.of 19 xo f.imm))
  | 7 => .std .q ((f.str == 0))
      ((xo.isSome && f.imm != 0))
      (.acas p (f.fn == 15) (Scope.of f.scope) f.sd f.h f.sa f.sb (Imm.of 19 xo f.imm))
  | 8 => .std .q ((f.str == 0))
      ((xo.isSome && f.imm != 0))
      (.aadd p (f.fn == 8) (Scope.of f.scope) f.sd f.h f.sa f.sb (Imm.of 19 xo f.imm))
  | 9 => .std .q ((f.str == 0))
      ((xo.isSome && f.imm != 0))
      (.amin p (f.fn == 9) (Scope.of f.scope) f.sd f.h f.sa f.sb (Imm.of 19 xo f.imm))
  | 10 => .std .q ((f.str == 0))
      ((xo.isSome && f.imm != 0))
      (.amax p (f.fn == 10) (Scope.of f.scope) f.sd f.h f.sa f.sb (Imm.of 19 xo f.imm))
  | 11 => .std .q ((f.str == 0))
      ((xo.isSome && f.imm != 0))
      (.aand p (f.fn == 11) (Scope.of f.scope) f.sd f.h f.sa f.sb (Imm.of 19 xo f.imm))
  | 12 => .std .q ((f.str == 0))
      ((xo.isSome && f.imm != 0))
      (.aor p (f.fn == 12) (Scope.of f.scope) f.sd f.h f.sa f.sb (Imm.of 19 xo f.imm))
  | 13 => .std .q ((f.str == 0))
      ((xo.isSome && f.imm != 0))
      (.axor p (f.fn == 13) (Scope.of f.scope) f.sd f.h f.sa f.sb (Imm.of 19 xo f.imm))
  | 14 => .std .q ((f.str == 0))
      ((xo.isSome && f.imm != 0))
      (.aswp p (f.fn == 14) (Scope.of f.scope) f.sd f.h f.sa f.sb (Imm.of 19 xo f.imm))
  | 15 => .std .q ((f.str == 0))
      ((xo.isSome && f.imm != 0))
      (.acas p (f.fn == 15) (Scope.of f.scope) f.sd f.h f.sa f.sb (Imm.of 19 xo f.imm))
  | _ => Row.unassigned .q

/-- The functions of OPC 0x38 (format Y). -/
def row38 (p : Pred) (xo : Option Word) (f : FY) : Row :=
  match f.fn with
  | 0 => match f.aux % 4 with
    | 1 => .std .q (xo.isSome)
      ((decide (f.aux ≥ 16)) || f.imm != 0 || f.h != 0 || f.sb != 0 || f.sa != 0 || f.sd != 0)
      (.fenceAcq p (Scope.of (f.aux / 4)))
    | 2 => .std .q (xo.isSome)
      ((decide (f.aux ≥ 16)) || f.imm != 0 || f.h != 0 || f.sb != 0 || f.sa != 0 || f.sd != 0)
      (.fenceRel p (Scope.of (f.aux / 4)))
    | 3 => .std .q (xo.isSome)
      ((decide (f.aux ≥ 16)) || f.imm != 0 || f.h != 0 || f.sb != 0 || f.sa != 0 || f.sd != 0)
      (.fenceAr p (Scope.of (f.aux / 4)))
    | _ => Row.unassigned .q
  | 1 => .std .q (xo.isSome)
      (f.aux != 0 || f.imm != 0 || f.h != 0 || f.sb != 0 || f.sa != 0 || f.sd != 0)
      (.lsync p)
  | 2 => .std .q (false)
      (f.aux != 0 || f.imm != 0 || f.h != 0 || f.sb != 0 || f.sa != 0 || f.sd != 0)
      (.wait p xo)
  | 3 => .std .q (xo.isSome)
      (f.aux != 0 || f.imm != 0 || f.h != 0 || f.sb != 0 || f.sd != 0)
      (.sleeptil p f.sa)
  | _ => Row.unassigned .q

/-- The functions of OPC 0x39 (format Y). -/
def row39 (p : Pred) (xo : Option Word) (f : FY) : Row :=
  match f.fn with
  | 0 => .std .q (xo.isSome)
      (f.aux != 0)
      (.barinit p f.sd f.h f.sa f.sb (BitVec.ofNat 12 f.imm))
  | 1 => .std .q (xo.isSome)
      (f.aux != 0)
      (.bararr p f.sd f.h f.sa f.sb (BitVec.ofNat 12 f.imm))
  | 2 => .std .q (xo.isSome)
      (f.aux != 0)
      (.barwait p f.sd f.h f.sa f.sb (BitVec.ofNat 12 f.imm))
  | 3 => .std .q (xo.isSome)
      (f.aux != 0 || f.sb != 0)
      (.barkill p f.sd f.h f.sa (BitVec.ofNat 12 f.imm))
  | _ => Row.unassigned .q

/-- The functions of OPC 0x3A (format Y). -/
def row3A (p : Pred) (xo : Option Word) (f : FY) : Row :=
  match f.fn with
  | 0 => .std .q (xo.isSome)
      (f.aux != 0 || f.h != 0 || f.sb != 0 || f.sa != 0)
      (.getc p f.sd (BitVec.ofNat 12 f.imm))
  | 1 => setcRow p xo f
  | 2 => .std .q (xo.isSome)
      (f.aux != 0 || f.imm != 0 || f.h != 0 || f.sb != 0)
      (.svc p f.sd f.sa)
  | 3 => .std .q (xo.isSome)
      ((decide (f.aux ≥ 4)) || f.imm != 0 || f.sd != 0)
      (.cflush p (Scope.of (f.aux % 4)) f.h f.sa f.sb)
  | 4 => .std .q (xo.isSome)
      ((decide (f.aux ≥ 8)) || f.imm != 0 || f.sd != 0)
      (.cinv p (Scope.of (f.aux % 4)) (f.aux / 4 % 2 == 1) f.h f.sa f.sb)
  | _ => Row.unassigned .q

/-- The functions of OPC 0x3B (format Y). -/
def row3B (p : Pred) (xo : Option Word) (f : FY) : Row :=
  match f.fn with
  | 0 => .std .q (xo.isSome || decide (f.sa > 56))
      (f.aux != 0 || f.imm != 0 || f.h != 0 || f.sb != 0 || f.sd != 0)
      (.enq p f.sa)
  | 1 => .std .q (xo.isSome || decide (f.sd > 55))
      (f.aux != 0 || f.imm != 0 || f.h != 0 || f.sb != 0 || f.sa != 0)
      (.deq p f.sd)
  | 2 => .std .q (xo.isSome)
      (decide (f.imm ≥ 16) || f.aux != 0 || f.sb != 0)
      (.launch p f.sd f.h f.sa (f.imm % 16))
  | 3 => match f.aux % 4 with
    | 0 => .std .q (xo.isSome)
      (decide (f.imm ≥ 32) || decide (f.aux ≥ 4) || f.h != 0 || f.sb != 0)
      (.wgcfgWr p f.sd f.sa (f.imm / 16 % 2 == 1) (f.imm % 16))
    | 1 => .std .q (xo.isSome)
      (decide (f.imm ≥ 32) || decide (f.aux ≥ 4) || f.h != 0 || f.sb != 0)
      (.wgcfgFree p f.sd f.sa (f.imm / 16 % 2 == 1) (f.imm % 16))
    | 2 => .std .q (xo.isSome)
      (decide (f.imm ≥ 32) || decide (f.aux ≥ 4) || f.h != 0 || f.sb != 0)
      (.wgcfgRd p f.sd f.sa (f.imm / 16 % 2 == 1) (f.imm % 16))
    | _ => Row.unassigned .q
  | 4 => .std .q (xo.isSome)
      (decide (f.imm ≥ 4) || f.aux != 0 || f.h != 0 || f.sb != 0 || f.sa != 0 || f.sd != 0)
      (.wgfire p (f.imm % 4))
  | 5 => .std .q (xo.isSome)
      (decide (f.imm ≥ 16) || f.aux != 0 || f.h != 0 || f.sb != 0 || f.sa != 0)
      (.wgwait p f.sd (f.imm % 16))
  | _ => Row.unassigned .q

/-- The functions of OPC 0x40 (format V). BS = 0 where an instruction needs BS = 1 is INSN.ILLFN at step 5 of R211, here and in the other
rows (DEDUCED, log 60). -/
def row40 (p : Pred) (xo : Option Word) (f : FV) : Row :=
  match f.fn with
  | 0 => .mk .whole (decide (f.rm > 4) || f.wf != 0 || Mods.ill xo)
      ((f.bs == 0 && f.sb != 0) || Mods.rsvd xo false false false || f.z != 0 || f.aux != 0 || f.rm != 0 || f.vc != 0 || f.vb != 0 || f.va != 0 || p.pr != 0)
      ((f.bs == 0))
      (.vcfg p f.vd f.sb (Mods.of xo))
  | 1 => .mk .whole (decide (f.rm > 4) || f.wf != 0 || Mods.ill xo)
      ((f.bs == 0 && f.sb != 0) || Mods.rsvd xo false false false || f.z != 0 || f.aux != 0 || f.rm != 0 || f.vc != 0 || f.vb != 0 || f.va != 0 || f.vd != 0 || p.pr != 0)
      ((f.bs == 0))
      (.vsetvl p f.sb (Mods.of xo))
  | 2 => .mk .whole (decide (f.rm > 4) || f.wf != 0 || Mods.ill xo)
      ((f.bs == 0 && f.sb != 0) || Mods.rsvd xo false false false || f.z != 0 || f.aux != 0 || f.rm != 0 || f.vc != 0 || f.vb != 0 || f.va != 0 || p.pr != 0)
      (f.sb % 2 == 1 || (f.bs == 0))
      (.vsetcap p f.vd f.sb (Mods.of xo))
  | 3 => .mk .whole (decide (f.rm > 4) || f.wf != 0 || Mods.ill xo)
      ((f.bs == 0 && f.sb != 0) || Mods.rsvd xo false false false || f.z != 0 || f.aux != 0 || f.rm != 0 || f.vc != 0 || f.vb != 0 || f.vd != 0 || p.pr != 0)
      (f.sb % 2 == 1 || (f.bs == 0))
      (.vgetcap p f.sb f.va (Mods.of xo))
  | 4 => .std .whole (decide (f.rm > 4) || (f.bs == 1) || f.wf != 0 || Mods.ill xo)
      (Mods.rsvd xo false false false || f.z != 0 || f.aux != 0 || f.sb != 0 || f.rm != 0 || f.vc != 0 || f.vb != 0 || f.vd != 0 || p.pr != 0)
      (.vdisc p f.va (Mods.of xo))
  | _ => Row.unassigned .cell

/-- The functions of OPC 0x41 (format V). -/
def row41 (p : Pred) (xo : Option Word) (f : FV) : Row :=
  match f.fn with
  | 0 => .std .cell (decide (f.rm > 4) || f.wf == 3 || Mods.ill xo)
      ((if f.bs == 1 then f.vb != 0 else f.sb != 0) || Mods.rsvd xo true (f.bs == 0) false || f.z != 0 || f.aux != 0 || f.vc != 0)
      (.vadd p (Rm.of f.rm) (WF.of f.wf) f.vd f.va (Src2.of f.bs f.sb f.vb) (Mods.of xo))
  | 1 => .std .cell (decide (f.rm > 4) || f.wf == 3 || Mods.ill xo)
      ((if f.bs == 1 then f.vb != 0 else f.sb != 0) || Mods.rsvd xo true (f.bs == 0) false || f.z != 0 || f.aux != 0 || f.vc != 0)
      (.vsub p (Rm.of f.rm) (WF.of f.wf) f.vd f.va (Src2.of f.bs f.sb f.vb) (Mods.of xo))
  | 2 => .std .cell (decide (f.rm > 4) || f.wf == 3 || Mods.ill xo)
      ((if f.bs == 1 then f.vb != 0 else f.sb != 0) || Mods.rsvd xo true (f.bs == 0) false || f.z != 0 || f.aux != 0 || f.vc != 0)
      (.vmul p (Rm.of f.rm) (WF.of f.wf) f.vd f.va (Src2.of f.bs f.sb f.vb) (Mods.of xo))
  | 3 => .std .cell (decide (f.rm > 4) || (f.wf == 1) || f.wf == 3 || Mods.ill xo)
      ((if f.bs == 1 then f.vb != 0 else f.sb != 0) || Mods.rsvd xo true (f.bs == 0) false || f.z != 0 || f.aux != 0 || f.vc != 0)
      (.vmac p (Rm.of f.rm) (f.wf == 2) f.vd f.va (Src2.of f.bs f.sb f.vb) (Mods.of xo))
  | 4 => .std .cell (decide (f.rm > 4) || f.wf != 0 || Mods.ill xo)
      ((if f.bs == 1 then f.vb != 0 else f.sb != 0) || Mods.rsvd xo true (f.bs == 0) false || f.z != 0 || f.aux != 0 || f.vc != 0)
      (.vfma p (Rm.of f.rm) f.vd f.va (Src2.of f.bs f.sb f.vb) (Mods.of xo))
  | 5 => .std .cell (decide (f.rm > 4) || f.wf == 3 || Mods.ill xo)
      ((if f.bs == 1 then f.vb != 0 else f.sb != 0) || Mods.rsvd xo true (f.bs == 0) false || f.z != 0 || f.aux != 0 || f.vc != 0)
      (.vdiv p (Rm.of f.rm) (WF.of f.wf) f.vd f.va (Src2.of f.bs f.sb f.vb) (Mods.of xo))
  | 6 => .std .cell (decide (f.rm > 4) || (f.bs == 1) || f.wf != 0 || Mods.ill xo)
      (Mods.rsvd xo true false false || f.z != 0 || f.aux != 0 || f.sb != 0 || f.vc != 0 || f.vb != 0)
      (.vrcp p (Rm.of f.rm) f.vd f.va (Mods.of xo))
  | 7 => .std .cell (decide (f.rm > 4) || (f.bs == 1) || f.wf != 0 || Mods.ill xo)
      (Mods.rsvd xo true false false || f.z != 0 || f.aux != 0 || f.sb != 0 || f.vc != 0 || f.vb != 0)
      (.vrsq p (Rm.of f.rm) f.vd f.va (Mods.of xo))
  | 8 => .std .cell (decide (f.rm > 4) || (f.bs == 1) || f.wf != 0 || Mods.ill xo)
      (Mods.rsvd xo true false false || f.z != 0 || f.aux != 0 || f.sb != 0 || f.vc != 0 || f.vb != 0)
      (.vexp p (Rm.of f.rm) f.vd f.va (Mods.of xo))
  | 9 => .std .cell (decide (f.rm > 4) || (f.wf == 2) || f.wf == 3 || Mods.ill xo)
      ((if f.bs == 1 then f.vb != 0 else f.sb != 0) || Mods.rsvd xo true (f.bs == 0) false || f.z != 0 || f.aux != 0 || f.vc != 0)
      (.vmin p (Rm.of f.rm) (f.wf == 1) f.vd f.va (Src2.of f.bs f.sb f.vb) (Mods.of xo))
  | 10 => .std .cell (decide (f.rm > 4) || (f.wf == 2) || f.wf == 3 || Mods.ill xo)
      ((if f.bs == 1 then f.vb != 0 else f.sb != 0) || Mods.rsvd xo true (f.bs == 0) false || f.z != 0 || f.aux != 0 || f.vc != 0)
      (.vmax p (Rm.of f.rm) (f.wf == 1) f.vd f.va (Src2.of f.bs f.sb f.vb) (Mods.of xo))
  | 11 => .std .cell (decide (f.rm > 4) || (f.wf == 1) || (f.bs == 1) || f.wf == 3 || Mods.ill xo)
      (Mods.rsvd xo true false false || f.z != 0 || f.aux != 0 || f.sb != 0 || f.vc != 0 || f.vb != 0)
      (.vabs p (Rm.of f.rm) (f.wf == 2) f.vd f.va (Mods.of xo))
  | 12 => .std .cell (decide (f.rm > 4) || (f.wf == 1) || (f.bs == 1) || f.wf == 3 || Mods.ill xo)
      (Mods.rsvd xo true false false || f.z != 0 || f.aux != 0 || f.sb != 0 || f.vc != 0 || f.vb != 0)
      (.vneg p (Rm.of f.rm) (f.wf == 2) f.vd f.va (Mods.of xo))
  | _ => Row.unassigned .cell

/-- The functions of OPC 0x42 (format V). -/
def row42 (p : Pred) (xo : Option Word) (f : FV) : Row :=
  match f.fn with
  | 0 => .std .cell (decide (f.rm > 4) || f.wf != 0 || Mods.ill xo)
      ((if f.bs == 1 then f.vb != 0 else f.sb != 0) || Mods.rsvd xo true (f.bs == 0) false || f.z != 0 || f.aux != 0 || f.rm != 0 || f.vc != 0)
      (.vand p f.vd f.va (Src2.of f.bs f.sb f.vb) (Mods.of xo))
  | 1 => .std .cell (decide (f.rm > 4) || f.wf != 0 || Mods.ill xo)
      ((if f.bs == 1 then f.vb != 0 else f.sb != 0) || Mods.rsvd xo true (f.bs == 0) false || f.z != 0 || f.aux != 0 || f.rm != 0 || f.vc != 0)
      (.vor p f.vd f.va (Src2.of f.bs f.sb f.vb) (Mods.of xo))
  | 2 => .std .cell (decide (f.rm > 4) || f.wf != 0 || Mods.ill xo)
      ((if f.bs == 1 then f.vb != 0 else f.sb != 0) || Mods.rsvd xo true (f.bs == 0) false || f.z != 0 || f.aux != 0 || f.rm != 0 || f.vc != 0)
      (.vxor p f.vd f.va (Src2.of f.bs f.sb f.vb) (Mods.of xo))
  | 3 => .std .cell (decide (f.rm > 4) || (f.bs == 1) || f.wf != 0 || Mods.ill xo)
      (Mods.rsvd xo true false false || f.z != 0 || f.aux != 0 || f.sb != 0 || f.rm != 0 || f.vc != 0 || f.vb != 0)
      (.vnot p f.vd f.va (Mods.of xo))
  | 4 => .std .cell (decide (f.rm > 4) || f.wf != 0 || Mods.ill xo)
      ((if f.bs == 1 then f.vb != 0 else f.sb != 0) || Mods.rsvd xo true (f.bs == 0) false || f.z != 0 || f.aux != 0 || f.rm != 0 || f.vc != 0)
      (.vshl p f.vd f.va (Src2.of f.bs f.sb f.vb) (Mods.of xo))
  | 5 => .std .cell (decide (f.rm > 4) || f.wf != 0 || Mods.ill xo)
      ((if f.bs == 1 then f.vb != 0 else f.sb != 0) || Mods.rsvd xo true (f.bs == 0) false || f.z != 0 || f.aux != 0 || f.rm != 0 || f.vc != 0)
      (.vshr p f.vd f.va (Src2.of f.bs f.sb f.vb) (Mods.of xo))
  | 6 => .std .cell (decide (f.rm > 4) || f.wf != 0 || Mods.ill xo)
      ((if f.bs == 1 then f.vb != 0 else f.sb != 0) || Mods.rsvd xo true (f.bs == 0) false || f.z != 0 || f.aux != 0 || f.rm != 0 || f.vc != 0)
      (.vsra p f.vd f.va (Src2.of f.bs f.sb f.vb) (Mods.of xo))
  | _ => Row.unassigned .cell

/-- The functions of OPC 0x43 (format V). A target NONE is INSN.ILLFN as R295 says, where R124 names CAP.UNSUPPORTED (DEDUCED, log 105). -/
def row43 (p : Pred) (xo : Option Word) (f : FV) : Row :=
  match f.fn with
  | 0 => .std .cell (decide (f.rm > 4) || decide (f.aux % 8 > 5) || f.wf != 0 || Mods.ill xo)
      (decide (f.aux ≥ 16) || (if f.bs == 1 then f.vb != 0 else f.sb != 0) || Mods.rsvd xo true (f.bs == 0) false || f.z != 0 || f.rm != 0 || f.vc != 0)
      (.vcmp p (Rel.of (f.aux % 8)) (f.aux / 8 % 2 == 1) f.vd f.va (Src2.of f.bs f.sb f.vb) (Mods.of xo))
  | 1 => .std .cell (decide (f.rm > 4) || (f.bs == 1) || f.wf != 0 || Mods.ill xo)
      (Mods.rsvd xo true true false || f.z != 0 || f.aux != 0 || f.sb != 0 || f.rm != 0)
      (.vsel p f.vd f.va f.vb f.vc (Mods.of xo))
  | 2 => .std .cell (decide (f.rm > 4) || (f.bs == 1) || f.wf != 0 || Mods.ill xo)
      (Mods.rsvd xo true false false || f.z != 0 || f.aux != 0 || f.sb != 0 || f.rm != 0 || f.vc != 0 || f.vb != 0)
      (.vmov p f.vd f.va (Mods.of xo))
  | 3 => .mk .cell (decide (f.rm > 4) || f.wf != 0 || Mods.ill xo)
      ((f.bs == 0 && f.sb != 0) || Mods.rsvd xo false false false || f.z != 0 || f.rm != 0 || f.vc != 0 || f.vb != 0 || f.va != 0)
      ((!targetFmt (BitVec.ofNat 8 f.aux)) || (f.bs == 0))
      (.vbcast p f.vd f.sb (BitVec.ofNat 8 f.aux) (Mods.of xo))
  | 4 => .mk .cell (decide (f.rm > 4) || (f.bs == 1) || f.wf != 0 || Mods.ill xo)
      (Mods.rsvd xo true false false || f.z != 0 || f.sb != 0 || f.vc != 0 || f.vb != 0)
      ((!targetFmt (BitVec.ofNat 8 f.aux)))
      (.vcvt p (Rm.of f.rm) f.vd f.va (BitVec.ofNat 8 f.aux) (Mods.of xo))
  | 5 => .mk .cell (decide (f.rm > 4) || f.wf != 0 || Mods.ill xo)
      ((f.bs == 0 && f.sb != 0) || Mods.rsvd xo false false false || f.z != 0 || f.vc != 0 || f.vb != 0 || f.va != 0)
      (f.sb % 2 == 1 || (!targetFmt (BitVec.ofNat 8 f.aux)) || (f.bs == 0))
      (.vcvtMem p (Rm.of f.rm) f.vd f.sb (BitVec.ofNat 8 f.aux) (Mods.of xo))
  | 6 => .mk .cell (decide (f.rm > 4) || f.wf != 0 || Mods.ill xo)
      ((f.bs == 0 && f.sb != 0) || Mods.rsvd xo true false false || f.z != 0 || f.aux != 0 || f.rm != 0 || f.vc != 0 || f.vb != 0)
      ((f.bs == 0))
      (.vshift p f.vd f.va f.sb (Mods.of xo))
  | 7 => .mk .cell (decide (f.rm > 4) || f.wf != 0 || Mods.ill xo)
      ((f.bs == 0 && f.sb != 0) || Mods.rsvd xo false false false || f.z != 0 || f.rm != 0 || f.vc != 0 || f.vb != 0 || f.va != 0)
      ((!randFmt (BitVec.ofNat 8 f.aux)) || (f.bs == 0))
      (.vrand p f.vd f.sb (BitVec.ofNat 8 f.aux) (Mods.of xo))
  | _ => Row.unassigned .cell

/-- The functions of OPC 0x44 (format V). -/
def row44 (p : Pred) (xo : Option Word) (f : FV) : Row :=
  match f.fn with
  | 0 => .mk .cell (decide (f.rm > 4) || f.wf != 0)
      ((f.bs == 0 && f.sb != 0) || f.z != 0 || f.rm != 0 || f.vc != 0 || f.vb != 0 || f.va != 0)
      ((f.bs == 0))
      (.vld p f.vd f.aux f.sb xo)
  | 1 => .mk .cell (decide (f.rm > 4) || f.wf != 0)
      ((f.bs == 0 && f.sb != 0) || f.z != 0 || f.rm != 0 || f.vc != 0 || f.vb != 0 || f.vd != 0)
      ((f.bs == 0))
      (.vst p f.va f.aux f.sb xo)
  | 2 => .mk .cell (decide (f.rm > 4) || f.wf != 0)
      ((f.bs == 0 && f.sb != 0) || f.z != 0 || f.rm != 0 || f.vc != 0 || f.vb != 0 || f.va != 0)
      ((f.bs == 0))
      (.vldff p f.vd f.aux f.sb xo)
  | _ => Row.unassigned .cell

/-- The functions of OPC 0x45 (format V). -/
def row45 (p : Pred) (xo : Option Word) (f : FV) : Row :=
  match f.fn with
  | 0 => match f.aux % 2 with
    | 0 => .mk .cell (decide (f.rm > 4) || f.wf != 0 || Mods.ill xo)
      (decide (f.aux ≥ 4) || (f.bs == 0 && f.sb != 0) || Mods.rsvd xo true false false || f.z != 0 || f.vc != 0 || f.vb != 0)
      ((f.aux / 2 % 2 == 1 && (f.vd != 0 || f.bs == 0)))
      (.vrsumO p (Rm.of f.rm) (f.aux / 2 % 2 == 1) f.vd f.va (if f.bs == 1 then some f.sb else none) (Mods.of xo))
    | 1 => .mk .cell (decide (f.rm > 4) || f.wf != 0 || Mods.ill xo)
      (decide (f.aux ≥ 4) || (f.bs == 0 && f.sb != 0) || Mods.rsvd xo true false false || f.z != 0 || f.vc != 0 || f.vb != 0)
      ((f.aux / 2 % 2 == 1 && (f.vd != 0 || f.bs == 0)))
      (.vrsumT p (Rm.of f.rm) (f.aux / 2 % 2 == 1) f.vd f.va (if f.bs == 1 then some f.sb else none) (Mods.of xo))
    | _ => Row.unassigned .q
  | 1 => .mk .cell (decide (f.rm > 4) || f.wf != 0 || Mods.ill xo)
      (decide (f.aux ≥ 4) || (f.bs == 0 && f.sb != 0) || Mods.rsvd xo true false false || f.z != 0 || f.rm != 0 || f.vc != 0 || f.vb != 0 || (f.aux % 2 != 0))
      ((f.aux / 2 % 2 == 1 && (f.vd != 0 || f.bs == 0)))
      (.vrmax p (f.aux / 2 % 2 == 1) f.vd f.va (if f.bs == 1 then some f.sb else none) (Mods.of xo))
  | 2 => .mk .cell (decide (f.rm > 4) || f.wf != 0 || Mods.ill xo)
      (decide (f.aux ≥ 4) || (f.bs == 0 && f.sb != 0) || Mods.rsvd xo true false false || f.z != 0 || f.rm != 0 || f.vc != 0 || f.vb != 0 || (f.aux % 2 != 0))
      ((f.aux / 2 % 2 == 1 && (f.vd != 0 || f.bs == 0)))
      (.vrmin p (f.aux / 2 % 2 == 1) f.vd f.va (if f.bs == 1 then some f.sb else none) (Mods.of xo))
  | 3 => .mk .cell (decide (f.rm > 4) || f.wf != 0 || Mods.ill xo)
      (decide (f.aux ≥ 4) || (f.bs == 0 && f.sb != 0) || Mods.rsvd xo false false false || f.z != 0 || f.rm != 0 || f.vc != 0 || f.vb != 0 || f.va != 0 || (f.aux % 2 != 0))
      ((f.aux / 2 % 2 == 1 && (f.vd != 0 || f.bs == 0)))
      (.vcount p (f.aux / 2 % 2 == 1) f.vd (if f.bs == 1 then some f.sb else none) (Mods.of xo))
  | 4 => .mk .cell (decide (f.rm > 4) || (f.bs == 1) || f.wf != 0 || Mods.ill xo)
      (Mods.rsvd xo true false false || f.z != 0 || decide (f.aux ≥ 4) || (f.aux % 2 != 0) || f.sb != 0 || f.rm != 0 || f.vc != 0 || f.vb != 0)
      (f.aux / 2 % 2 == 1)
      (.vrank p f.vd f.va (Mods.of xo))
  | _ => Row.unassigned .cell

/-- The functions of OPC 0x46 (format V). -/
def row46 (p : Pred) (xo : Option Word) (f : FV) : Row :=
  match f.fn with
  | 0 => .mk .cell (decide (f.rm > 4) || f.wf != 0 || Mods.ill xo)
      ((f.bs == 0 && f.sb != 0) || decide (f.aux ≥ 16) || Mods.rsvd xo false false false || f.z != 0 || f.rm != 0 || f.vc != 0 || f.vb != 0 || f.va != 0 || f.vd != 0)
      ((f.bs == 0))
      (.vdefer p f.sb (f.aux % 16) (Mods.of xo))
  | 1 => .mk .whole (decide (f.rm > 4) || f.wf != 0 || Mods.ill xo)
      ((f.bs == 0 && f.sb != 0) || decide (f.aux ≥ 16) || Mods.rsvd xo false false false || f.z != 0 || f.rm != 0 || f.vc != 0 || f.vb != 0 || p.pr != 0)
      ((f.bs == 0))
      (.vdrain p f.vd f.va f.sb (f.aux % 16) (Mods.of xo))
  | _ => Row.unassigned .cell

/-- The functions of OPC 0x47 (format V). -/
def row47 (p : Pred) (xo : Option Word) (f : FV) : Row :=
  match f.fn with
  | 0 => .std .cell (decide (f.rm > 4) || (f.bs == 1) || f.wf != 0 || Mods.ill xo)
      (Mods.rsvd xo false false false || f.z != 0 || f.aux != 0 || f.sb != 0 || f.rm != 0 || f.vc != 0)
      (.mand p f.vd f.va f.vb (Mods.of xo))
  | 1 => .std .cell (decide (f.rm > 4) || (f.bs == 1) || f.wf != 0 || Mods.ill xo)
      (Mods.rsvd xo false false false || f.z != 0 || f.aux != 0 || f.sb != 0 || f.rm != 0 || f.vc != 0)
      (.mor p f.vd f.va f.vb (Mods.of xo))
  | 2 => .std .cell (decide (f.rm > 4) || (f.bs == 1) || f.wf != 0 || Mods.ill xo)
      (Mods.rsvd xo false false false || f.z != 0 || f.aux != 0 || f.sb != 0 || f.rm != 0 || f.vc != 0)
      (.mxor p f.vd f.va f.vb (Mods.of xo))
  | 3 => .std .cell (decide (f.rm > 4) || (f.bs == 1) || f.wf != 0 || Mods.ill xo)
      (Mods.rsvd xo false false false || f.z != 0 || f.aux != 0 || f.sb != 0 || f.rm != 0 || f.vc != 0 || f.vb != 0)
      (.mnot p f.vd f.va (Mods.of xo))
  | 4 => .std .cell (decide (f.rm > 4) || (f.bs == 1) || f.wf != 0 || Mods.ill xo)
      (Mods.rsvd xo false false false || f.z != 0 || f.aux != 0 || f.sb != 0 || f.rm != 0 || f.vc != 0 || f.vb != 0)
      (.mfirst p f.vd f.va (Mods.of xo))
  | _ => Row.unassigned .cell

/-- The functions of OPC 0x48 (format V). -/
def row48 (p : Pred) (xo : Option Word) (f : FV) : Row :=
  match f.fn with
  | 0 => .std .cell (decide (f.rm > 4) || f.wf != 0 || xo.isNone || passIll 0 (BitVec.ofNat 8 f.aux) (xo.getD 0))
      ((f.bs == 0 && f.sb != 0) || f.z != 0 || f.rm != 0 || f.vc != 0)
      (.pass p f.vd f.va f.vb (if f.bs == 1 then some f.sb else none) (BitVec.ofNat 8 f.aux) (xo.getD 0))
  | 1 => .std .cell (decide (f.rm > 4) || f.wf != 0 || xo.isNone || passKind (xo.getD 0) != 2)
      ((f.bs == 0 && f.sb != 0) || f.z != 0 || f.aux != 0 || f.rm != 0 || f.vc != 0)
      (.pseq p f.vd f.va f.vb (if f.bs == 1 then some f.sb else none) (xo.getD 0))
  | 2 => .mk .whole (decide (f.rm > 4) || f.wf != 0 || xo.isSome)
      ((f.bs == 0 && f.sb != 0) || f.z != 0 || f.rm != 0 || f.vc != 0 || f.vb != 0 || f.va != 0 || f.vd != 0 || p.pr != 0)
      ((f.bs == 0))
      (.ptload p f.aux f.sb)
  | 3 => .mk .cell (decide (f.rm > 4) || f.wf != 0 || xo.isNone || passIll 1 (BitVec.ofNat 8 f.aux) (xo.getD 0))
      ((f.bs == 0 && f.sb != 0) || f.z != 0 || f.rm != 0 || f.vc != 0)
      (f.sb % 2 == 1 || (f.bs == 0))
      (.search p f.vd f.va f.vb f.sb (BitVec.ofNat 8 f.aux) (xo.getD 0))
  | 4 => .mk .whole (decide (f.rm > 4) || f.wf != 0 || xo.isSome)
      ((f.bs == 0 && f.sb != 0) || f.z != 0 || f.aux != 0 || f.rm != 0 || f.vc != 0 || f.vb != 0 || f.va != 0 || p.pr != 0)
      ((f.bs == 0))
      (.vmwrite p f.vd f.sb)
  | 5 => .mk .whole (decide (f.rm > 4) || f.wf != 0 || xo.isSome)
      ((f.bs == 0 && f.sb != 0) || f.z != 0 || f.aux != 0 || f.rm != 0 || f.vc != 0 || f.vb != 0 || f.va != 0 || f.vd != 0 || p.pr != 0)
      ((f.bs == 0))
      (.cmode p f.sb)
  | 6 => .std .whole (decide (f.rm > 4) || (f.bs == 1) || f.wf != 0 || xo.isSome)
      (f.z != 0 || f.aux != 0 || f.sb != 0 || f.rm != 0 || f.vc != 0 || f.vb != 0 || f.va != 0 || f.vd != 0 || p.pr != 0)
      (.vscrub p)
  | _ => Row.unassigned .cell

/-- The functions of OPC 0x60 (format X). -/
def row60 (p : Pred) (xo : Option Word) (f : FX) : Row :=
  match f.fn with
  | 0 => .std .cell (Mods.ill xo)
      (decide (f.aux ≥ 2) || Mods.rsvd xo true false false || f.z != 0 || f.vb != 0)
      (.vtopk p (f.aux % 2 == 1) f.vd f.ve f.va f.sd f.sa (Mods.of xo))
  | 1 => .std .cell (Mods.ill xo)
      (decide (f.aux ≥ 2) || Mods.rsvd xo true false false || f.z != 0 || f.vb != 0)
      (.vbotk p (f.aux % 2 == 1) f.vd f.ve f.va f.sd f.sa (Mods.of xo))
  | 2 => .std .cell (Mods.ill xo)
      (decide (f.aux ≥ 4) || (f.aux / 2 % 2 == 1 && (f.vd != 0 || f.ve != 0)) || Mods.rsvd xo true false false || f.z != 0 || f.sa != 0 || f.vb != 0)
      (.vargmax p (f.aux % 2 == 1) (f.aux / 2 % 2 == 1) f.vd f.ve f.va f.sd (Mods.of xo))
  | 3 => .std .cell (Mods.ill xo)
      (decide (f.aux ≥ 4) || (f.aux / 2 % 2 == 1 && (f.vd != 0 || f.ve != 0)) || Mods.rsvd xo true false false || f.z != 0 || f.sa != 0 || f.vb != 0)
      (.vargmin p (f.aux % 2 == 1) (f.aux / 2 % 2 == 1) f.vd f.ve f.va f.sd (Mods.of xo))
  | _ => Row.unassigned .cell

/-- The functions of OPC 0x61 (format X). -/
def row61 (p : Pred) (xo : Option Word) (f : FX) : Row :=
  match f.fn with
  | 0 => .std .cell (Mods.ill xo)
      (decide (f.aux ≥ 2) || Mods.rsvd xo true false false || f.z != 0 || f.sa != 0 || f.vb != 0)
      (.vsort p (f.aux % 2 == 1) f.vd f.ve f.va f.sd (Mods.of xo))
  | 1 => .std .cell (Mods.ill xo)
      (Mods.rsvd xo true true false || f.z != 0 || f.aux != 0 || f.sa != 0 || f.sd != 0 || f.ve != 0)
      (.vperm p f.vd f.va f.vb (Mods.of xo))
  | 2 => .std .cell (Mods.ill xo)
      (Mods.rsvd xo true false false || f.z != 0 || f.aux != 0 || f.sa != 0 || f.vb != 0)
      (.vuniq p f.vd f.ve f.va f.sd (Mods.of xo))
  | _ => Row.unassigned .cell

/-- The functions of OPC 0x62 (format X). -/
def row62 (p : Pred) (xo : Option Word) (f : FX) : Row :=
  match f.fn with
  | 0 => .std .cell (Mods.ill xo)
      (Mods.rsvd xo true true false || f.z != 0 || f.aux != 0 || f.sa != 0 || f.sd != 0 || f.ve != 0)
      (.vsim p f.vd f.va f.vb (Mods.of xo))
  | 1 => .std .cell (Mods.ill xo)
      (Mods.rsvd xo true true false || f.z != 0 || f.aux != 0)
      (.vnear p f.vd f.ve f.va f.vb f.sd f.sa (Mods.of xo))
  | 2 => .std .whole (Mods.ill xo)
      (Mods.rsvd xo true false false || f.z != 0 || f.aux != 0 || f.vb != 0 || f.ve != 0 || p.pr != 0)
      (.nmsearch p f.vd f.va f.sd f.sa (Mods.of xo))
  | _ => Row.unassigned .cell

/-- The functions of OPC 0x68 (format A). -/
def row68 (p : Pred) (xo : Option Word) (f : FA) : Row :=
  match f.fn with
  | 0 => .std .whole (decide (f.rm > 4) || xo.isSome)
      (f.tag != 0 || f.term != 0 || f.arm != 0 || f.rm != 0 || f.sat != 0 || f.bsrc != 0 || f.h != 0 || f.vb != 0 || f.va != 0 || f.asx != 0 || f.ad != 0 || p.pr != 0)
      (.mxatt p f.sa f.sb)
  | 1 => .std .whole (decide (f.rm > 4) || xo.isSome)
      (f.tag != 0 || f.term != 0 || f.arm != 0 || f.rm != 0 || f.sat != 0 || f.bsrc != 0 || f.h != 0 || f.sb != 0 || f.sa != 0 || f.vb != 0 || f.va != 0 || f.asx != 0 || f.ad != 0 || p.pr != 0)
      (.mxdet p)
  | 2 => .std .whole (decide (f.rm > 4) || xo.isSome)
      (f.tag != 0 || f.term != 0 || f.arm != 0 || f.rm != 0 || f.sat != 0 || f.bsrc != 0 || f.h != 0 || f.sb != 0 || f.sa != 0 || f.vb != 0 || f.va != 0 || f.asx != 0 || p.pr != 0)
      (.mxzero p f.ad)
  | _ => Row.unassigned .cell

/-- The functions of OPC 0x69 (format A). -/
def row69 (p : Pred) (xo : Option Word) (f : FA) : Row :=
  match f.fn with
  | 0 => .std .cell (decide (f.rm > 4) || xo.isNone)
      ((f.arm == 0 && f.term != 0) || (if f.bsrc == 1 then f.vb != 0 else (f.h != 0 || f.sb != 0)) || (xfld xo 46 18 != 0) || (xfld xo 16 16 != 0) || f.asx != 0)
      (.mxmac p (Rm.of f.rm) (f.sat == 1) (Trig.ofA f.arm f.term f.tag) f.ad f.va (BSrc.of f.bsrc f.vb f.h f.sb) f.sa (xfld xo 39 7) (xfld xo 32 7) (xfld xo 0 16))
  | _ => Row.unassigned .cell

/-- The functions of OPC 0x6A (format A). -/
def row6A (p : Pred) (xo : Option Word) (f : FA) : Row :=
  match f.fn with
  | 0 => .std .whole (decide (f.rm > 4) || xo.isSome)
      ((f.arm == 0 && f.term != 0) || f.rm != 0 || f.sat != 0 || f.bsrc != 0 || f.sb != 0 || f.vb != 0 || f.va != 0 || f.asx != 0 || p.pr != 0)
      (.mxld p (Trig.ofA f.arm f.term f.tag) f.ad f.sa f.h)
  | 1 => .std .whole (decide (f.rm > 4) || xo.isSome)
      ((f.arm == 0 && f.term != 0) || f.rm != 0 || f.sat != 0 || f.bsrc != 0 || f.vb != 0 || f.va != 0 || f.asx != 0 || p.pr != 0)
      (.mxrd p (Trig.ofA f.arm f.term f.tag) f.ad f.sa f.sb f.h)
  | 2 => .std .whole (decide (f.rm > 4) || xo.isSome)
      ((f.arm == 0 && f.term != 0) || f.rm != 0 || f.sat != 0 || f.bsrc != 0 || f.sb != 0 || f.vb != 0 || f.va != 0 || f.asx != 0 || f.ad != 0 || p.pr != 0)
      (.mxscl p (Trig.ofA f.arm f.term f.tag) f.sa f.h)
  | 3 => .std .cell (decide (f.rm > 4) || xo.isNone || (!ozpOk (BitVec.ofNat 8 (xfld xo 16 8)) (BitVec.ofNat 8 (xfld xo 8 8))))
      ((f.arm == 0 && f.term != 0) || (xfld xo 47 17 != 0) || (xfld xo 24 9 != 0) || (xfld xo 0 5 != 0) || f.sat != 0 || f.bsrc != 0 || f.h != 0 || f.sb != 0 || f.asx != 0 || (xfld xo 6 1 == 0 && f.vb != 0))
      (.mxdrain p (Rm.of f.rm) (Trig.ofA f.arm f.term f.tag) f.va f.ad f.vb f.sa (xfld xo 40 7) (xfld xo 33 7) (BitVec.ofNat 8 (xfld xo 16 8)) (BitVec.ofNat 8 (xfld xo 8 8)) (xfld xo 7 1 == 1) (xfld xo 6 1 == 1) (xfld xo 5 1 == 1))
  | _ => Row.unassigned .cell

/-- The functions of OPC 0x70 (format Y). -/
def row70 (p : Pred) (xo : Option Word) (f : FY) : Row :=
  match f.fn with
  | 0 => .std .cell (decide (f.sa ≥ 32) || decide (f.sb ≥ 32) || (xfld xo 53 3 == 7) || xo.isNone)
      (Trig.rsvAux f.aux || (xfld xo 44 3 != 0) || (xfld xo 0 44 != 0) || f.sd != 0)
      (.fgath p (Trig.ofAux f.aux) f.sa f.sb f.h (BitVec.ofNat 12 f.imm) (BitVec.ofNat 8 (xfld xo 56 8)) (xfld xo 53 3) (xfld xo 47 6))
  | 1 => .std .cell (decide (f.sa ≥ 32) || decide (f.sb ≥ 32) || (xfld xo 53 3 == 7) || xo.isNone)
      (Trig.rsvAux f.aux || (xfld xo 56 8 != 0) || (xfld xo 44 3 != 0) || (xfld xo 0 44 != 0) || f.sd != 0)
      (.fscat p (Trig.ofAux f.aux) f.sa f.sb f.h (BitVec.ofNat 12 f.imm) (xfld xo 53 3) (xfld xo 47 6))
  | 2 => .std .cell (decide (xfld xo 44 3 > 4) || decide (f.sa ≥ 32) || decide (f.sb ≥ 32) || (xfld xo 53 3 == 7) || xo.isNone)
      (Trig.rsvAux f.aux || (xfld xo 56 8 != 0) || (xfld xo 0 44 != 0) || f.sd != 0)
      (.fscata p (Rm.of (xfld xo 44 3)) (Trig.ofAux f.aux) f.sa f.sb f.h (BitVec.ofNat 12 f.imm) (xfld xo 53 3) (xfld xo 47 6))
  | 3 => .std .whole (xo.isNone)
      (Trig.rsvAux f.aux || (xfld xo 32 20 != 0) || p.pr != 0)
      (.fstrm p (Trig.ofAux f.aux) f.sd f.sa f.sb f.h (BitVec.ofNat 12 f.imm) (BitVec.ofNat 8 (xfld xo 56 8)) (xfld xo 55 1 == 1) (xfld xo 52 3) (BitVec.ofNat 32 (xfld xo 0 32)))
  | 4 => .std .whole (xo.isSome)
      (decide (f.imm ≥ 256) || f.aux != 0 || f.h != 0 || f.sb != 0 || f.sa != 0 || p.pr != 0)
      (.fgsync p f.sd (BitVec.ofNat 8 f.imm))
  | _ => Row.unassigned .cell

/-- The functions of OPC 0x71 (format Y). -/
def row71 (p : Pred) (xo : Option Word) (f : FY) : Row :=
  match f.fn with
  | 0 => .std .cell (decide (f.sa ≥ 32) || xo.isSome)
      (decide (f.imm ≥ 8) || f.aux != 0 || f.h != 0 || f.sb != 0)
      (.vpop p f.sd f.sa (f.imm % 8))
  | 1 => .std .cell (decide (f.sa ≥ 32) || xo.isSome)
      (decide (f.imm ≥ 8) || f.aux != 0 || f.h != 0 || f.sb != 0)
      (.vpush p f.sd f.sa (f.imm % 8))
  | _ => Row.unassigned .cell

/-- The functions of OPC 0x72 (format Y). -/
def row72 (p : Pred) (xo : Option Word) (f : FY) : Row :=
  match f.fn with
  | 0 => .std .whole (xo.isNone)
      (Trig.rsvAux f.aux || (xfld xo 0 50 != 0) || p.pr != 0)
      (.copy p (Trig.ofAux f.aux) f.sd f.sa f.sb f.h (BitVec.ofNat 12 f.imm) (xfld xo 56 8) (xfld xo 50 6))
  | 1 => .mk .whole (xo.isNone)
      (Trig.rsvAux f.aux || (xfld xo 0 50 != 0) || p.pr != 0)
      (decide (f.sb > 60))
      (.copy2d p (Trig.ofAux f.aux) f.sd f.sa f.sb f.h (BitVec.ofNat 12 f.imm) (xfld xo 56 8) (xfld xo 50 6))
  | _ => Row.unassigned .cell

/-- The functions of OPC 0x73 (format Y). -/
def row73 (p : Pred) (xo : Option Word) (f : FY) : Row :=
  match f.fn with
  | 0 => .mk .cell (decide (f.sb ≥ 32) || xo.isSome)
      (Trig.rsvAux f.aux || f.imm != 0 || f.sd != 0)
      ((decide (f.aux % 8 > 3)))
      (.hsrd p (Trig.ofAux f.aux) f.sa f.sb f.h)
  | 1 => .std .whole (xo.isNone)
      ((xfld xo 0 50 != 0) || f.aux != 0 || f.imm != 0 || f.sd != 0 || p.pr != 0)
      (.hswr p f.sa f.sb f.h (xfld xo 56 8) (xfld xo 50 6))
  | _ => Row.unassigned .cell

/-- The functions of OPC 0x74 (format Y). -/
def row74 (p : Pred) (xo : Option Word) (f : FY) : Row :=
  match f.fn with
  | 0 => .std .cell (decide (f.sb ≥ 32) || xo.isSome)
      (f.aux != 0 || f.imm != 0 || f.sd != 0)
      (.spst p f.sa f.sb f.h)
  | 1 => .std .cell (decide (f.sb ≥ 32) || xo.isSome)
      (f.aux != 0 || f.imm != 0 || f.sd != 0)
      (.spld p f.sa f.sb f.h)
  | 2 => .mk .whole (xo.isSome)
      (Trig.rsvAux f.aux || f.sb != 0 || f.sd != 0 || p.pr != 0)
      ((decide (f.aux % 8 > 3)))
      (.contract p (Trig.ofAux f.aux) f.sa f.h (BitVec.ofNat 12 f.imm))
  | _ => Row.unassigned .cell

/-- The functions of OPC 0x78 (format K). -/
def row78 (p : Pred) (xo : Option Word) (f : FK) : Row :=
  match f.fn with
  | 0 => match f.aux % 4 with
    | 0 => .std .q (decide (f.mode > 1) || xo.isNone)
      ((xfld xo 0 32 != 0) || f.aux != 0 || f.mode != 0 || decide (f.aux ≥ 4) || (xfld xo 32 16 == 0 && (f.sc != 0 || xfld xo 48 16 != 0)))
      (.kvseqNew p f.sd f.sa f.sb f.sc f.h f.tag (xfld xo 48 16) (xfld xo 32 16))
    | 1 => .std .q (decide (f.mode > 1) || xo.isSome)
      (decide (f.aux ≥ 4) || f.mode != 0 || f.tag != 0 || f.sc != 0 || f.sb != 0)
      (.kvseqEnd p f.sd f.sa f.h)
    | 2 => .std .q (decide (f.mode > 1) || xo.isSome)
      (decide (f.aux ≥ 4) || f.mode != 0 || f.tag != 0 || f.sc != 0 || f.sb != 0)
      (.kvseqSeal p f.sd f.sa f.h)
    | _ => Row.unassigned .q
  | 1 => .std .q (decide (f.mode > 1) || xo.isSome)
      (f.aux != 0 || f.mode != 0 || f.sc != 0 || f.sb != 0 || f.sd != 0)
      (.sptag p f.sa f.h f.tag)
  | 2 => .std .q (decide (f.mode > 1) || xo.isNone)
      ((xfld xo 0 50 != 0) || f.aux != 0 || f.mode != 0 || f.tag != 0 || f.sb != 0)
      (.kvapp p f.sd f.sa f.sc f.h (xfld xo 56 8) (xfld xo 50 6))
  | 3 => match f.aux / 32 % 4 with
    | 0 => .std .q (decide (f.mode > 1) || xo.isSome)
      ((f.aux != 0) || f.mode != 0 || f.tag != 0 || f.sc != 0)
      (.kvlook p f.sd f.sa f.sb f.h)
    | 1 => .std .q (decide (f.mode > 1) || xo.isSome)
      (decide (f.aux ≥ 128) || f.mode != 0 || f.tag != 0 || f.sc != 0)
      (.kvlookLd p (f.aux % 32) f.sd f.sa f.sb f.h)
    | 2 => .std .q (decide (f.mode > 1) || xo.isSome)
      ((f.aux != 64) || f.mode != 0 || f.tag != 0 || f.sc != 0)
      (.kvlookPf p f.sd f.sa f.sb f.h)
    | _ => Row.unassigned .q
  | 4 => .std .q (decide (f.mode > 1) || xo.isSome)
      (f.aux != 0 || f.mode != 0 || f.tag != 0)
      (.kvfree p f.sd f.sa f.sb f.sc f.h)
  | 5 => match f.mode with
    | 0 => .std .q (decide (f.mode > 1) || xo.isSome)
      (f.aux != 0 || f.sc != 0 || f.sb != 0)
      (.spretHole p f.sd f.sa f.h f.tag)
    | 1 => .std .q (decide (f.mode > 1) || xo.isSome)
      (f.aux != 0 || f.sc != 0 || f.sb != 0)
      (.spretClose p f.sd f.sa f.h f.tag)
    | _ => Row.unassigned .q
  | _ => Row.unassigned .q

/-- The functions of OPC 0x79 (format K). -/
def row79 (p : Pred) (xo : Option Word) (f : FK) : Row :=
  match f.fn with
  | 0 => .std .q (decide (f.mode > 1) || xo.isSome)
      (f.aux != 0 || f.mode != 0 || f.tag != 0)
      (.bmreord p f.sd f.sa f.sb f.sc f.h)
  | 1 => match f.aux % 2 with
    | 0 => .std .q (decide (f.mode > 1) || xo.isSome)
      (decide (f.aux ≥ 2) || f.mode != 0 || f.tag != 0 || f.sc != 0)
      (.pfxfind p f.sd f.sa f.sb f.h)
    | 1 => .std .q (decide (f.mode > 1) || xo.isSome)
      (decide (f.aux ≥ 2) || f.mode != 0 || f.tag != 0 || f.sc != 0 || f.sa != 0)
      (.pfxfindDrop p f.sd f.sb f.h)
    | _ => Row.unassigned .q
  | 2 => .std .q (decide (f.mode > 1) || xo.isSome)
      (f.aux != 0 || f.mode != 0 || f.tag != 0)
      (.pfxins p f.sd f.sa f.sb f.sc f.h)
  | _ => Row.unassigned .q

/-- The functions of OPC 0x7A (format K). KVEVICT's limit of SD comes after the checks of its pool (R397), so the instruction makes it. -/
def row7A (p : Pred) (xo : Option Word) (f : FK) : Row :=
  match f.fn with
  | 0 => .std .q (decide (f.mode > 1) || xo.isSome)
      (f.aux != 0 || f.mode != 0 || f.tag != 0 || f.sc != 0 || f.sa != 0)
      (.kvpin p f.sd f.sb f.h)
  | 1 => .std .q (decide (f.mode > 1) || xo.isSome)
      (f.aux != 0 || f.mode != 0 || f.tag != 0 || f.sc != 0 || f.sa != 0)
      (.kvunpin p f.sd f.sb f.h)
  | 2 => .std .q (decide (f.mode > 1) || xo.isNone)
      ((xfld xo 23 1 == 0 && xfld xo 19 4 != 0) || (xfld xo 12 4 != 0) || (xfld xo 24 40 != 0) || f.aux != 0 || f.mode != 0 || f.tag != 0 || f.sc != 0)
      (.kvpull p (Trig.ofA (xfld xo 23 1) (xfld xo 19 4) (xfld xo 16 3)) f.sd f.sa f.sb f.h (BitVec.ofNat 12 (xfld xo 0 12)))
  | 3 => .std .q (decide (f.mode > 1) || xo.isNone)
      ((xfld xo 23 1 == 0 && xfld xo 19 4 != 0) || (xfld xo 12 4 != 0) || (xfld xo 24 40 != 0) || f.aux != 0 || f.mode != 0 || f.tag != 0 || f.sc != 0 || f.sa != 0)
      (.kvevict p (Trig.ofA (xfld xo 23 1) (xfld xo 19 4) (xfld xo 16 3)) f.sd f.sb f.h (BitVec.ofNat 12 (xfld xo 0 12)))
  | _ => Row.unassigned .q

/-- The functions of OPC 0x7B (format K). ATTN's limit of TAG comes after the checks of its pool (R397), so the instruction makes it. -/
def row7B (p : Pred) (xo : Option Word) (f : FK) : Row :=
  match f.fn with
  | 0 => .std .q (decide (f.mode > 1) || xo.isSome)
      (Trig.rsvAux f.aux || f.mode != 0 || f.tag != 0 || f.sc != 0 || f.sb != 0)
      (.attn p (Trig.ofAux f.aux) f.sd f.sa f.h)
  | _ => Row.unassigned .q

/-- The row of the opcode map (R224) that a first word selects; none when OPC is unassigned. -/
def rowOf (opc : Nat) (p : Pred) (xo : Option Word) (n : Nat) : Option Row :=
  match opc with
  | 0x01 => some (row01 p xo (FS.of n))
  | 0x02 => some (row02 p xo (FSI.of n))
  | 0x03 => some (row03 p xo (FS.of n))
  | 0x04 => some (row04 p xo (FSI.of n))
  | 0x05 => some (row05 p xo (FS.of n))
  | 0x06 => some (row06 p xo (FM.of n))
  | 0x20 => some (row20 p xo (FB.of n))
  | 0x21 => some (row21 p xo (FB.of n))
  | 0x22 => some (row22 p xo (FB.of n))
  | 0x30 => some (row30 p xo (FM.of n))
  | 0x31 => some (row31 p xo (FM.of n))
  | 0x32 => some (row32 p xo (FM.of n))
  | 0x38 => some (row38 p xo (FY.of n))
  | 0x39 => some (row39 p xo (FY.of n))
  | 0x3A => some (row3A p xo (FY.of n))
  | 0x3B => some (row3B p xo (FY.of n))
  | 0x40 => some (row40 p xo (FV.of n))
  | 0x41 => some (row41 p xo (FV.of n))
  | 0x42 => some (row42 p xo (FV.of n))
  | 0x43 => some (row43 p xo (FV.of n))
  | 0x44 => some (row44 p xo (FV.of n))
  | 0x45 => some (row45 p xo (FV.of n))
  | 0x46 => some (row46 p xo (FV.of n))
  | 0x47 => some (row47 p xo (FV.of n))
  | 0x48 => some (row48 p xo (FV.of n))
  | 0x60 => some (row60 p xo (FX.of n))
  | 0x61 => some (row61 p xo (FX.of n))
  | 0x62 => some (row62 p xo (FX.of n))
  | 0x68 => some (row68 p xo (FA.of n))
  | 0x69 => some (row69 p xo (FA.of n))
  | 0x6A => some (row6A p xo (FA.of n))
  | 0x70 => some (row70 p xo (FY.of n))
  | 0x71 => some (row71 p xo (FY.of n))
  | 0x72 => some (row72 p xo (FY.of n))
  | 0x73 => some (row73 p xo (FY.of n))
  | 0x74 => some (row74 p xo (FY.of n))
  | 0x78 => some (row78 p xo (FK.of n))
  | 0x79 => some (row79 p xo (FK.of n))
  | 0x7A => some (row7A p xo (FK.of n))
  | 0x7B => some (row7B p xo (FK.of n))
  | _ => none

/-- Why a word with an active lane is refused before it is an instruction (R211). -/
inductive DecodeCause where
  | illfn   -- INSN.ILLFN (0x081), step 2 or 5
  | rsvnz   -- INSN.RSVNZ (0x082), step 3
  | privIllfn   -- a supervisor-only instruction at step 5: INSN.PRIV (0x083), step 4, outside supervisor mode, else INSN.ILLFN
deriving DecidableEq, Repr

/-- A refused word: the cause it raises if it has an active lane, how its lanes are found, and its first word. -/
structure Reject where
  cause : DecodeCause
  lanes : Lanes
  pred : Pred
  word : Word
deriving DecidableEq, Repr

/-- EXT of a first word (R206). -/
def wordExt (w : Word) : Bool := fld w.toNat 63 1 == 1

/-- OPC of a first word (R206). -/
def wordOpc (w : Word) : Nat := fld w.toNat 56 7

/-- PN and PR of a first word (R206). -/
def wordPred (w : Word) : Pred := ⟨fld w.toNat 55 1 == 1, fld w.toNat 52 3⟩

/-- What an instruction raises when a check of its own that the word alone decides fails: PTLOAD is supervisor-only (R181, R211). -/
def ownCause : Instr → DecodeCause
  | .ptload _ _ _ => .privIllfn
  | _ => .illfn

/-- Decodes a first word and the word after it, which is read only when EXT is 1 (R207). Steps 1 to 3 of R211 are made here, and those
of step 5 that the word alone decides, with step 4 in `ownCause`. An unassigned OPC is an instruction of its own, which raises INSN.ILLOP
(DEDUCED, logs 31 and 60). -/
def decode (w x : Word) : Except Reject Instr :=
  let xo := if wordExt w then some x else none
  match rowOf (wordOpc w) (wordPred w) xo w.toNat with
  | none => .ok (.illegalOpcode w xo)
  | some r =>
    if r.illfn then .error ⟨.illfn, r.lanes, wordPred w, w⟩
    else if r.rsvnz then .error ⟨.rsvnz, r.lanes, wordPred w, w⟩
    else if r.own then .error ⟨ownCause r.instr, r.lanes, wordPred w, w⟩
    else .ok r.instr

/-- The instruction's length in bytes: 16 with an extension word, else 8 (R207). -/
def wordLen (w : Word) : Nat := if wordExt w then 16 else 8

/-- The decoder's answer for an instruction given as one number: its first word in bits 63..0, the next in bits
127..64. -/
def decodeTableWord (_nbits w : Nat) : Option Instr :=
  match decode (BitVec.ofNat 64 w) (BitVec.ofNat 64 (w / 2 ^ 64)) with
  | .ok i => some i
  | .error _ => none

/-- A first word from its parts, and its extension word. -/
def wordsOf (opc : Nat) (p : Pred) (body : Nat) (xo : Option Word) : List Word :=
  BitVec.ofNat 64 ((if xo.isSome then 1 else 0) * 2 ^ 63 + opc * 2 ^ 56 + (if p.pn then 1 else 0) * 2 ^ 55 +
    p.pr * 2 ^ 52 + body) :: xo.toList

/-- The words of a SETC of register `creg`; a host write has none. -/
def setcWords (rw : RegWrite) (creg : Nat) : List Word :=
  match rw with
  | .setc p sa => wordsOf 0x3A p (FY.bits { aux := 0, imm := creg, h := 0, sb := 0, sa := sa, sd := 0, fn := 1 }) none
  | .bar _ _ => []

/-- The words of an instruction, written from the same tables; no words for a step of another agent. -/
def encode : Instr → List Word
  | .add p sd sa sb =>
    wordsOf 0x01 p (FS.bits { z := 0, qb := 0, qa := 0, qd := 0, sc := 0, sb := sb, sa := sa, sd := sd, fn := 0 }) none
  | .sub p sd sa sb =>
    wordsOf 0x01 p (FS.bits { z := 0, qb := 0, qa := 0, qd := 0, sc := 0, sb := sb, sa := sa, sd := sd, fn := 1 }) none
  | .mul p sd sa sb =>
    wordsOf 0x01 p (FS.bits { z := 0, qb := 0, qa := 0, qd := 0, sc := 0, sb := sb, sa := sa, sd := sd, fn := 2 }) none
  | .mulh p sd sa sb =>
    wordsOf 0x01 p (FS.bits { z := 0, qb := 0, qa := 0, qd := 0, sc := 0, sb := sb, sa := sa, sd := sd, fn := 3 }) none
  | .mulhu p sd sa sb =>
    wordsOf 0x01 p (FS.bits { z := 0, qb := 0, qa := 0, qd := 0, sc := 0, sb := sb, sa := sa, sd := sd, fn := 4 }) none
  | .div p sd sa sb =>
    wordsOf 0x01 p (FS.bits { z := 0, qb := 0, qa := 0, qd := 0, sc := 0, sb := sb, sa := sa, sd := sd, fn := 5 }) none
  | .divu p sd sa sb =>
    wordsOf 0x01 p (FS.bits { z := 0, qb := 0, qa := 0, qd := 0, sc := 0, sb := sb, sa := sa, sd := sd, fn := 6 }) none
  | .rem p sd sa sb =>
    wordsOf 0x01 p (FS.bits { z := 0, qb := 0, qa := 0, qd := 0, sc := 0, sb := sb, sa := sa, sd := sd, fn := 7 }) none
  | .remu p sd sa sb =>
    wordsOf 0x01 p (FS.bits { z := 0, qb := 0, qa := 0, qd := 0, sc := 0, sb := sb, sa := sa, sd := sd, fn := 8 }) none
  | .andS p sd sa sb =>
    wordsOf 0x01 p (FS.bits { z := 0, qb := 0, qa := 0, qd := 0, sc := 0, sb := sb, sa := sa, sd := sd, fn := 9 }) none
  | .orS p sd sa sb =>
    wordsOf 0x01 p (FS.bits { z := 0, qb := 0, qa := 0, qd := 0, sc := 0, sb := sb, sa := sa, sd := sd, fn := 10 }) none
  | .xorS p sd sa sb =>
    wordsOf 0x01 p (FS.bits { z := 0, qb := 0, qa := 0, qd := 0, sc := 0, sb := sb, sa := sa, sd := sd, fn := 11 }) none
  | .shl p sd sa sb =>
    wordsOf 0x01 p (FS.bits { z := 0, qb := 0, qa := 0, qd := 0, sc := 0, sb := sb, sa := sa, sd := sd, fn := 12 }) none
  | .shr p sd sa sb =>
    wordsOf 0x01 p (FS.bits { z := 0, qb := 0, qa := 0, qd := 0, sc := 0, sb := sb, sa := sa, sd := sd, fn := 13 }) none
  | .sra p sd sa sb =>
    wordsOf 0x01 p (FS.bits { z := 0, qb := 0, qa := 0, qd := 0, sc := 0, sb := sb, sa := sa, sd := sd, fn := 14 }) none
  | .rol p sd sa sb =>
    wordsOf 0x01 p (FS.bits { z := 0, qb := 0, qa := 0, qd := 0, sc := 0, sb := sb, sa := sa, sd := sd, fn := 15 }) none
  | .clz p sd sa =>
    wordsOf 0x01 p (FS.bits { z := 0, qb := 0, qa := 0, qd := 0, sc := 0, sb := 0, sa := sa, sd := sd, fn := 16 }) none
  | .ctz p sd sa =>
    wordsOf 0x01 p (FS.bits { z := 0, qb := 0, qa := 0, qd := 0, sc := 0, sb := 0, sa := sa, sd := sd, fn := 17 }) none
  | .popc p sd sa =>
    wordsOf 0x01 p (FS.bits { z := 0, qb := 0, qa := 0, qd := 0, sc := 0, sb := 0, sa := sa, sd := sd, fn := 18 }) none
  | .minS p sd sa sb =>
    wordsOf 0x01 p (FS.bits { z := 0, qb := 0, qa := 0, qd := 0, sc := 0, sb := sb, sa := sa, sd := sd, fn := 19 }) none
  | .maxS p sd sa sb =>
    wordsOf 0x01 p (FS.bits { z := 0, qb := 0, qa := 0, qd := 0, sc := 0, sb := sb, sa := sa, sd := sd, fn := 20 }) none
  | .minu p sd sa sb =>
    wordsOf 0x01 p (FS.bits { z := 0, qb := 0, qa := 0, qd := 0, sc := 0, sb := sb, sa := sa, sd := sd, fn := 21 }) none
  | .maxu p sd sa sb =>
    wordsOf 0x01 p (FS.bits { z := 0, qb := 0, qa := 0, qd := 0, sc := 0, sb := sb, sa := sa, sd := sd, fn := 22 }) none
  | .sel p sd sa sb sc =>
    wordsOf 0x01 p (FS.bits { z := 0, qb := 0, qa := 0, qd := 0, sc := sc, sb := sb, sa := sa, sd := sd, fn := 23 }) none
  | .exts p sd sa sb =>
    wordsOf 0x01 p (FS.bits { z := 0, qb := 0, qa := 0, qd := 0, sc := 0, sb := sb, sa := sa, sd := sd, fn := 24 }) none
  | .extz p sd sa sb =>
    wordsOf 0x01 p (FS.bits { z := 0, qb := 0, qa := 0, qd := 0, sc := 0, sb := sb, sa := sa, sd := sd, fn := 25 }) none
  | .ins p sd sa sb sc =>
    wordsOf 0x01 p (FS.bits { z := 0, qb := 0, qa := 0, qd := 0, sc := sc, sb := sb, sa := sa, sd := sd, fn := 26 }) none
  | .addi p sd sa imm =>
    wordsOf 0x02 p (FSI.bits { imm := imm.field, qd := 0, sa := sa, sd := sd, fn := 0 }) imm.ext
  | .muli p sd sa imm =>
    wordsOf 0x02 p (FSI.bits { imm := imm.field, qd := 0, sa := sa, sd := sd, fn := 1 }) imm.ext
  | .andi p sd sa imm =>
    wordsOf 0x02 p (FSI.bits { imm := imm.field, qd := 0, sa := sa, sd := sd, fn := 2 }) imm.ext
  | .ori p sd sa imm =>
    wordsOf 0x02 p (FSI.bits { imm := imm.field, qd := 0, sa := sa, sd := sd, fn := 3 }) imm.ext
  | .xori p sd sa imm =>
    wordsOf 0x02 p (FSI.bits { imm := imm.field, qd := 0, sa := sa, sd := sd, fn := 4 }) imm.ext
  | .shli p sd sa imm =>
    wordsOf 0x02 p (FSI.bits { imm := imm.field, qd := 0, sa := sa, sd := sd, fn := 5 }) imm.ext
  | .shri p sd sa imm =>
    wordsOf 0x02 p (FSI.bits { imm := imm.field, qd := 0, sa := sa, sd := sd, fn := 6 }) imm.ext
  | .srai p sd sa imm =>
    wordsOf 0x02 p (FSI.bits { imm := imm.field, qd := 0, sa := sa, sd := sd, fn := 7 }) imm.ext
  | .movi p sd imm =>
    wordsOf 0x02 p (FSI.bits { imm := imm.field, qd := 0, sa := 0, sd := sd, fn := 8 }) imm.ext
  | .cmpeq p qd sa sb =>
    wordsOf 0x03 p (FS.bits { z := 0, qb := 0, qa := 0, qd := qd, sc := 0, sb := sb, sa := sa, sd := 0, fn := 0 }) none
  | .cmpne p qd sa sb =>
    wordsOf 0x03 p (FS.bits { z := 0, qb := 0, qa := 0, qd := qd, sc := 0, sb := sb, sa := sa, sd := 0, fn := 1 }) none
  | .cmplt p qd sa sb =>
    wordsOf 0x03 p (FS.bits { z := 0, qb := 0, qa := 0, qd := qd, sc := 0, sb := sb, sa := sa, sd := 0, fn := 2 }) none
  | .cmpltu p qd sa sb =>
    wordsOf 0x03 p (FS.bits { z := 0, qb := 0, qa := 0, qd := qd, sc := 0, sb := sb, sa := sa, sd := 0, fn := 3 }) none
  | .cmple p qd sa sb =>
    wordsOf 0x03 p (FS.bits { z := 0, qb := 0, qa := 0, qd := qd, sc := 0, sb := sb, sa := sa, sd := 0, fn := 4 }) none
  | .cmpleu p qd sa sb =>
    wordsOf 0x03 p (FS.bits { z := 0, qb := 0, qa := 0, qd := qd, sc := 0, sb := sb, sa := sa, sd := 0, fn := 5 }) none
  | .cmpeqi p qd sa imm =>
    wordsOf 0x04 p (FSI.bits { imm := imm.field, qd := qd, sa := sa, sd := 0, fn := 0 }) imm.ext
  | .cmplti p qd sa imm =>
    wordsOf 0x04 p (FSI.bits { imm := imm.field, qd := qd, sa := sa, sd := 0, fn := 1 }) imm.ext
  | .qand p qd qa qb =>
    wordsOf 0x05 p (FS.bits { z := 0, qb := qb, qa := qa, qd := qd, sc := 0, sb := 0, sa := 0, sd := 0, fn := 0 }) none
  | .qor p qd qa qb =>
    wordsOf 0x05 p (FS.bits { z := 0, qb := qb, qa := qa, qd := qd, sc := 0, sb := 0, sa := 0, sd := 0, fn := 1 }) none
  | .qxor p qd qa qb =>
    wordsOf 0x05 p (FS.bits { z := 0, qb := qb, qa := qa, qd := qd, sc := 0, sb := 0, sa := 0, sd := 0, fn := 2 }) none
  | .qnot p qd qa =>
    wordsOf 0x05 p (FS.bits { z := 0, qb := 0, qa := qa, qd := qd, sc := 0, sb := 0, sa := 0, sd := 0, fn := 3 }) none
  | .lea p sd h sa imm =>
    wordsOf 0x06 p (FM.bits { imm := imm.field, sb := 0, scope := 0, str := 0, h := h, sa := sa, sd := sd, fn := 0 }) imm.ext
  | .hchk p sd h sa sb imm =>
    wordsOf 0x06 p (FM.bits { imm := imm.field, sb := sb, scope := 0, str := 0, h := h, sa := sa, sd := sd, fn := 1 }) imm.ext
  | .br p off =>
    wordsOf 0x20 p (FB.bits { off := off.toNat, imm := 0, sa := 0, lc := 0, fn := 0 }) none
  | .jmp p sa link =>
    wordsOf 0x20 p (FB.bits { off := 0, imm := link, sa := sa, lc := 0, fn := 1 }) none
  | .call p sl off =>
    wordsOf 0x20 p (FB.bits { off := off.toNat, imm := 0, sa := sl, lc := 0, fn := 2 }) none
  | .ret p sa =>
    wordsOf 0x20 p (FB.bits { off := 0, imm := 0, sa := sa, lc := 0, fn := 3 }) none
  | .loop p lc sa off =>
    wordsOf 0x21 p (FB.bits { off := off.toNat, imm := 0, sa := sa, lc := lc, fn := 0 }) none
  | .loopi p lc count off =>
    wordsOf 0x21 p (FB.bits { off := off.toNat, imm := count.toNat, sa := 0, lc := lc, fn := 1 }) none
  | .lbrk p lc =>
    wordsOf 0x21 p (FB.bits { off := 0, imm := 0, sa := 0, lc := lc, fn := 2 }) none
  | .ipref p n off =>
    wordsOf 0x21 p (FB.bits { off := off.toNat, imm := n, sa := 0, lc := 0, fn := 3 }) none
  | .trap p imm =>
    wordsOf 0x22 p (FB.bits { off := 0, imm := imm.field, sa := 0, lc := 0, fn := 0 }) imm.ext
  | .tret p =>
    wordsOf 0x22 p (FB.bits { off := 0, imm := 0, sa := 0, lc := 0, fn := 1 }) none
  | .halt p =>
    wordsOf 0x22 p (FB.bits { off := 0, imm := 0, sa := 0, lc := 0, fn := 2 }) none
  | .yield p =>
    wordsOf 0x22 p (FB.bits { off := 0, imm := 0, sa := 0, lc := 0, fn := 3 }) none
  | .ld p str sd h sa imm =>
    wordsOf 0x30 p (FM.bits { imm := imm.field, sb := 0, scope := Scope.optCode str, str := (if str.isSome then 1 else 0), h := h, sa := sa, sd := sd, fn := 0 }) imm.ext
  | .ldI8 p str sd h sa imm =>
    wordsOf 0x30 p (FM.bits { imm := imm.field, sb := 0, scope := Scope.optCode str, str := (if str.isSome then 1 else 0), h := h, sa := sa, sd := sd, fn := 1 }) imm.ext
  | .ldI16 p str sd h sa imm =>
    wordsOf 0x30 p (FM.bits { imm := imm.field, sb := 0, scope := Scope.optCode str, str := (if str.isSome then 1 else 0), h := h, sa := sa, sd := sd, fn := 2 }) imm.ext
  | .ldI32 p str sd h sa imm =>
    wordsOf 0x30 p (FM.bits { imm := imm.field, sb := 0, scope := Scope.optCode str, str := (if str.isSome then 1 else 0), h := h, sa := sa, sd := sd, fn := 3 }) imm.ext
  | .ldZ8 p str sd h sa imm =>
    wordsOf 0x30 p (FM.bits { imm := imm.field, sb := 0, scope := Scope.optCode str, str := (if str.isSome then 1 else 0), h := h, sa := sa, sd := sd, fn := 4 }) imm.ext
  | .ldZ16 p str sd h sa imm =>
    wordsOf 0x30 p (FM.bits { imm := imm.field, sb := 0, scope := Scope.optCode str, str := (if str.isSome then 1 else 0), h := h, sa := sa, sd := sd, fn := 5 }) imm.ext
  | .ldZ32 p str sd h sa imm =>
    wordsOf 0x30 p (FM.bits { imm := imm.field, sb := 0, scope := Scope.optCode str, str := (if str.isSome then 1 else 0), h := h, sa := sa, sd := sd, fn := 6 }) imm.ext
  | .st p str sd h sa imm =>
    wordsOf 0x31 p (FM.bits { imm := imm.field, sb := 0, scope := Scope.optCode str, str := (if str.isSome then 1 else 0), h := h, sa := sa, sd := sd, fn := 0 }) imm.ext
  | .stI8 p str sd h sa imm =>
    wordsOf 0x31 p (FM.bits { imm := imm.field, sb := 0, scope := Scope.optCode str, str := (if str.isSome then 1 else 0), h := h, sa := sa, sd := sd, fn := 1 }) imm.ext
  | .stI16 p str sd h sa imm =>
    wordsOf 0x31 p (FM.bits { imm := imm.field, sb := 0, scope := Scope.optCode str, str := (if str.isSome then 1 else 0), h := h, sa := sa, sd := sd, fn := 2 }) imm.ext
  | .stI32 p str sd h sa imm =>
    wordsOf 0x31 p (FM.bits { imm := imm.field, sb := 0, scope := Scope.optCode str, str := (if str.isSome then 1 else 0), h := h, sa := sa, sd := sd, fn := 3 }) imm.ext
  | .aadd p w4 scope sd h sa sb imm =>
    wordsOf 0x32 p (FM.bits { imm := imm.field, sb := sb, scope := scope.code, str := 1, h := h, sa := sa, sd := sd, fn := (if w4 then 8 else 0) }) imm.ext
  | .amin p w4 scope sd h sa sb imm =>
    wordsOf 0x32 p (FM.bits { imm := imm.field, sb := sb, scope := scope.code, str := 1, h := h, sa := sa, sd := sd, fn := (if w4 then 9 else 1) }) imm.ext
  | .amax p w4 scope sd h sa sb imm =>
    wordsOf 0x32 p (FM.bits { imm := imm.field, sb := sb, scope := scope.code, str := 1, h := h, sa := sa, sd := sd, fn := (if w4 then 10 else 2) }) imm.ext
  | .aand p w4 scope sd h sa sb imm =>
    wordsOf 0x32 p (FM.bits { imm := imm.field, sb := sb, scope := scope.code, str := 1, h := h, sa := sa, sd := sd, fn := (if w4 then 11 else 3) }) imm.ext
  | .aor p w4 scope sd h sa sb imm =>
    wordsOf 0x32 p (FM.bits { imm := imm.field, sb := sb, scope := scope.code, str := 1, h := h, sa := sa, sd := sd, fn := (if w4 then 12 else 4) }) imm.ext
  | .axor p w4 scope sd h sa sb imm =>
    wordsOf 0x32 p (FM.bits { imm := imm.field, sb := sb, scope := scope.code, str := 1, h := h, sa := sa, sd := sd, fn := (if w4 then 13 else 5) }) imm.ext
  | .aswp p w4 scope sd h sa sb imm =>
    wordsOf 0x32 p (FM.bits { imm := imm.field, sb := sb, scope := scope.code, str := 1, h := h, sa := sa, sd := sd, fn := (if w4 then 14 else 6) }) imm.ext
  | .acas p w4 scope sd h sa sb imm =>
    wordsOf 0x32 p (FM.bits { imm := imm.field, sb := sb, scope := scope.code, str := 1, h := h, sa := sa, sd := sd, fn := (if w4 then 15 else 7) }) imm.ext
  | .fenceAcq p scope =>
    wordsOf 0x38 p (FY.bits { aux := (4 * scope.code + 1), imm := 0, h := 0, sb := 0, sa := 0, sd := 0, fn := 0 }) none
  | .fenceRel p scope =>
    wordsOf 0x38 p (FY.bits { aux := (4 * scope.code + 2), imm := 0, h := 0, sb := 0, sa := 0, sd := 0, fn := 0 }) none
  | .fenceAr p scope =>
    wordsOf 0x38 p (FY.bits { aux := (4 * scope.code + 3), imm := 0, h := 0, sb := 0, sa := 0, sd := 0, fn := 0 }) none
  | .lsync p =>
    wordsOf 0x38 p (FY.bits { aux := 0, imm := 0, h := 0, sb := 0, sa := 0, sd := 0, fn := 1 }) none
  | .wait p limits =>
    wordsOf 0x38 p (FY.bits { aux := 0, imm := 0, h := 0, sb := 0, sa := 0, sd := 0, fn := 2 }) limits
  | .sleeptil p sa =>
    wordsOf 0x38 p (FY.bits { aux := 0, imm := 0, h := 0, sb := 0, sa := sa, sd := 0, fn := 3 }) none
  | .barinit p sd h sa sb imm =>
    wordsOf 0x39 p (FY.bits { aux := 0, imm := imm.toNat, h := h, sb := sb, sa := sa, sd := sd, fn := 0 }) none
  | .bararr p sd h sa sb imm =>
    wordsOf 0x39 p (FY.bits { aux := 0, imm := imm.toNat, h := h, sb := sb, sa := sa, sd := sd, fn := 1 }) none
  | .barwait p sd h sa sb imm =>
    wordsOf 0x39 p (FY.bits { aux := 0, imm := imm.toNat, h := h, sb := sb, sa := sa, sd := sd, fn := 2 }) none
  | .barkill p sd h sa imm =>
    wordsOf 0x39 p (FY.bits { aux := 0, imm := imm.toNat, h := h, sb := 0, sa := sa, sd := sd, fn := 3 }) none
  | .getc p sd creg =>
    wordsOf 0x3A p (FY.bits { aux := 0, imm := creg.toNat, h := 0, sb := 0, sa := 0, sd := sd, fn := 0 }) none
  | .setc p creg sa =>
    wordsOf 0x3A p (FY.bits { aux := 0, imm := creg.toNat, h := 0, sb := 0, sa := sa, sd := 0, fn := 1 }) none
  | .vstartWrite p sa => setcWords (.setc p sa) 0x012
  | .avlStripWrite p strip sa => setcWords (.setc p sa) (if strip then 0x014 else 0x013)
  | .hbaseWrite rw => setcWords rw 0x802
  | .tlbinv rw => setcWords rw 0x803
  | .lseedWrite rw => setcWords rw 0x809
  | .swapSlotWrite base rw => setcWords rw (if base then 0x80C else 0x80A)
  | .pfdone rw => setcWords rw 0x80D
  | .lqctlWrite k rw => setcWords rw (0x850 + k)
  | .lqprodDoorbell k rw => setcWords rw (0x860 + k)
  | .svc p sd sa =>
    wordsOf 0x3A p (FY.bits { aux := 0, imm := 0, h := 0, sb := 0, sa := sa, sd := sd, fn := 2 }) none
  | .cflush p scope h sa sb =>
    wordsOf 0x3A p (FY.bits { aux := scope.code, imm := 0, h := h, sb := sb, sa := sa, sd := 0, fn := 3 }) none
  | .cinv p scope icache h sa sb =>
    wordsOf 0x3A p (FY.bits { aux := (scope.code + if icache then 4 else 0), imm := 0, h := h, sb := sb, sa := sa, sd := 0, fn := 4 }) none
  | .enq p sa =>
    wordsOf 0x3B p (FY.bits { aux := 0, imm := 0, h := 0, sb := 0, sa := sa, sd := 0, fn := 0 }) none
  | .deq p sd =>
    wordsOf 0x3B p (FY.bits { aux := 0, imm := 0, h := 0, sb := 0, sa := 0, sd := sd, fn := 1 }) none
  | .launch p sd h sa k =>
    wordsOf 0x3B p (FY.bits { aux := 0, imm := k, h := h, sb := 0, sa := sa, sd := sd, fn := 2 }) none
  | .wgcfgWr p sd sa term n =>
    wordsOf 0x3B p (FY.bits { aux := 0, imm := (n + if term then 16 else 0), h := 0, sb := 0, sa := sa, sd := sd, fn := 3 }) none
  | .wgcfgFree p sd sa term n =>
    wordsOf 0x3B p (FY.bits { aux := 1, imm := (n + if term then 16 else 0), h := 0, sb := 0, sa := sa, sd := sd, fn := 3 }) none
  | .wgcfgRd p sd sa term n =>
    wordsOf 0x3B p (FY.bits { aux := 2, imm := (n + if term then 16 else 0), h := 0, sb := 0, sa := sa, sd := sd, fn := 3 }) none
  | .wgfire p code =>
    wordsOf 0x3B p (FY.bits { aux := 0, imm := code, h := 0, sb := 0, sa := 0, sd := 0, fn := 4 }) none
  | .wgwait p sd term =>
    wordsOf 0x3B p (FY.bits { aux := 0, imm := term, h := 0, sb := 0, sa := 0, sd := sd, fn := 5 }) none
  | .vcfg p vd sb m =>
    wordsOf 0x40 p (FV.bits { z := 0, aux := 0, sb := sb, bs := 1, wf := 0, rm := 0, vc := 0, vb := 0, va := 0, vd := vd, fn := 0 }) (Mods.word m)
  | .vsetvl p sb m =>
    wordsOf 0x40 p (FV.bits { z := 0, aux := 0, sb := sb, bs := 1, wf := 0, rm := 0, vc := 0, vb := 0, va := 0, vd := 0, fn := 1 }) (Mods.word m)
  | .vsetcap p vd sb m =>
    wordsOf 0x40 p (FV.bits { z := 0, aux := 0, sb := sb, bs := 1, wf := 0, rm := 0, vc := 0, vb := 0, va := 0, vd := vd, fn := 2 }) (Mods.word m)
  | .vgetcap p sb va m =>
    wordsOf 0x40 p (FV.bits { z := 0, aux := 0, sb := sb, bs := 1, wf := 0, rm := 0, vc := 0, vb := 0, va := va, vd := 0, fn := 3 }) (Mods.word m)
  | .vdisc p va m =>
    wordsOf 0x40 p (FV.bits { z := 0, aux := 0, sb := 0, bs := 0, wf := 0, rm := 0, vc := 0, vb := 0, va := va, vd := 0, fn := 4 }) (Mods.word m)
  | .vadd p rm wf vd va src m =>
    wordsOf 0x41 p (FV.bits { z := 0, aux := 0, sb := src.sbField, bs := src.bsBit, wf := wf.code, rm := rm.code, vc := 0, vb := src.vbField, va := va, vd := vd, fn := 0 }) (Mods.word m)
  | .vsub p rm wf vd va src m =>
    wordsOf 0x41 p (FV.bits { z := 0, aux := 0, sb := src.sbField, bs := src.bsBit, wf := wf.code, rm := rm.code, vc := 0, vb := src.vbField, va := va, vd := vd, fn := 1 }) (Mods.word m)
  | .vmul p rm wf vd va src m =>
    wordsOf 0x41 p (FV.bits { z := 0, aux := 0, sb := src.sbField, bs := src.bsBit, wf := wf.code, rm := rm.code, vc := 0, vb := src.vbField, va := va, vd := vd, fn := 2 }) (Mods.word m)
  | .vmac p rm sat vd va src m =>
    wordsOf 0x41 p (FV.bits { z := 0, aux := 0, sb := src.sbField, bs := src.bsBit, wf := (if sat then 2 else 0), rm := rm.code, vc := 0, vb := src.vbField, va := va, vd := vd, fn := 3 }) (Mods.word m)
  | .vfma p rm vd va src m =>
    wordsOf 0x41 p (FV.bits { z := 0, aux := 0, sb := src.sbField, bs := src.bsBit, wf := 0, rm := rm.code, vc := 0, vb := src.vbField, va := va, vd := vd, fn := 4 }) (Mods.word m)
  | .vdiv p rm wf vd va src m =>
    wordsOf 0x41 p (FV.bits { z := 0, aux := 0, sb := src.sbField, bs := src.bsBit, wf := wf.code, rm := rm.code, vc := 0, vb := src.vbField, va := va, vd := vd, fn := 5 }) (Mods.word m)
  | .vrcp p rm vd va m =>
    wordsOf 0x41 p (FV.bits { z := 0, aux := 0, sb := 0, bs := 0, wf := 0, rm := rm.code, vc := 0, vb := 0, va := va, vd := vd, fn := 6 }) (Mods.word m)
  | .vrsq p rm vd va m =>
    wordsOf 0x41 p (FV.bits { z := 0, aux := 0, sb := 0, bs := 0, wf := 0, rm := rm.code, vc := 0, vb := 0, va := va, vd := vd, fn := 7 }) (Mods.word m)
  | .vexp p rm vd va m =>
    wordsOf 0x41 p (FV.bits { z := 0, aux := 0, sb := 0, bs := 0, wf := 0, rm := rm.code, vc := 0, vb := 0, va := va, vd := vd, fn := 8 }) (Mods.word m)
  | .vmin p rm wide vd va src m =>
    wordsOf 0x41 p (FV.bits { z := 0, aux := 0, sb := src.sbField, bs := src.bsBit, wf := (if wide then 1 else 0), rm := rm.code, vc := 0, vb := src.vbField, va := va, vd := vd, fn := 9 }) (Mods.word m)
  | .vmax p rm wide vd va src m =>
    wordsOf 0x41 p (FV.bits { z := 0, aux := 0, sb := src.sbField, bs := src.bsBit, wf := (if wide then 1 else 0), rm := rm.code, vc := 0, vb := src.vbField, va := va, vd := vd, fn := 10 }) (Mods.word m)
  | .vabs p rm sat vd va m =>
    wordsOf 0x41 p (FV.bits { z := 0, aux := 0, sb := 0, bs := 0, wf := (if sat then 2 else 0), rm := rm.code, vc := 0, vb := 0, va := va, vd := vd, fn := 11 }) (Mods.word m)
  | .vneg p rm sat vd va m =>
    wordsOf 0x41 p (FV.bits { z := 0, aux := 0, sb := 0, bs := 0, wf := (if sat then 2 else 0), rm := rm.code, vc := 0, vb := 0, va := va, vd := vd, fn := 12 }) (Mods.word m)
  | .vand p vd va src m =>
    wordsOf 0x42 p (FV.bits { z := 0, aux := 0, sb := src.sbField, bs := src.bsBit, wf := 0, rm := 0, vc := 0, vb := src.vbField, va := va, vd := vd, fn := 0 }) (Mods.word m)
  | .vor p vd va src m =>
    wordsOf 0x42 p (FV.bits { z := 0, aux := 0, sb := src.sbField, bs := src.bsBit, wf := 0, rm := 0, vc := 0, vb := src.vbField, va := va, vd := vd, fn := 1 }) (Mods.word m)
  | .vxor p vd va src m =>
    wordsOf 0x42 p (FV.bits { z := 0, aux := 0, sb := src.sbField, bs := src.bsBit, wf := 0, rm := 0, vc := 0, vb := src.vbField, va := va, vd := vd, fn := 2 }) (Mods.word m)
  | .vnot p vd va m =>
    wordsOf 0x42 p (FV.bits { z := 0, aux := 0, sb := 0, bs := 0, wf := 0, rm := 0, vc := 0, vb := 0, va := va, vd := vd, fn := 3 }) (Mods.word m)
  | .vshl p vd va src m =>
    wordsOf 0x42 p (FV.bits { z := 0, aux := 0, sb := src.sbField, bs := src.bsBit, wf := 0, rm := 0, vc := 0, vb := src.vbField, va := va, vd := vd, fn := 4 }) (Mods.word m)
  | .vshr p vd va src m =>
    wordsOf 0x42 p (FV.bits { z := 0, aux := 0, sb := src.sbField, bs := src.bsBit, wf := 0, rm := 0, vc := 0, vb := src.vbField, va := va, vd := vd, fn := 5 }) (Mods.word m)
  | .vsra p vd va src m =>
    wordsOf 0x42 p (FV.bits { z := 0, aux := 0, sb := src.sbField, bs := src.bsBit, wf := 0, rm := 0, vc := 0, vb := src.vbField, va := va, vd := vd, fn := 6 }) (Mods.word m)
  | .vcmp p rel mdst vd va src m =>
    wordsOf 0x43 p (FV.bits { z := 0, aux := (rel.code + if mdst then 8 else 0), sb := src.sbField, bs := src.bsBit, wf := 0, rm := 0, vc := 0, vb := src.vbField, va := va, vd := vd, fn := 0 }) (Mods.word m)
  | .vsel p vd va vb mc m =>
    wordsOf 0x43 p (FV.bits { z := 0, aux := 0, sb := 0, bs := 0, wf := 0, rm := 0, vc := mc, vb := vb, va := va, vd := vd, fn := 1 }) (Mods.word m)
  | .vmov p vd va m =>
    wordsOf 0x43 p (FV.bits { z := 0, aux := 0, sb := 0, bs := 0, wf := 0, rm := 0, vc := 0, vb := 0, va := va, vd := vd, fn := 2 }) (Mods.word m)
  | .vbcast p vd sb fmt m =>
    wordsOf 0x43 p (FV.bits { z := 0, aux := fmt.toNat, sb := sb, bs := 1, wf := 0, rm := 0, vc := 0, vb := 0, va := 0, vd := vd, fn := 3 }) (Mods.word m)
  | .vcvt p rm vd va fmt m =>
    wordsOf 0x43 p (FV.bits { z := 0, aux := fmt.toNat, sb := 0, bs := 0, wf := 0, rm := rm.code, vc := 0, vb := 0, va := va, vd := vd, fn := 4 }) (Mods.word m)
  | .vcvtMem p rm vd sb fmt m =>
    wordsOf 0x43 p (FV.bits { z := 0, aux := fmt.toNat, sb := sb, bs := 1, wf := 0, rm := rm.code, vc := 0, vb := 0, va := 0, vd := vd, fn := 5 }) (Mods.word m)
  | .vshift p vd va sb m =>
    wordsOf 0x43 p (FV.bits { z := 0, aux := 0, sb := sb, bs := 1, wf := 0, rm := 0, vc := 0, vb := 0, va := va, vd := vd, fn := 6 }) (Mods.word m)
  | .vrand p vd sb fmt m =>
    wordsOf 0x43 p (FV.bits { z := 0, aux := fmt.toNat, sb := sb, bs := 1, wf := 0, rm := 0, vc := 0, vb := 0, va := 0, vd := vd, fn := 7 }) (Mods.word m)
  | .vld p vd h sb disp =>
    wordsOf 0x44 p (FV.bits { z := 0, aux := h, sb := sb, bs := 1, wf := 0, rm := 0, vc := 0, vb := 0, va := 0, vd := vd, fn := 0 }) disp
  | .vst p va h sb disp =>
    wordsOf 0x44 p (FV.bits { z := 0, aux := h, sb := sb, bs := 1, wf := 0, rm := 0, vc := 0, vb := 0, va := va, vd := 0, fn := 1 }) disp
  | .vldff p vd h sb disp =>
    wordsOf 0x44 p (FV.bits { z := 0, aux := h, sb := sb, bs := 1, wf := 0, rm := 0, vc := 0, vb := 0, va := 0, vd := vd, fn := 2 }) disp
  | .vrsumO p rm nov vd va osb m =>
    wordsOf 0x45 p (FV.bits { z := 0, aux := (0 + if nov then 2 else 0), sb := osb.getD 0, bs := (if osb.isSome then 1 else 0), wf := 0, rm := rm.code, vc := 0, vb := 0, va := va, vd := vd, fn := 0 }) (Mods.word m)
  | .vrsumT p rm nov vd va osb m =>
    wordsOf 0x45 p (FV.bits { z := 0, aux := (1 + if nov then 2 else 0), sb := osb.getD 0, bs := (if osb.isSome then 1 else 0), wf := 0, rm := rm.code, vc := 0, vb := 0, va := va, vd := vd, fn := 0 }) (Mods.word m)
  | .vrmax p nov vd va osb m =>
    wordsOf 0x45 p (FV.bits { z := 0, aux := (0 + if nov then 2 else 0), sb := osb.getD 0, bs := (if osb.isSome then 1 else 0), wf := 0, rm := 0, vc := 0, vb := 0, va := va, vd := vd, fn := 1 }) (Mods.word m)
  | .vrmin p nov vd va osb m =>
    wordsOf 0x45 p (FV.bits { z := 0, aux := (0 + if nov then 2 else 0), sb := osb.getD 0, bs := (if osb.isSome then 1 else 0), wf := 0, rm := 0, vc := 0, vb := 0, va := va, vd := vd, fn := 2 }) (Mods.word m)
  | .vcount p nov vd osb m =>
    wordsOf 0x45 p (FV.bits { z := 0, aux := (0 + if nov then 2 else 0), sb := osb.getD 0, bs := (if osb.isSome then 1 else 0), wf := 0, rm := 0, vc := 0, vb := 0, va := 0, vd := vd, fn := 3 }) (Mods.word m)
  | .vrank p vd va m =>
    wordsOf 0x45 p (FV.bits { z := 0, aux := 0, sb := 0, bs := 0, wf := 0, rm := 0, vc := 0, vb := 0, va := va, vd := vd, fn := 4 }) (Mods.word m)
  | .vdefer p sb path m =>
    wordsOf 0x46 p (FV.bits { z := 0, aux := path, sb := sb, bs := 1, wf := 0, rm := 0, vc := 0, vb := 0, va := 0, vd := 0, fn := 0 }) (Mods.word m)
  | .vdrain p vd ma sb path m =>
    wordsOf 0x46 p (FV.bits { z := 0, aux := path, sb := sb, bs := 1, wf := 0, rm := 0, vc := 0, vb := 0, va := ma, vd := vd, fn := 1 }) (Mods.word m)
  | .mand p md ma mb m =>
    wordsOf 0x47 p (FV.bits { z := 0, aux := 0, sb := 0, bs := 0, wf := 0, rm := 0, vc := 0, vb := mb, va := ma, vd := md, fn := 0 }) (Mods.word m)
  | .mor p md ma mb m =>
    wordsOf 0x47 p (FV.bits { z := 0, aux := 0, sb := 0, bs := 0, wf := 0, rm := 0, vc := 0, vb := mb, va := ma, vd := md, fn := 1 }) (Mods.word m)
  | .mxor p md ma mb m =>
    wordsOf 0x47 p (FV.bits { z := 0, aux := 0, sb := 0, bs := 0, wf := 0, rm := 0, vc := 0, vb := mb, va := ma, vd := md, fn := 2 }) (Mods.word m)
  | .mnot p md ma m =>
    wordsOf 0x47 p (FV.bits { z := 0, aux := 0, sb := 0, bs := 0, wf := 0, rm := 0, vc := 0, vb := 0, va := ma, vd := md, fn := 3 }) (Mods.word m)
  | .mfirst p md ma m =>
    wordsOf 0x47 p (FV.bits { z := 0, aux := 0, sb := 0, bs := 0, wf := 0, rm := 0, vc := 0, vb := 0, va := ma, vd := md, fn := 4 }) (Mods.word m)
  | .pass p vd va vb osb ctl word =>
    wordsOf 0x48 p (FV.bits { z := 0, aux := ctl.toNat, sb := osb.getD 0, bs := (if osb.isSome then 1 else 0), wf := 0, rm := 0, vc := 0, vb := vb, va := va, vd := vd, fn := 0 }) (some word)
  | .pseq p vd va vb osb word =>
    wordsOf 0x48 p (FV.bits { z := 0, aux := 0, sb := osb.getD 0, bs := (if osb.isSome then 1 else 0), wf := 0, rm := 0, vc := 0, vb := vb, va := va, vd := vd, fn := 1 }) (some word)
  | .ptload p h sb =>
    wordsOf 0x48 p (FV.bits { z := 0, aux := h, sb := sb, bs := 1, wf := 0, rm := 0, vc := 0, vb := 0, va := 0, vd := 0, fn := 2 }) none
  | .search p vd va vb sb ctl word =>
    wordsOf 0x48 p (FV.bits { z := 0, aux := ctl.toNat, sb := sb, bs := 1, wf := 0, rm := 0, vc := 0, vb := vb, va := va, vd := vd, fn := 3 }) (some word)
  | .vmwrite p md sb =>
    wordsOf 0x48 p (FV.bits { z := 0, aux := 0, sb := sb, bs := 1, wf := 0, rm := 0, vc := 0, vb := 0, va := 0, vd := md, fn := 4 }) none
  | .cmode p sb =>
    wordsOf 0x48 p (FV.bits { z := 0, aux := 0, sb := sb, bs := 1, wf := 0, rm := 0, vc := 0, vb := 0, va := 0, vd := 0, fn := 5 }) none
  | .vscrub p =>
    wordsOf 0x48 p (FV.bits { z := 0, aux := 0, sb := 0, bs := 0, wf := 0, rm := 0, vc := 0, vb := 0, va := 0, vd := 0, fn := 6 }) none
  | .vtopk p nanhi vd ve va sd sa m =>
    wordsOf 0x60 p (FX.bits { z := 0, aux := (if nanhi then 1 else 0), sa := sa, sd := sd, vb := 0, va := va, ve := ve, vd := vd, fn := 0 }) (Mods.word m)
  | .vbotk p nanhi vd ve va sd sa m =>
    wordsOf 0x60 p (FX.bits { z := 0, aux := (if nanhi then 1 else 0), sa := sa, sd := sd, vb := 0, va := va, ve := ve, vd := vd, fn := 1 }) (Mods.word m)
  | .vargmax p nanhi nov vd ve va sd m =>
    wordsOf 0x60 p (FX.bits { z := 0, aux := ((if nanhi then 1 else 0) + if nov then 2 else 0), sa := 0, sd := sd, vb := 0, va := va, ve := ve, vd := vd, fn := 2 }) (Mods.word m)
  | .vargmin p nanhi nov vd ve va sd m =>
    wordsOf 0x60 p (FX.bits { z := 0, aux := ((if nanhi then 1 else 0) + if nov then 2 else 0), sa := 0, sd := sd, vb := 0, va := va, ve := ve, vd := vd, fn := 3 }) (Mods.word m)
  | .vsort p nanhi vd ve va sd m =>
    wordsOf 0x61 p (FX.bits { z := 0, aux := (if nanhi then 1 else 0), sa := 0, sd := sd, vb := 0, va := va, ve := ve, vd := vd, fn := 0 }) (Mods.word m)
  | .vperm p vd va vb m =>
    wordsOf 0x61 p (FX.bits { z := 0, aux := 0, sa := 0, sd := 0, vb := vb, va := va, ve := 0, vd := vd, fn := 1 }) (Mods.word m)
  | .vuniq p vd ve va sd m =>
    wordsOf 0x61 p (FX.bits { z := 0, aux := 0, sa := 0, sd := sd, vb := 0, va := va, ve := ve, vd := vd, fn := 2 }) (Mods.word m)
  | .vsim p vd va vb m =>
    wordsOf 0x62 p (FX.bits { z := 0, aux := 0, sa := 0, sd := 0, vb := vb, va := va, ve := 0, vd := vd, fn := 0 }) (Mods.word m)
  | .vnear p vd ve va vb sd sa m =>
    wordsOf 0x62 p (FX.bits { z := 0, aux := 0, sa := sa, sd := sd, vb := vb, va := va, ve := ve, vd := vd, fn := 1 }) (Mods.word m)
  | .nmsearch p vd va sd sa m =>
    wordsOf 0x62 p (FX.bits { z := 0, aux := 0, sa := sa, sd := sd, vb := 0, va := va, ve := 0, vd := vd, fn := 2 }) (Mods.word m)
  | .mxatt p sa sb =>
    wordsOf 0x68 p (FA.bits { tag := 0, term := 0, arm := 0, rm := 0, sat := 0, bsrc := 0, h := 0, sb := sb, sa := sa, vb := 0, va := 0, asx := 0, ad := 0, fn := 0 }) none
  | .mxdet p =>
    wordsOf 0x68 p (FA.bits { tag := 0, term := 0, arm := 0, rm := 0, sat := 0, bsrc := 0, h := 0, sb := 0, sa := 0, vb := 0, va := 0, asx := 0, ad := 0, fn := 1 }) none
  | .mxzero p ad =>
    wordsOf 0x68 p (FA.bits { tag := 0, term := 0, arm := 0, rm := 0, sat := 0, bsrc := 0, h := 0, sb := 0, sa := 0, vb := 0, va := 0, asx := 0, ad := ad, fn := 2 }) none
  | .mxmac p rm sat trig ad va b sa mm1 nm1 km1 =>
    wordsOf 0x69 p (FA.bits { tag := trig.tag, term := trig.termField, arm := trig.armBit, rm := rm.code, sat := (if sat then 1 else 0), bsrc := b.bsrcBit, h := b.hField, sb := b.sbField, sa := sa, vb := b.vbField, va := va, asx := 0, ad := ad, fn := 0 }) (some (BitVec.ofNat 64 (mm1 * 2 ^ 39 + nm1 * 2 ^ 32 + km1 * 2 ^ 0)))
  | .mxld p trig ad sa h =>
    wordsOf 0x6A p (FA.bits { tag := trig.tag, term := trig.termField, arm := trig.armBit, rm := 0, sat := 0, bsrc := 0, h := h, sb := 0, sa := sa, vb := 0, va := 0, asx := 0, ad := ad, fn := 0 }) none
  | .mxrd p trig ad sa sb h =>
    wordsOf 0x6A p (FA.bits { tag := trig.tag, term := trig.termField, arm := trig.armBit, rm := 0, sat := 0, bsrc := 0, h := h, sb := sb, sa := sa, vb := 0, va := 0, asx := 0, ad := ad, fn := 1 }) none
  | .mxscl p trig sa h =>
    wordsOf 0x6A p (FA.bits { tag := trig.tag, term := trig.termField, arm := trig.armBit, rm := 0, sat := 0, bsrc := 0, h := h, sb := 0, sa := sa, vb := 0, va := 0, asx := 0, ad := 0, fn := 2 }) none
  | .mxdrain p rm trig va ad vb sa mm1 nm1 tfmt ozp usep rowt dclr =>
    wordsOf 0x6A p (FA.bits { tag := trig.tag, term := trig.termField, arm := trig.armBit, rm := rm.code, sat := 0, bsrc := 0, h := 0, sb := 0, sa := sa, vb := vb, va := va, asx := 0, ad := ad, fn := 3 }) (some (BitVec.ofNat 64 (mm1 * 2 ^ 40 + nm1 * 2 ^ 33 + tfmt.toNat * 2 ^ 16 + ozp.toNat * 2 ^ 8 + (if usep then 1 else 0) * 2 ^ 7 + (if rowt then 1 else 0) * 2 ^ 6 + (if dclr then 1 else 0) * 2 ^ 5)))
  | .fgath p trig vd vi h fset gfmt lsc rbase =>
    wordsOf 0x70 p (FY.bits { aux := trig.aux, imm := fset.toNat, h := h, sb := vi, sa := vd, sd := 0, fn := 0 }) (some (BitVec.ofNat 64 (gfmt.toNat * 2 ^ 56 + lsc * 2 ^ 53 + rbase * 2 ^ 47)))
  | .fscat p trig va vi h fset lsc rbase =>
    wordsOf 0x70 p (FY.bits { aux := trig.aux, imm := fset.toNat, h := h, sb := vi, sa := va, sd := 0, fn := 1 }) (some (BitVec.ofNat 64 (lsc * 2 ^ 53 + rbase * 2 ^ 47)))
  | .fscata p rm trig va vi h fset lsc rbase =>
    wordsOf 0x70 p (FY.bits { aux := trig.aux, imm := fset.toNat, h := h, sb := vi, sa := va, sd := 0, fn := 2 }) (some (BitVec.ofNat 64 (rm.code * 2 ^ 44 + lsc * 2 ^ 53 + rbase * 2 ^ 47)))
  | .fstrm p trig sd sa sb h fset sfmt dir q stride =>
    wordsOf 0x70 p (FY.bits { aux := trig.aux, imm := fset.toNat, h := h, sb := sb, sa := sa, sd := sd, fn := 3 }) (some (BitVec.ofNat 64 (sfmt.toNat * 2 ^ 56 + (if dir then 1 else 0) * 2 ^ 55 + q * 2 ^ 52 + stride.toNat * 2 ^ 0)))
  | .fgsync p sd mask =>
    wordsOf 0x70 p (FY.bits { aux := 0, imm := mask.toNat, h := 0, sb := 0, sa := 0, sd := sd, fn := 4 }) none
  | .vpop p sd vd q =>
    wordsOf 0x71 p (FY.bits { aux := 0, imm := q, h := 0, sb := 0, sa := vd, sd := sd, fn := 0 }) none
  | .vpush p sd va q =>
    wordsOf 0x71 p (FY.bits { aux := 0, imm := q, h := 0, sb := 0, sa := va, sd := sd, fn := 1 }) none
  | .copy p trig sd sa sb h fset sh sor =>
    wordsOf 0x72 p (FY.bits { aux := trig.aux, imm := fset.toNat, h := h, sb := sb, sa := sa, sd := sd, fn := 0 }) (some (BitVec.ofNat 64 (sh * 2 ^ 56 + sor * 2 ^ 50)))
  | .copy2d p trig sd sa sb h fset sh sor =>
    wordsOf 0x72 p (FY.bits { aux := trig.aux, imm := fset.toNat, h := h, sb := sb, sa := sa, sd := sd, fn := 1 }) (some (BitVec.ofNat 64 (sh * 2 ^ 56 + sor * 2 ^ 50)))
  | .hsrd p trig sa vd h =>
    wordsOf 0x73 p (FY.bits { aux := trig.aux, imm := 0, h := h, sb := vd, sa := sa, sd := 0, fn := 0 }) none
  | .hswr p sa sb h sh sor =>
    wordsOf 0x73 p (FY.bits { aux := 0, imm := 0, h := h, sb := sb, sa := sa, sd := 0, fn := 1 }) (some (BitVec.ofNat 64 (sh * 2 ^ 56 + sor * 2 ^ 50)))
  | .spst p sa va h =>
    wordsOf 0x74 p (FY.bits { aux := 0, imm := 0, h := h, sb := va, sa := sa, sd := 0, fn := 0 }) none
  | .spld p sa vd h =>
    wordsOf 0x74 p (FY.bits { aux := 0, imm := 0, h := h, sb := vd, sa := sa, sd := 0, fn := 1 }) none
  | .contract p trig sa h fset =>
    wordsOf 0x74 p (FY.bits { aux := trig.aux, imm := fset.toNat, h := h, sb := 0, sa := sa, sd := 0, fn := 2 }) none
  | .kvseqNew p sd sa sb sc h tag brow bmaxl =>
    wordsOf 0x78 p (FK.bits { aux := 0, mode := 0, tag := tag, h := h, sc := sc, sb := sb, sa := sa, sd := sd, fn := 0 }) (some (BitVec.ofNat 64 (brow * 2 ^ 48 + bmaxl * 2 ^ 32)))
  | .kvseqEnd p sd sa h =>
    wordsOf 0x78 p (FK.bits { aux := 1, mode := 0, tag := 0, h := h, sc := 0, sb := 0, sa := sa, sd := sd, fn := 0 }) none
  | .kvseqSeal p sd sa h =>
    wordsOf 0x78 p (FK.bits { aux := 2, mode := 0, tag := 0, h := h, sc := 0, sb := 0, sa := sa, sd := sd, fn := 0 }) none
  | .sptag p sa h tag =>
    wordsOf 0x78 p (FK.bits { aux := 0, mode := 0, tag := tag, h := h, sc := 0, sb := 0, sa := sa, sd := 0, fn := 1 }) none
  | .kvapp p sd sa sc h sh sor =>
    wordsOf 0x78 p (FK.bits { aux := 0, mode := 0, tag := 0, h := h, sc := sc, sb := 0, sa := sa, sd := sd, fn := 2 }) (some (BitVec.ofNat 64 (sh * 2 ^ 56 + sor * 2 ^ 50)))
  | .kvlook p sd sa sb h =>
    wordsOf 0x78 p (FK.bits { aux := 0, mode := 0, tag := 0, h := h, sc := 0, sb := sb, sa := sa, sd := sd, fn := 3 }) none
  | .kvlookLd p vd sd sa sb h =>
    wordsOf 0x78 p (FK.bits { aux := (vd + 32), mode := 0, tag := 0, h := h, sc := 0, sb := sb, sa := sa, sd := sd, fn := 3 }) none
  | .kvlookPf p sd sa sb h =>
    wordsOf 0x78 p (FK.bits { aux := 64, mode := 0, tag := 0, h := h, sc := 0, sb := sb, sa := sa, sd := sd, fn := 3 }) none
  | .kvfree p sd sa sb sc h =>
    wordsOf 0x78 p (FK.bits { aux := 0, mode := 0, tag := 0, h := h, sc := sc, sb := sb, sa := sa, sd := sd, fn := 4 }) none
  | .spretHole p sd sa h tag =>
    wordsOf 0x78 p (FK.bits { aux := 0, mode := 0, tag := tag, h := h, sc := 0, sb := 0, sa := sa, sd := sd, fn := 5 }) none
  | .spretClose p sd sa h tag =>
    wordsOf 0x78 p (FK.bits { aux := 0, mode := 1, tag := tag, h := h, sc := 0, sb := 0, sa := sa, sd := sd, fn := 5 }) none
  | .bmreord p sd sa sb sc h =>
    wordsOf 0x79 p (FK.bits { aux := 0, mode := 0, tag := 0, h := h, sc := sc, sb := sb, sa := sa, sd := sd, fn := 0 }) none
  | .pfxfind p sd sa sb h =>
    wordsOf 0x79 p (FK.bits { aux := 0, mode := 0, tag := 0, h := h, sc := 0, sb := sb, sa := sa, sd := sd, fn := 1 }) none
  | .pfxfindDrop p sd sb h =>
    wordsOf 0x79 p (FK.bits { aux := 1, mode := 0, tag := 0, h := h, sc := 0, sb := sb, sa := 0, sd := sd, fn := 1 }) none
  | .pfxins p sd sa sb sc h =>
    wordsOf 0x79 p (FK.bits { aux := 0, mode := 0, tag := 0, h := h, sc := sc, sb := sb, sa := sa, sd := sd, fn := 2 }) none
  | .kvpin p sd sb h =>
    wordsOf 0x7A p (FK.bits { aux := 0, mode := 0, tag := 0, h := h, sc := 0, sb := sb, sa := 0, sd := sd, fn := 0 }) none
  | .kvunpin p sd sb h =>
    wordsOf 0x7A p (FK.bits { aux := 0, mode := 0, tag := 0, h := h, sc := 0, sb := sb, sa := 0, sd := sd, fn := 1 }) none
  | .kvpull p trig sd sa sb h fset =>
    wordsOf 0x7A p (FK.bits { aux := 0, mode := 0, tag := 0, h := h, sc := 0, sb := sb, sa := sa, sd := sd, fn := 2 }) (some (BitVec.ofNat 64 (trig.tag * 2 ^ 16 + trig.termField * 2 ^ 19 + trig.armBit * 2 ^ 23 + fset.toNat * 2 ^ 0)))
  | .kvevict p trig sd sb h fset =>
    wordsOf 0x7A p (FK.bits { aux := 0, mode := 0, tag := 0, h := h, sc := 0, sb := sb, sa := 0, sd := sd, fn := 3 }) (some (BitVec.ofNat 64 (trig.tag * 2 ^ 16 + trig.termField * 2 ^ 19 + trig.armBit * 2 ^ 23 + fset.toNat * 2 ^ 0)))
  | .attn p trig sd sa h =>
    wordsOf 0x7B p (FK.bits { aux := trig.aux, mode := 0, tag := 0, h := h, sc := 0, sb := 0, sa := sa, sd := sd, fn := 0 }) none
  | .illegalOpcode w x => w :: x.toList
  | .scalarLoadReturn _ => []
  | .storePerform _ _ => []
  | .sleeptilWake _ => []
  | .waggleTermFire _ _ => []
  | .vectorAccessComplete _ _ => []
  | .mxQueueOp _ => []
  | .mxKStep _ => []
  | .foragerAccess _ => []
  | .jobComplete _ => []
  | .engineRetry _ => []
  | .kvappCommit _ => []
  | .kvEvictComplete _ => []
  | .kvPullComplete _ => []
  | .cardFetch _ _ => []
  | .draw _ _ => []
  | .combClear _ => []
  | .launchEnd _ _ => []
  | .taskSwap _ => []
  | .taskRestore _ _ _ => []
  | .partitionSaved _ => []
  | .partitionRestored _ => []
  | .noticeWrite _ => []
  | .sequencerPass _ => []
  | .countTreeSum _ => []
  | .rowExchange _ => []
  | .modeSwitch _ _ => []
  | .leaseExpire _ => []
  | .instructionPageFault _ _ => []
  | .stageEpoch => []
  | .afrUpdate => []
  | .clockStepChange => []
  | .refreshStart => []
  | .refreshEnd => []
  | .psctlSave _ => []
  | .psctlRestore _ => []
  | .cfglen _ _ => []
  | .pcreate _ => []
  | .pdestroy _ => []
  | .psave _ => []
  | .prestore _ => []
  | .qsup _ => []
  | .peerwin _ => []
  | .attest _ => []
  | .checkpoint _ => []
  | .cfgnext _ => []
  | .lkill _ => []
  | .unknownCommand _ _ => []
  | .mailboxComplete => []
  | .version _ _ _ => []
  | .barevt _ _ _ _ _ _ => []
  | .barrsp _ _ _ => []
  | .barrspTimeout _ => []
  | .lstart _ _ _ => []
  | .linkUp _ => []
  | .completionTimeout _ => []
  | .linkDown _ => []
  | .ideCheckFail _ => []
  | .inboundRead _ _ _ => []
  | .inboundWrite _ _ _ => []
  | .inboundAtomic _ _ _ _ _ _ => []
  | .readySet _ => []
  | .functionFail _ => []
  | .thermalHold _ => []
  | .thermalReset => []
  | .deviceReset => []
  | .ideRekey _ => []
  | .unknownVendorMessage _ _ => []
  | .cacheWriteBack _ _ => []
  | .hiveCachePrefetch _ _ => []
  | .barRegisterWrite _ _ _ => []

end Sys2Proof
end

