-- ==== Sys2Proof/Machine/Num.lean ====
section
/-! DEFINITION. Element formats (R85 to R88), exact values, rounding (R116 to R121) and conversions (R124). -/

namespace Sys2Proof.Machine

/-- How a floating-point format treats its top encodings (R86, R87). -/
inductive FpKind where
  | ieee | e4m3 | e2m1
deriving DecidableEq, Repr

/-- A floating-point format: exponent bits, fraction bits, bias, kind (R86). -/
structure Fp where
  ebits : Nat
  fbits : Nat
  bias : Nat
  kind : FpKind
deriving DecidableEq, Repr

/-- FP32 (R86). -/
def fp32 : Fp := ⟨8, 23, 127, .ieee⟩
/-- BF16 (R86). -/
def bf16 : Fp := ⟨8, 7, 127, .ieee⟩
/-- FP16 (R86). -/
def fp16 : Fp := ⟨5, 10, 15, .ieee⟩
/-- E4M3 (R86, R87). -/
def e4m3 : Fp := ⟨4, 3, 7, .e4m3⟩
/-- E5M2 (R86). -/
def e5m2 : Fp := ⟨5, 2, 15, .ieee⟩
/-- E2M1 (R86, R87). -/
def e2m1 : Fp := ⟨2, 1, 1, .e2m1⟩

/-- Width of a floating-point format. -/
def Fp.width (f : Fp) : Nat := 1 + f.ebits + f.fbits

/-- The element formats of R85. -/
inductive Fmt where
  | none | bit
  | fp (f : Fp)
  | bps | bpz
  | sint (n : Nat)
  | uint (n : Nat)
deriving DecidableEq, Repr

/-- The format of a code; nothing for a Reserved code (R85). -/
def Fmt.of (c : Nat) : Option Fmt :=
  if c == 0x00 then some .none
  else if c == 0x01 then some .bit
  else if c == 0x20 then some (.fp fp32)
  else if c == 0x21 then some (.fp bf16)
  else if c == 0x22 then some (.fp fp16)
  else if c == 0x23 then some (.fp e4m3)
  else if c == 0x24 then some (.fp e5m2)
  else if c == 0x27 then some (.fp e2m1)
  else if c == 0x30 then some .bps
  else if c == 0x31 then some .bpz
  else if 0x40 ≤ c ∧ c ≤ 0x7F then some (.sint (c - 0x3F))
  else if 0x80 ≤ c ∧ c ≤ 0xBF then some (.uint (c - 0x7F))
  else Option.none

/-- The code of a format (R85). -/
def Fmt.code : Fmt → Nat
  | .none => 0x00
  | .bit => 0x01
  | .fp f => if f = fp32 then 0x20 else if f = bf16 then 0x21 else if f = fp16 then 0x22 else if f = e4m3 then 0x23
      else if f = e5m2 then 0x24 else 0x27
  | .bps => 0x30
  | .bpz => 0x31
  | .sint n => 0x3F + n
  | .uint n => 0x7F + n

/-- Width in columns (R85). -/
def Fmt.width : Fmt → Nat
  | .none => 0
  | .bit => 1
  | .fp f => f.width
  | .bps | .bpz => 8
  | .sint n | .uint n => n

/-- The integer formats of R85: SINTn and UINTn. -/
def Fmt.isInt : Fmt → Bool
  | .sint _ | .uint _ => true
  | _ => false

/-- A floating-point format. -/
def Fmt.isFp : Fmt → Bool
  | .fp _ => true
  | _ => false

/-- A bit-plane format. -/
def Fmt.isPlane : Fmt → Bool
  | .bps | .bpz => true
  | _ => false

/-- Bits of the container that holds an element in memory: 1, 2 or 4 bits packed, else 8, 16, 32 or 64 (R79). -/
def Fmt.container (f : Fmt) : Nat :=
  let w := f.width
  if w = 0 then 8 else if w ≤ 1 then 1 else if w ≤ 2 then 2 else if w ≤ 4 then (if w = 3 then 8 else 4) else if w ≤ 8 then 8
  else if w ≤ 16 then 16 else if w ≤ 32 then 32 else 64

/-- `x` read as a `w`-bit two's-complement number. -/
def toSigned (w x : Nat) : Int := if w = 0 then 0 else if 2 ^ (w - 1) ≤ x % 2 ^ w then (x % 2 ^ w : Int) - 2 ^ w else (x % 2 ^ w : Int)

/-- The low `w` bits of an integer in two's complement. -/
def ofInt (w : Nat) (x : Int) : Nat := (x % (2 ^ w : Int)).toNat

/-- Flags as the bits of fflags (R130). -/
abbrev Flags := BitVec 5
/-- Invalid operation. -/
def NV : Flags := 16
/-- Divide by zero. -/
def DZ : Flags := 8
/-- Overflow, which sets inexact too. -/
def OF : Flags := 5
/-- Underflow, which sets inexact too. -/
def UF : Flags := 3
/-- Inexact. -/
def NX : Flags := 1

/-- Bit length of a number: 0 for 0. -/
def bitLen (n : Nat) : Nat := if n = 0 then 0 else n.log2 + 1

/-- An exact value: a NaN (signalling or not), an infinity, or `±(m + t) * 2^e`, where `t` is 0, or some number strictly
between 0 and 1 when `sticky` holds. Zero keeps its sign. -/
inductive Val where
  | nan (signalling : Bool)
  | inf (neg : Bool)
  | fin (neg : Bool) (m : Nat) (e : Int) (sticky : Bool)
deriving DecidableEq, Repr

/-- An exact integer. -/
def Val.ofInt (x : Int) : Val := .fin (decide (x < 0)) x.natAbs 0 false

/-- The exact value of an encoding (R86, R87). -/
def Fp.val (f : Fp) (b : Nat) : Val :=
  let frac := fld b 0 f.fbits
  let ex := fld b f.fbits f.ebits
  let neg := bitOf b (f.fbits + f.ebits)
  let top := 2 ^ f.ebits - 1
  if f.kind = .ieee ∧ ex = top then
    if frac = 0 then .inf neg else .nan (!bitOf frac (f.fbits - 1))
  else if f.kind = .e4m3 ∧ ex = 15 ∧ frac = 7 then .nan false
  else if ex = 0 then .fin neg frac (1 - (f.bias : Int) - f.fbits) false
  else .fin neg (2 ^ f.fbits + frac) ((ex : Int) - f.bias - f.fbits) false

/-- The canonical NaN; +0 in E2M1, which has none (R86, R87). -/
def Fp.canon (f : Fp) : Nat :=
  match f.kind with
  | .ieee => (2 ^ f.ebits - 1) * 2 ^ f.fbits + 2 ^ (f.fbits - 1)
  | .e4m3 => 0x7F
  | .e2m1 => 0

/-- An infinity; the largest magnitude in a format without one. -/
def Fp.signed (f : Fp) (neg : Bool) (mag : Nat) : Nat := mag + if neg then 2 ^ (f.fbits + f.ebits) else 0

/-- The encoding, without sign, of the largest finite number (R86). -/
def Fp.maxMag (f : Fp) : Nat :=
  match f.kind with
  | .ieee => (2 ^ f.ebits - 1) * 2 ^ f.fbits - 1
  | .e4m3 => 0x7E
  | .e2m1 => 7

/-- The encoding, without sign, of infinity (R86). -/
def Fp.infMag (f : Fp) : Nat := (2 ^ f.ebits - 1) * 2 ^ f.fbits

/-- Whether a magnitude between `kept` and `kept + 1` rounds away from zero: `rem` of `2^k` parts remain, and more when
sticky (R116). -/
def roundsAway (rm : Rm) (neg : Bool) (kept rem k : Nat) (sticky : Bool) : Bool :=
  let inexact := decide (rem ≠ 0) || sticky
  match rm with
  | .rne => if k = 0 then false else
      decide (2 ^ (k - 1) < rem) || (rem == 2 ^ (k - 1) && (sticky || kept % 2 == 1))
  | .rtz => false
  | .rup => inexact && !neg
  | .rdn => inexact && neg
  | .rto => false

/-- `(m + t) * 2^e` in units of `2^q`, rounded to an integer, and whether it was inexact. -/
def roundAt (rm : Rm) (neg : Bool) (m : Nat) (e q : Int) (sticky : Bool) : Nat × Bool :=
  if q ≤ e then
    let kept := m * 2 ^ (e - q).toNat
    (if roundsAway rm neg kept 0 0 sticky then kept + 1
     else if rm = .rto ∧ sticky then kept / 2 * 2 + 1 else kept, sticky)
  else
    let k := (q - e).toNat
    let kept := m / 2 ^ k
    let rem := m % 2 ^ k
    let inexact := decide (rem ≠ 0) || sticky
    (if roundsAway rm neg kept rem k sticky then kept + 1
     else if rm = .rto ∧ inexact then kept / 2 * 2 + 1 else kept, inexact)

/-- Rounds an exact value once into a format: its encoding and flags (R117 to R119). -/
def Fp.round (f : Fp) (rm : Rm) (v : Val) : Nat × Flags :=
  match v with
  | .nan s => (f.canon, if s || f.kind = .e2m1 then NV else 0)
  | .inf neg =>
    match f.kind with
    | .ieee => (f.signed neg f.infMag, 0)
    | .e4m3 => (f.canon, NV)
    | .e2m1 => (f.signed neg f.maxMag, NV)
  | .fin neg m e sticky =>
    if m = 0 ∧ ¬sticky then (f.signed neg 0, 0)
    else
      let top : Int := e + (bitLen m : Int) - 1
      let emin : Int := 1 - f.bias
      let q0 := top - f.fbits
      let q := max q0 (emin - f.fbits)
      let (n, inexact) := roundAt rm neg m e q sticky
      let n0 := (roundAt rm neg m e q0 sticky).1
      let tiny := decide ((bitLen n0 : Int) + q0 - 1 < emin)
      -- the magnitude n * 2^q against the largest finite one
      let big := decide (f.maxMag < (if n < 2 ^ f.fbits then n
        else if n = 2 ^ (f.fbits + 1) then ((q + 1 + f.fbits + f.bias).toNat) * 2 ^ f.fbits
        else ((q + f.fbits + f.bias).toNat) * 2 ^ f.fbits + (n - 2 ^ f.fbits)))
      if big then
        let toInf := match rm with
          | .rne => true
          | .rup => !neg
          | .rdn => neg
          | _ => false
        match f.kind with
        | .ieee => (f.signed neg (if toInf then f.infMag else f.maxMag), OF)
        | .e4m3 => (if toInf then f.canon else f.signed neg f.maxMag, OF)
        | .e2m1 => (f.signed neg f.maxMag, OF)
      else
        let mag := if n < 2 ^ f.fbits then n
          else if n = 2 ^ (f.fbits + 1) then ((q + 1 + f.fbits + f.bias).toNat) * 2 ^ f.fbits
          else ((q + f.fbits + f.bias).toNat) * 2 ^ f.fbits + (n - 2 ^ f.fbits)
        (f.signed neg mag, if inexact then (if tiny then UF else NX) else 0)

/-- The sign of a value; false for a NaN. -/
def Val.neg : Val → Bool
  | .nan _ => false
  | .inf n => n
  | .fin n _ _ _ => n

/-- A NaN. -/
def Val.isNan : Val → Bool
  | .nan _ => true
  | _ => false

/-- A signalling NaN. -/
def Val.isSnan : Val → Bool
  | .nan s => s
  | _ => false

/-- A finite zero. -/
def Val.isZero : Val → Bool
  | .fin _ m _ st => m == 0 && !st
  | _ => false

/-- The value with the other sign. -/
def Val.negate : Val → Val
  | .nan s => .nan s
  | .inf n => .inf (!n)
  | .fin n m e st => .fin (!n) m e st

/-- The magnitude. -/
def Val.abs : Val → Val
  | .nan s => .nan s
  | .inf _ => .inf false
  | .fin _ m e st => .fin false m e st

/-- A finite value as an integer in units of `2^e0`, for `e0` at most its exponent. -/
def scaledTo (neg : Bool) (m : Nat) (e e0 : Int) : Int :=
  let x : Int := m * 2 ^ (e - e0).toNat
  if neg then -x else x

/-- NaN of an operation with a NaN source: signalling if some source is (R120). -/
def nanOf (a b : Val) : Val := .nan (a.isSnan || b.isSnan)

/-- Exact sum. An undefined sum is a signalling NaN here, so that rounding it raises invalid (R120, R121). -/
def Val.add (rm : Rm) (a b : Val) : Val :=
  match a, b with
  | .nan _, _ => nanOf a b
  | _, .nan _ => nanOf a b
  | .inf x, .inf y => if x = y then .inf x else .nan true
  | .inf x, _ => .inf x
  | _, .inf y => .inf y
  | .fin na ma ea sa, .fin nb mb eb sb =>
    let e0 := min ea eb
    let x := scaledTo na ma ea e0 + scaledTo nb mb eb e0
    if x = 0 then .fin (if na = nb then na else rm == .rdn) 0 0 (sa || sb)
    else .fin (decide (x < 0)) x.natAbs e0 (sa || sb)

/-- Exact product (R120). -/
def Val.mul (a b : Val) : Val :=
  match a, b with
  | .nan _, _ => nanOf a b
  | _, .nan _ => nanOf a b
  | .inf x, _ => if b.isZero then .nan true else .inf (x != b.neg)
  | _, .inf y => if a.isZero then .nan true else .inf (a.neg != y)
  | .fin na ma ea sa, .fin nb mb eb sb => .fin (na != nb) (ma * mb) (ea + eb) (sa || sb)

/-- Quotient, with a sticky remainder. A zero divisor of a finite nonzero value gives an infinity; the caller raises
divide-by-zero (R120). -/
def Val.div (a b : Val) : Val :=
  match a, b with
  | .nan _, _ => nanOf a b
  | _, .nan _ => nanOf a b
  | .inf x, .inf _ => if x then .nan true else .nan true
  | .inf x, .fin nb _ _ _ => .inf (x != nb)
  | .fin na _ _ _, .inf y => .fin (na != y) 0 0 false
  | .fin na ma ea _, .fin nb mb eb _ =>
    if mb = 0 then (if ma = 0 then .nan true else .inf (na != nb))
    else if ma = 0 then .fin (na != nb) 0 0 false
    else
      let k := 64 + bitLen mb
      let n := ma * 2 ^ k
      .fin (na != nb) (n / mb) (ea - eb - k) (decide (n % mb ≠ 0))

/-- Integer square root, one bit at a time from bit `fuel`. -/
def isqrt (n : Nat) : Nat → Nat → Nat
  | 0, r => if (r + 1) * (r + 1) ≤ n then r + 1 else r
  | k + 1, r => isqrt n k (if (r + 2 ^ (k + 1)) * (r + 2 ^ (k + 1)) ≤ n then r + 2 ^ (k + 1) else r)

/-- `1 / √x` (R120): infinite for a zero; undefined for a negative nonzero value. -/
def Val.rsqrt (a : Val) : Val :=
  match a with
  | .nan s => .nan s
  | .inf n => if n then .nan true else .fin false 0 0 false
  | .fin n m e _ =>
    if m = 0 then .inf n
    else if n then .nan true
    else
      let m' := if e % 2 = 0 then m else m * 2
      let e' := if e % 2 = 0 then e else e - 1
      let k := 64 + bitLen m'
      let r := isqrt (2 ^ (2 * k) / m') (k + 1) 0
      .fin false r (-(k : Int) - e' / 2) (decide (r * r * m' ≠ 2 ^ (2 * k)))

/-- Terms of the exponential series of `x / 2^p`, in units of `2^-p`. -/
def expSeries (x p : Nat) : Nat → Nat → Nat → Nat
  | 0, _, acc => acc
  | k + 1, term, acc =>
    let i := 64 - k
    let t := term * x / 2 ^ p / i
    expSeries x p k t (acc + t)

/-- Squares `y / 2^p` repeatedly, in units of `2^-p`. -/
def squareRep (p : Nat) : Nat → Nat → Nat
  | 0, y => y
  | k + 1, y => squareRep p k (y * y / 2 ^ p)

/-- `e^x` (R117): to about 300 bits, and never exact for a nonzero `x` (DEDUCED, log 21). -/
def Val.exp (a : Val) : Val :=
  match a with
  | .nan s => .nan s
  | .inf n => if n then .fin false 0 0 false else .inf false
  | .fin n m e _ =>
    if m = 0 then .fin false 1 0 false
    else
      let top := e + (bitLen m : Int)
      if 9 < top then (if n then .fin false 1 (-2000) true else .fin false 1 2000 true)
      else if top < -200 then (if n then .fin false (2 ^ 256 - 1) (-256) true else .fin false (2 ^ 256) (-256) true)
      else
        let p : Nat := 1000
        -- x / 2^16 in units of 2^-p, then the series, then 16 squarings
        let x := if 0 ≤ e + (p : Int) - 16 then m * 2 ^ (e + (p : Int) - 16).toNat else m / 2 ^ (16 - (p : Int) - e).toNat
        let y := squareRep p 16 (expSeries x p 64 (2 ^ p) (2 ^ p))
        if n then .fin false (2 ^ (2 * p) / y) (-(p : Int)) true else .fin false y (-(p : Int)) true

/-- Compares two values that are not NaN; zeros are equal. -/
def Val.cmp (a b : Val) : Ordering :=
  match a, b with
  | .inf x, .inf y => if x = y then .eq else if x then .lt else .gt
  | .inf x, _ => if x then .lt else .gt
  | _, .inf y => if y then .gt else .lt
  | .fin na ma ea _, .fin nb mb eb _ =>
    let e0 := min ea eb
    compare (scaledTo na ma ea e0) (scaledTo nb mb eb e0)
  | _, _ => .eq

/-- A finite value rounded to an integer, and whether it was inexact (R124); RTO sets the least significant bit of the magnitude
(DESIGN CHOICE, log 102). -/
def Val.toInt (rm : Rm) (a : Val) : Int × Bool :=
  match a with
  | .fin neg m e st =>
    let (n, inexact) := roundAt rm neg m e 0 st
    (if neg then -(n : Int) else n, inexact)
  | _ => (0, true)

/-- Least value of an integer format (R88). -/
def Fmt.lo : Fmt → Int
  | .sint n => -(2 ^ (n - 1) : Int)
  | .bps => -128
  | _ => 0

/-- Greatest value of an integer format (R88). -/
def Fmt.hi : Fmt → Int
  | .sint n => 2 ^ (n - 1) - 1
  | .bps => 127
  | .uint n => 2 ^ n - 1
  | .bpz => 255
  | _ => 1

/-- The bits of a bit-plane element read at PLANES p (R90). -/
def planesRead (planes x : Nat) : Nat := if planes = 0 then x % 256 else x % 256 / 2 ^ (8 - planes) * 2 ^ (8 - planes)

/-- The integer that an element of an integer, bit-plane or BIT format holds (R88, R90). -/
def Fmt.intVal (f : Fmt) (planes b : Nat) : Int :=
  match f with
  | .sint n => toSigned n b
  | .uint n => (b % 2 ^ n : Nat)
  | .bps => toSigned 8 (planesRead planes b)
  | .bpz => (planesRead planes b : Nat)
  | .bit => (b % 2 : Nat)
  | _ => 0

/-- The exact value of an element (R86, R88, R90). -/
def Fmt.val (f : Fmt) (planes b : Nat) : Val :=
  match f with
  | .fp g => g.val b
  | f => .ofInt (f.intVal planes b)

/-- Clamps an integer into a format: its bits, and whether it was out of range. -/
def Fmt.clamp (f : Fmt) (x : Int) : Nat × Bool :=
  if x < f.lo then (Machine.ofInt f.width f.lo, true)
  else if f.hi < x then (Machine.ofInt f.width f.hi, true)
  else (Machine.ofInt f.width x, false)

/-- Wraps or clamps an exact integer into a format (R122): bits and SATSEEN. -/
def Fmt.narrow (f : Fmt) (sat : Bool) (x : Int) : Nat × Bool :=
  if sat then f.clamp x else (Machine.ofInt f.width x, false)

/-- Converts a value that may be fractional into a format, by the rows of R124 for a floating-point source: bits, flags
and SATSEEN. Into BPS and BPZ it goes as into SINT8 and UINT8, with the flags of an integer target (DESIGN CHOICE, log 96). -/
def convertVal (t : Fmt) (rm : Rm) (v : Val) : Nat × Flags × Bool :=
  match t with
  | .fp g => let (b, fl) := g.round rm v; (b, fl, false)
  | .bit => (if v.isZero then 0 else 1, 0, false)
  | .none => (0, 0, false)
  | t =>
    match v with
    | .nan _ => (0, NV, false)
    | .inf neg => (Machine.ofInt t.width (if neg then t.lo else t.hi), NV, false)
    | v =>
      let (n, inexact) := v.toInt rm
      let (b, out) := t.clamp n
      (b, if out then NV else if inexact then NX else 0, false)

/-- Converts an element as VCVT does (R124): bits, flags and SATSEEN. A BIT of 1 into SINT1, which cannot hold it, clamps to 0 and sets
SATSEEN (DESIGN CHOICE, log 96). -/
def convert (src t : Fmt) (planes : Nat) (rm : Rm) (b : Nat) : Nat × Flags × Bool :=
  match src with
  | .fp g => convertVal t rm (g.val b)
  | src =>
    let x := src.intVal planes b
    match t with
    | .fp g => let (r, fl) := g.round rm (.ofInt x); (r, fl, false)
    | .bit => (if x = 0 then 0 else 1, 0, false)
    | .none => (0, 0, false)
    | t => let (r, sat) := t.clamp x; (r, 0, sat)

end Sys2Proof.Machine
end

