-- ==== Sys2Proof/Machine/Caps.lean ====
section
/-! DEFINITION. Caps (R80 to R83), their check (R82), shapes (R103), and the formats that the comb instructions infer
(R102 to R107). -/

namespace Sys2Proof.Machine

/-- One step of the CRC of R81. -/
def crcBit (c : Nat) : Nat := if 128 ≤ c then (c * 2 % 256) ^^^ 0x07 else c * 2 % 256

/-- One byte of the CRC of R81. -/
def crcByte (c b : Nat) : Nat := crcBit (crcBit (crcBit (crcBit (crcBit (crcBit (crcBit (crcBit (c ^^^ b))))))))

/-- CRC-8 with polynomial 0x07 and initial value 0xFF (R81). -/
def crc8 (bs : List Nat) : Nat := bs.foldl crcByte 0xFF

/-- The `n` bytes of a number, least significant first (R5). -/
def bytesLE : Nat → Nat → List Nat
  | 0, _ => []
  | n + 1, x => x % 256 :: bytesLE n (x / 256)

/-- The number whose bytes these are, least significant first. -/
def ofBytesLE : List Nat → Nat
  | [] => 0
  | b :: bs => b + 256 * ofBytesLE bs

/-- A cap's fields (R80), CHK apart. -/
structure Cap where
  fmt : Nat
  planes : Nat
  scl : Nat
  spr : Nat
  poison : Bool
  discard : Bool
  satseen : Bool
  ro : Bool
  rank : Nat
  d0 : Nat
  d1 : Nat
  d2 : Nat
  d3 : Nat
  zp : Nat
  sclb : Nat
  sfmt : Nat
deriving DecidableEq, Repr

/-- The fields of 128 cap bits. -/
def Cap.of (c : BitVec 128) : Cap :=
  let n := c.toNat
  { fmt := fld n 0 8, planes := fld n 8 4, scl := fld n 12 4, spr := fld n 16 4, poison := bitOf n 20,
    discard := bitOf n 21, satseen := bitOf n 22, ro := bitOf n 23, rank := fld n 24 2, d0 := fld n 32 16,
    d1 := fld n 48 16, d2 := fld n 64 16, d3 := fld n 80 16, zp := fld n 96 8, sclb := fld n 104 8, sfmt := fld n 112 4 }

/-- A bit as a number. -/
def b2n (b : Bool) : Nat := if b then 1 else 0

/-- The low 120 bits of a cap, CAPV 1. -/
def Cap.body (c : Cap) : Nat :=
  c.fmt + c.planes * 2 ^ 8 + c.scl * 2 ^ 12 + c.spr * 2 ^ 16 + b2n c.poison * 2 ^ 20 + b2n c.discard * 2 ^ 21 +
    b2n c.satseen * 2 ^ 22 + b2n c.ro * 2 ^ 23 + c.rank * 2 ^ 24 + c.d0 * 2 ^ 32 + c.d1 * 2 ^ 48 + c.d2 * 2 ^ 64 +
    c.d3 * 2 ^ 80 + c.zp * 2 ^ 96 + c.sclb * 2 ^ 104 + c.sfmt * 2 ^ 112 + 2 ^ 116

/-- CHK of the low 120 bits (R81). -/
def capChk (body : Nat) : Nat := crc8 (bytesLE 15 body)

/-- The cap's bits with CHK computed, as the hardware writes them (R83). -/
def Cap.bits (c : Cap) : BitVec 128 := BitVec.ofNat 128 (c.body % 2 ^ 120 + capChk (c.body % 2 ^ 120) * 2 ^ 120)

/-- The reset cap of R80: FMT NONE, everything else zero, CAPV 1. -/
def Cap.blank : Cap :=
  { fmt := 0, planes := 0, scl := 0, spr := 0, poison := false, discard := false, satseen := false, ro := false, rank := 0,
    d0 := 0, d1 := 0, d2 := 0, d3 := 0, zp := 0, sclb := 0, sfmt := 0 }

/-- The element format; NONE when the code is Reserved. -/
def Cap.f (c : Cap) : Fmt := (Fmt.of c.fmt).getD .none

/-- Extent `k` (R103). -/
def Cap.ext (c : Cap) (k : Nat) : Nat := match k with
  | 0 => c.d0 + 1
  | 1 => c.d1 + 1
  | 2 => c.d2 + 1
  | _ => c.d3 + 1

/-- The shape (R103). -/
def Cap.shape (c : Cap) : List Nat := [c.ext 0, c.ext 1, c.ext 2, c.ext 3]

/-- Element count of the tile (R79). -/
def Cap.count (c : Cap) : Nat := c.ext 0 * c.ext 1 * c.ext 2 * c.ext 3

/-- All extents are 1 (R103). -/
def Cap.allOnes (c : Cap) : Bool := c.d0 == 0 && c.d1 == 0 && c.d2 == 0 && c.d3 == 0

/-- The zero point as a number: signed for SINT, unsigned for UINT (R88). -/
def Cap.zpVal (c : Cap) : Int := match c.f with
  | .sint _ => toSigned 8 c.zp
  | _ => c.zp

/-- The cap check (R82), CHK, CAPV and the RSV bits included. -/
def capPasses (c : BitVec 128) : Bool :=
  let n := c.toNat
  let k := Cap.of c
  let f := k.f
  let plain := f != .none && f != .bit && !f.isPlane
  fld n 120 8 == capChk (n % 2 ^ 120) && fld n 26 6 == 0 && fld n 116 4 == 1 &&
    (Fmt.of k.fmt).isSome && decide (k.scl ≤ 4) && decide (k.sfmt ≤ 2) && decide (k.spr ≤ 4) &&
    (decide (1 ≤ k.rank) || k.d1 == 0) && (decide (2 ≤ k.rank) || k.d2 == 0) && (decide (3 ≤ k.rank) || k.d3 == 0) &&
    (if f.isPlane then k.planes != 1 && decide (k.planes ≤ 8) else k.planes == 0) &&
    (k.zp == 0 || (f.isInt && decide (f.lo ≤ k.zpVal) && decide (k.zpVal ≤ f.hi))) &&
    (k.scl != 0 || (k.sfmt == 0 && k.sclb == 0)) && (k.scl == 4 || k.sclb == 0) && decide (k.sclb ≤ 15) &&
    (k.scl == 0 || plain) && (k.spr == 0 || plain) &&
    (!(k.spr == 2 || k.spr == 3) || k.ext 0 % 4 == 0) && (k.spr != 3 || k.ext 1 % 4 == 0) &&
    (f != .none || (k.scl == 0 && k.spr == 0 && k.zp == 0 && k.planes == 0))

/-- How an inference ends without a format (R104 to R106). -/
inductive CapErr where
  | mismatch      -- CAP.MISMATCH (0x100)
  | unsupported   -- CAP.UNSUPPORTED (0x101)
deriving DecidableEq, Repr

/-- An inference that ends in an error. -/
def failsWith {α : Type} (r : Except CapErr α) (e : CapErr) : Bool :=
  match r with
  | .error x => x == e
  | .ok _ => false

/-- The two-source arithmetic instructions whose inference R104 gives. -/
inductive Arith where
  | add | sub | mul | div | min | max
deriving DecidableEq, Repr

/-- The integer format that R104 infers from two integer formats. -/
def inferInt (mul wide : Bool) (a b : Fmt) : Fmt :=
  let ex := if wide && !mul then 1 else 0
  match a, b with
  | .sint n, .sint m => .sint (if mul && wide then n + m else max n m + ex)
  | .uint n, .uint m => .uint (if mul && wide then n + m else max n m + ex)
  | .uint n, .sint m => .sint (if mul && wide then n + m else max (n + 1) m + ex)
  | .sint m, .uint n => .sint (if mul && wide then n + m else max (n + 1) m + ex)
  | _, _ => .none

/-- The format inferred from two sources (R104): a pair in no row mismatches. -/
def infer2 (op : Arith) (wf : WF) (a b : Fmt) : Except CapErr Fmt :=
  match a, b with
  | .fp x, .fp y =>
    if x = y then (if wf = .plain then .ok (.fp x) else .error .unsupported)
    else if (x = fp32 ∧ (y = bf16 ∨ y = fp16)) ∨ (y = fp32 ∧ (x = bf16 ∨ x = fp16)) then
      (if wf = .plain then .ok (.fp fp32) else .error .unsupported)
    else .error .mismatch
  | .fp _, _ => .error .mismatch
  | _, .fp _ => .error .mismatch
  | a, b =>
    let f := inferInt (op = .mul) (wf = .wide) a b
    if !(a.isInt && b.isInt) then .error .mismatch else if 64 < f.width then .error .unsupported else .ok f

/-- Whether VFMA takes `a`, `b` into `d` (R105). -/
def fmaPair (a b d : Fp) : Bool :=
  (a == b && a == d) || (a == bf16 && b == bf16 && d == fp32) || (a == fp16 && b == fp16 && d == fp32) ||
    ((a == e4m3 || a == e5m2) && (b == e4m3 || b == e5m2) && (d == bf16 || d == fp16 || d == fp32)) ||
    (a == e2m1 && b == e2m1 && (d == bf16 || d == fp16 || d == fp32))

/-- VFMA and VMAC by their three formats (R105). -/
def inferFma (mac : Bool) (a b d : Fmt) : Except CapErr Unit :=
  match a, b, d with
  | .fp x, .fp y, .fp z => if !mac && fmaPair x y z then .ok () else .error .mismatch
  | a, b, d =>
    if mac && a.isInt && b.isInt && d.isInt then
      match a, b, d with
      | .uint n, .uint m, .uint k => if n + m ≤ k then .ok () else .error .unsupported
      | _, _, .sint k => if a.width + b.width ≤ k then .ok () else .error .unsupported
      | _, _, _ => .error .unsupported
    else .error .mismatch

/-- The inferred shape of two sources: the other's when one is all ones (R103). -/
def joinShape (a b : Cap) : Option Cap :=
  if a.shape = b.shape then some a
  else if a.allOnes then some b
  else if b.allOnes then some a
  else none

/-- The cap that an elementwise instruction infers: format, the shape of `sh`, ZP and PLANES as given, POISON and SATSEEN
ORed over the sources (R107). -/
def inferredCap (f : Fmt) (sh : Cap) (zp planes : Nat) (srcs : List Cap) : Cap :=
  { Cap.blank with
    fmt := f.code, planes := planes, zp := zp, rank := sh.rank, d0 := sh.d0, d1 := sh.d1, d2 := sh.d2, d3 := sh.d3,
    poison := srcs.any (·.poison), satseen := srcs.any (·.satseen) }

end Sys2Proof.Machine
end

