-- ==== Sys2Proof/Config.lean ====
section
/-! DEFINITION. What the device as shipped fixes, and the free values: constants without a body, of which nothing can be
proved. A free value stands where the spec gives an effect and no value. -/

namespace Sys2Proof.Config

/-- Combs of a hive (R21). -/
def combsPerHive : Nat := 64
/-- Cells of a comb (R14). -/
def cellsPerComb : Nat := 4096
/-- Data columns of a cell (R18). -/
def columns : Nat := 256
/-- Hives of the package (R14). -/
def hives : Nat := 512
/-- First physical address past HBM (R150). -/
def hbmEnd : Nat := 0x77_3594_0000
/-- First physical address of host memory (R150). -/
def hostBase : Nat := 0x1_0000_0000_0000
/-- First physical address of pooled memory (R150). -/
def poolBase : Nat := 0x2_0000_0000_0000
/-- First physical address past pooled memory (R150). -/
def poolEnd : Nat := 0x3_0000_0000_0000
/-- Bytes of the honey store (R30, R137). -/
def honeyEnd : Nat := 2 ^ 34
/-- Cycles of a refresh window of one bank group, and of the interval between two groups (R30). -/
def refreshLen : Nat := 384
/-- Interval between the refresh windows of consecutive bank groups (R30). -/
def refreshStep : Nat := 1536
/-- Sets and ways of a hive cache: 1 MiB of 128-byte lines (R21). -/
def hiveSets : Nat := 512
/-- Ways of a hive cache (R21). -/
def hiveWays : Nat := 16
/-- Sets of an instruction cache: 64 KiB of 128-byte lines (R21). -/
def icSets : Nat := 128
/-- Ways of an instruction cache (R21). -/
def icWays : Nat := 4
/-- Lines of a die cache: 256 MiB of 128-byte lines (R16). -/
def dieCacheLines : Nat := 2097152
/-- Entries of a deferral queue (R66). -/
def deferMax : Nat := 262144
/-- Incomplete jobs that the footprint scheduler of a stack tracks (R170). -/
def jobsPerStack : Nat := 1024
/-- Notices that the ring holds (R196). -/
def noticeRing : Nat := 4096
/-- First pass-table entry that PTLOAD may write (R284). -/
def passUser : Nat := 2048
/-- Pass-table entries (R284). -/
def passEntries : Nat := 4096
/-- Control word of a pass-table entry after device reset (R284). -/
def passReset : Word := 0x0400_0000_0000_0000
/-- Lottery state after reset (R178). -/
def lseedReset : BitVec 32 := 0x1B87_3593

/-- Free value: one column (bit `c` for cell `c`) that a standard sequence leaves, or that a restore leaves outside LIVE
(R277, R190). -/
opaque freeColumn : Nat → Nat
/-- Free value: the extent that a cap of rank 1 gets for more elements than its field can name (R321) (DESIGN CHOICE, log 80). -/
opaque freeExtent : Nat → BitVec 16
/-- Free value: 64 bits, where one unspecified value is left (R200, R356, R199). -/
opaque freeWord : Nat → Word
/-- Free value: the pass word of a standard pass-table entry (R284). -/
opaque stdPassWord : Nat → Word
/-- Free value: the control word of a standard pass-table entry (R284) (DESIGN CHOICE, log 10). -/
opaque stdPassControl : Nat → Word
/-- Free value: what the save of a context writes into its frame, as offsets in the frame and bytes; the spec gives the frame
no layout (R188 to R190). -/
opaque contextBytes : Nat → List (Nat × Byte)
/-- The 16-byte device identity: derived from the die's physical fingerprint, which the spec gives no value (R424). -/
opaque devid : BitVec 128
/-- The keeper's verdict on a configuration image: 1 to 4 (R423). The check is cryptographic, over a digest in keeper ROM
that the spec gives no value (DESIGN CHOICE, log 8). -/
opaque imageVerdict : List Byte → Nat
/-- The power limit in watts that an applied image sets; the layout of the image is not given (R423, R427). -/
opaque imagePowerLimit : List Byte → Nat
/-- The role of a peer port that an applied image sets: whether it is an endpoint (R423). -/
opaque imageEndpoint : List Byte → Nat → Bool
/-- The length in 8-byte words that the header of a vendor-defined message of a code states; the spec gives most payloads no widths
(R419). -/
opaque vdmLength : Nat → BitVec 8
/-- VER of a capability entry of a TYPE (R421). -/
opaque capVersion : Nat → BitVec 8
/-- What follows DEVID in the Identity entry: the family, part and stepping codes, the vendor identifier and the versions (R421). -/
opaque identity : List Byte
/-- The bytes that hold the contents of a Port, Memory or Power entry of the capability list; the spec gives them no layout (R421). -/
opaque capContents : Nat → List Nat → List Byte
/-- The signed attestation report over a nonce and the digests (R424): its bytes. -/
opaque attestation : List Byte → List Byte → List Byte

end Sys2Proof.Config
end

