-- ==== Sys2Proof/Machine/State.lean ====
section
/-! DEFINITION. The state of the machine as plain data, its state after device reset, and the reasons a step can stop. -/

namespace Sys2Proof.Machine

/-- Why a step stops without a next state. -/
inductive Fault where
  /-- Raised by every instruction word when no task is current: the machine runs instructions only for a task in a VLC
  (R24). Safe: no state of the device executes a word there. -/
  | noTask
deriving DecidableEq, Repr

/-- Why an instruction has no meaning. -/
inductive Refusal where
  /-- Raised by the dispatch for an instruction whose meaning is not written. Safe. -/
  | notModelled (mnemonic : String)
deriving DecidableEq, Repr

/-- What an access does (R153); `look` is the read of bytes by which a store finds whether its target may be written: check 6 of R134
comes before the leaf is asked. -/
inductive Acc where
  | read | write | atomic | fetch | look
deriving DecidableEq, Repr

/-- The spaces a handle can name (R136). -/
inductive Space where
  | hbm | honey | comblin | pool | host
deriving DecidableEq, Repr

/-- What a cache line is tagged by: virtual address and ASID, or a G mapping, or a honey-store address (R146). -/
inductive LineKey where
  | virt (glob : Bool) (asid line : Nat)
  | honey (line : Nat)
deriving DecidableEq, Repr

/-- The permission, speculation and policy bits of a leaf entry (R150), which a line keeps (R146). -/
structure LeafBits where
  r : Bool
  w : Bool
  x : Bool
  ns : Bool
  cp : Nat
deriving DecidableEq, Repr

/-- A 128-byte cache line: its tag, its bytes, the dirty mask (bit `i` for byte `i`), the leaf's bits, the frame it was
filled from, the tasks that wrote its dirty bytes (R146, R256), and whether an acquire has made its clean bytes invalid (R163). -/
structure Line where
  key : LineKey
  bytes : List Byte
  dirty : Nat
  leaf : LeafBits
  frame : Nat
  writers : List Nat
  stale : Bool := false
deriving DecidableEq, Repr

/-- A TLB entry: ASID or G, the page's first virtual address and size, its frame and the leaf's bits (R149, R154). -/
structure TlbEntry where
  glob : Bool
  asid : Nat
  page : Nat
  size : Nat
  frame : Nat
  leaf : LeafBits
deriving DecidableEq, Repr

/-- A handle-table entry that passes check 1 of R134 (R132). -/
structure Handle where
  base : Nat
  bound : Nat
  space : Space
  r : Bool
  w : Bool
  x : Bool
  a : Bool
  policy : Nat
  bar : Bool
deriving DecidableEq, Repr

/-- A handle entry cached by a hive (R133). -/
structure HandleCopy where
  hive : Nat
  vf : Nat
  k : Nat
  entry : Handle
deriving DecidableEq, Repr

/-- A register descriptor and its share of the cap file (R272, R83); `discard` is the mark of VDISC (R110). -/
structure VReg where
  base : Nat
  width : Nat
  cap : BitVec 128
  discard : Bool
deriving DecidableEq, Repr

/-- A loop record: counter, start and end (R244). -/
structure LoopRec where
  lc : Nat
  start : BitVec 56
  stop : BitVec 56
deriving DecidableEq, Repr

/-- What a comb instruction captured at issue and holds at a pass boundary (R115, R186, R274, R324): the instruction and its
address, its passes, vl, strip, active cells, sfill, rngb, the scalar operands, the source caps by slot, the inferred cap,
a count-tree sum on its way with the register that takes it, the permutation and exchanges reached, the fault that a
vector load has to deliver, the columns it writes as they were at issue, the parity groups that it has raised, the scratch columns
that a save keeps (R276), and what its passes have found so far: threshold bits, running counts, the round and the banned
elements (R324); `loading` while it still reads its elements (R298). -/
structure Resume where
  instr : Instr
  pc : BitVec 56
  total : Nat
  stage : Nat
  vl : Nat
  strip : Nat
  active : Nat
  sfill : Word
  rngb : Word
  key : Word
  mask : Word
  caps : List (BitVec 128)
  result : BitVec 128
  sum : Option (Nat × Word)
  order : List Nat
  exchanges : Nat
  due : Option (Nat × Word)
  saved : List (Nat × Nat)
  failed : List Nat := []
  staged : List (Nat × Nat) := []
  work : List Nat := []
  loading : Bool := false
deriving DecidableEq, Repr

/-- An accumulator tile of a grant: word `j + 128 * i` of row `i`, column `j`, the words not listed being 0; its cap; the
words whose SECDED fails, and those with one wrong bit, which a read corrects (R335, R344, R356). -/
structure Tile where
  words : List (Nat × BitVec 32)
  cap : BitVec 128
  bad : List Nat
  weak : List Nat := []
deriving DecidableEq, Repr

/-- A tile in memory as resolved at issue (R77, R78): its handle and offset there, its cap, its parts, its metadata and, for
SPR 1, the presence bitmaps. -/
structure TileRef where
  h : Handle
  o : Nat
  cap : BitVec 128
  poff : Nat
  soff : Nat
  moff : Nat
  md : List Byte
  maps : List Nat
deriving DecidableEq, Repr

/-- Where an MXMAC takes B from: comb registers with their caps, or a honey-store tile (R342, R343). -/
inductive MacB where
  | comb (vb : Nat) (caps : List (BitVec 128))
  | honey (tile : TileRef)
deriving DecidableEq, Repr

/-- A queued MXMAC (R346 to R348): its tile, operands and caps as captured at issue, its range, the depth, whether the
accumulator is FP32, and the active cells and vl at issue. -/
structure MacOp where
  t : Nat
  va : Nat
  capsA : List (BitVec 128)
  b : MacB
  rm : Rm
  sat : Bool
  m : Nat
  n : Nat
  koff : Nat
  kcnt : Nat
  d : Nat
  fp : Bool
  active : Nat
  vl : Nat
deriving DecidableEq, Repr

/-- A queued MXDRAIN (R352, R353): `row` is the register of the row term and its cap at issue. -/
structure DrainOp where
  t : Nat
  va : Nat
  rm : Rm
  row : Option (Nat × BitVec 128)
  e0 : Nat
  m : Nat
  n : Nat
  tfmt : BitVec 8
  ozp : BitVec 8
  usep : Bool
  dclr : Bool
  active : Nat
deriving DecidableEq, Repr

/-- A queued CONTRACT (R380 to R382): its job, its flags, the extents of the letters, its operands with their letters, the
depth and whether the accumulator is FP32. -/
structure ContractOp where
  job : Nat
  acc : Bool
  sat : Bool
  rm : Rm
  t : Nat
  exts : List Nat
  a : TileRef
  b : TileRef
  c : TileRef
  la : List Nat
  lb : List Nat
  lc : List Nat
  d : Nat
  fp : Bool
  clamped : Bool := false
deriving DecidableEq, Repr

/-- A pool as its header describes it (R384): its handle, the header's address, its sizes, its tables' offsets and the cap
of its blocks. -/
structure KvPool where
  h : Handle
  addr : Nat
  lp : Nat
  phnd : Nat
  nblk : Nat
  tokb : Nat
  lbk : Nat
  lpb : Nat
  ldir : Nat
  ibto : Nat
  bkto : Nat
  datao : Nat
  pfxo : Nat
  diro : Nat
  bcap : BitVec 128
deriving DecidableEq, Repr

/-- A block of keys and values as ATTN resolved it at issue: the offset of its tile in the pool handle, the slot of its
first token, and its committed tokens (R409). -/
structure AttnBlock where
  off : Nat
  slot : Nat
  fill : Nat
deriving DecidableEq, Repr

/-- A queued ATTN (R408, R409). -/
structure AttnOp where
  causal : Bool
  topk : Option Nat
  head : Nat
  heads : Nat
  scale : Nat
  qslot : Nat
  pool : KvPool
  q : TileRef
  out : TileRef
  blocks : List AttnBlock
deriving DecidableEq, Repr

/-- What ATTN holds of a query row (R409): running m, L and o as FP32, and the kept keys, each with its block, its token and
its score. -/
structure AttnRow where
  m : Nat
  l : Nat
  o : List Nat
  kept : List (Nat × Nat × Nat)
deriving DecidableEq, Repr

/-- The operations of a matrix queue (R345, R382, R409). -/
inductive MxKind where
  | zero (t : Nat)
  | mac (o : MacOp)
  | ld (t : Nat) (tile : TileRef)
  | rd (t : Nat) (h : Handle) (off stepOff : Nat)
  | scl (h : Handle) (off : Nat)
  | drain (o : DrainOp)
  | contract (o : ContractOp)
  | attn (o : AttnOp)
deriving DecidableEq, Repr

/-- A queued matrix operation: what it does, the term it is armed on, its tag, its next step, the element reached within it
(R357), where it is paused, what it delivers at completion, the first job issued after it, the rows of an ATTN, and the
snapshot that an MXRD has taken (R349): the tile's words and its steps. -/
structure MxOp where
  kind : MxKind
  armed : Option Nat
  tag : Option Nat
  step : Nat
  elem : Nat := 0
  paused : Option (Nat × Nat)
  flags : BitVec 5
  dues : List (Nat × Word)
  since : Nat
  rows : List AttnRow
  snap : Option (Tile × BitVec 16) := none
deriving DecidableEq, Repr

/-- The matrix state of a task: reserved, granted runs of 32 rows on its unit and on the partner, steps, tiles, drain
parameters and queue (R335, R336, R338, R345). -/
structure Matrix where
  res : Bool
  rows : List Nat
  prows : List Nat
  steps : List (BitVec 16)
  tiles : List Tile
  ptiles : List Tile
  drain : List (BitVec 32 × BitVec 32)
  queue : List MxOp
deriving DecidableEq, Repr

/-- States of a forager queue (R367). -/
inductive QState where
  | idle | inbound | outbound
deriving DecidableEq, Repr

/-- A forager queue: state, element format, the elements held, each with the fault that its read met (R200), the stream's
count, the elements read or pushed so far, the elements written so far, and its job (R367, R368). -/
structure FQueue where
  st : QState
  fmt : BitVec 8
  elems : List (Nat × Option (Nat × Word))
  count : Nat
  moved : Nat
  written : Nat
  job : Nat
deriving DecidableEq, Repr

/-- A vector load that is issued and not complete: the fault that its reads met, delivered when it completes (R200), and the bytes of
HBM that it moves (R184). -/
structure VLoad where
  due : Option (Nat × Word)
  bytes : Nat
deriving DecidableEq, Repr

/-- An entry of the deferral queue: element index, path and saved values (R66). -/
structure DeferEntry where
  index : Nat
  path : Nat
  vals : List Word
deriving DecidableEq, Repr

/-- The record of a path: its map and the caps of the mapped registers (R308). -/
structure PathRec where
  path : Nat
  map : Nat
  caps : List (BitVec 128)
deriving DecidableEq, Repr

/-- A store in a store queue: its agent (0 the control core, else 1 plus the comb), its space and address there, its
bytes, whether it counts in ocst, its scope when strong, and the policy of its handle (R157, R253). -/
structure StoreEntry where
  agent : Nat
  space : Space
  addr : Nat
  bytes : List Byte
  counts : Bool
  strong : Option Scope
  policy : Nat
deriving DecidableEq, Repr

/-- A scalar access waiting for its data (R253, R254): destination, size, sign extension, where, and the atomic. -/
structure PendLoad where
  instr : Instr
  sd : Nat
  size : Nat
  signed : Bool
  handle : Handle
  addr : Nat
  strong : Option Scope
  atomic : Option (Nat × Word × Word)
deriving DecidableEq, Repr

/-- Why a task issues nothing although it is placed; where the instruction completes at another agent's step, that
instruction and its destination. A barrier's object is named by its physical address, or by none in a space that no event reaches. -/
inductive WaitFor where
  | sleep (wake : Nat)                                    -- SLEEPTIL (R166)
  | waggle (i : Instr) (sd term : Nat)                    -- WGWAIT (R436)
  | barrier (i : Instr) (sd : Nat) (phys : Option Nat) (gen : Word)      -- BARWAIT (R262)
  | remote (i : Instr) (sd port : Nat) (arrive : Bool) (phys : Nat)    -- a BARRSP about the object at a physical address (R419)
  | notice (i : Instr) (sd : Nat)                         -- SVC waiting for its notice (R265)
  | load                                                  -- a scalar access (R253)
  | enq                                                   -- ENQ to a full queue, tried again at its turn (R55)
  | condition (i : Option Instr)                          -- a stalled instruction, tried again at its turn (R260)
  | jobs (i : Option Instr) (ids : List Nat)              -- the same, where these jobs hold it (R165, R170, R375)
  | ending (cause : Nat) (double killed : Bool) (tval : Word) -- the task ends when its jobs are done (R204, R426)
  | leaving                                               -- and then when its notices are written (R204)
deriving DecidableEq, Repr

/-- Why a task stops (R185); an engine wait keeps the instruction that waits, and the object that a BARWAIT names. -/
inductive StopFor where
  | preempt
  | fault (cause addr : Nat)
  | fullQueue
  | engineWait (i : Instr) (obj : Option Nat)
deriving DecidableEq, Repr

/-- Where a task is: in its VLC; swapped to its frame for a reason, since a cycle, its restore asked for or not;
or in the shadow store (R188, R192, R194). -/
inductive Place where
  | vlc
  | frame (why : StopFor) (since : Nat) (ready : Bool)
  | shadow (since : Nat)
deriving DecidableEq, Repr

/-- The architectural state of a task (R61, R190), its place, and what the device holds about it. `lbad` are the buffered words
whose parity fails (R27); `restored` says that a restore has returned it and that its first instruction has not come: the
cause that it is told and, but for the stop duration, its value (R144, R191, R195). -/
structure Task where
  id : Nat
  vf : Nat
  launch : Nat
  stage : Nat
  out : Nat
  sup : Bool
  hive : Nat
  vlc : Nat
  firstComb : Nat
  combs : Nat
  live : BitVec 32
  slot : Nat
  place : Place
  cleared : Bool
  pc : BitVec 56
  s : Vector Word 64
  q : Vector Bool 8
  avl : BitVec 40
  strip : BitVec 24
  vstart : BitVec 32
  sfill : Word
  rngb : Word
  fflags : BitVec 5
  lc : Vector Word 3
  loops : List LoopRec
  sen : Bool
  slc : BitVec 2
  lbuf : List (BitVec 56 × Word)
  lbad : List (BitVec 56)
  tvec : BitVec 53
  tcauseVs : Bool
  tcauseCode : BitVec 10
  tval : Word
  tepc : BitVec 56
  tin : Bool
  tnote : Bool
  tptrap : Bool
  ix : Vector (BitVec 40) 4
  tqueue : BitVec 4
  tlaunch : BitVec 28
  tseq : BitVec 32
  chiprank : BitVec 12
  ocld : Nat
  ocst : Nat
  occp : Nat
  ocmx : Nat
  cols : List Nat
  par : List Nat
  tags : List Nat
  linear : Bool
  heldSwitch : Bool
  lease : Option Nat
  regs : Vector (Option VReg) 32
  resume : Option Resume
  mx : Matrix
  fq : List FQueue
  defer : List DeferEntry
  paths : List PathRec
  stores : List StoreEntry
  vld : List VLoad
  vst : List Nat
  pend : Option PendLoad
  dues : List (Nat × Word)
  dueFlags : BitVec 5
  latePulses : List Nat
  lateDone : List Nat
  combpar : List Word
  wait : Option WaitFor
  stallSince : Option Nat
  stop : Option StopFor
  stopAt : Nat
  yield : List Nat
  itemAt : Option Nat
  restored : Option (Nat × Option Word)
deriving DecidableEq, Repr

/-- A waggle counter (R70): owner, threshold, source input, count. -/
structure Counter where
  owner : Option Nat
  thresh : Nat
  src : Nat
  count : Nat
deriving DecidableEq, Repr

/-- A waggle term (R70): owner, products, target, firings not consumed, latched counters. -/
structure Term where
  owner : Option Nat
  p1 : BitVec 16
  p0 : BitVec 16
  tgt : Nat
  pend : Nat
  latched : BitVec 16
deriving DecidableEq, Repr

/-- What a hive changes over time: the pass-table entries written by PTLOAD (R284), the waggle crossbar (R69), the stage
it will serve next (none is OPEN, R179), and the VLCs its control core and sequencer served last (R24, R25). -/
structure Hive where
  id : Nat
  passes : List (Nat × (Word × Word))
  counters : List Counter
  terms : List Term
  tag : Option (Nat × Nat × Nat)
  served : Nat
  passServed : Nat
deriving DecidableEq, Repr

/-- A region of a footprint set, resolved: space, task (for COMBLIN), first byte, length, written or only read (R169). -/
structure Region where
  space : Space
  task : Nat
  first : Nat
  len : Nat
  write : Bool
deriving DecidableEq, Repr

/-- One element of a forager job: its cell, its offset and, for a scatter, its value. -/
structure Elem where
  cell : Nat
  off : Nat
  val : Nat
deriving DecidableEq, Repr

/-- What an engine job does, resolved at issue (R362 to R382, R400, R406, R407). -/
inductive JobKind where
  | gather (vd : Nat) (fmt : BitVec 8) (h : Handle) (elems : List Elem)
  | scatter (fmt : BitVec 8) (h : Handle) (elems : List Elem)
  | scata (fmt : BitVec 8) (rm : Rm) (h : Handle) (elems : List Elem)
  | hsrd (vd : Nat) (tile : TileRef) (cells : List (Nat × Nat))
  | stream (inbound : Bool) (q : Nat) (fmt : BitVec 8) (h : Handle) (first stride : Int) (count : Nat)
  | copy (dst src : Handle) (doff soff : Int) (len rows : Nat) (dstride sstride : Int)
  | contract
  | kvapp (pool : KvPool) (desc : Nat) (src : Handle) (soff : Nat) (writes : List Nat) (fills : List (Nat × Nat))
  | kvpull (pool : KvPool) (remote : Handle) (block dir : Nat)
  | kvevict (pool : KvPool) (remote : Handle) (victims : List (Nat × Nat))
deriving DecidableEq, Repr

/-- The counter that an operation counts in (R165). -/
inductive Class where
  | ld | st | cp | mx
deriving DecidableEq, Repr

/-- Where the arrival of a job stands: to come with its completion, to be made now that its accesses are, or sent as a BAREVT whose
answer the job awaits (R173, R419). -/
inductive ArrivalState where
  | before | due | sent
deriving DecidableEq, Repr

/-- An arrival at a barrier object that an engine job carries: the object's handle, its address there and its physical address,
the generation captured at issue, and where it stands (R173). -/
structure Arrival where
  handle : Handle
  addr : Nat
  phys : Nat
  gen : Nat
  stage : ArrivalState := .before
deriving DecidableEq, Repr

/-- An engine job (R362): its task, what it does, its counter, its pulse input, the term it is armed on, its set's regions,
its promise as issued and as rebased, its pause, its progress, the faults it delivers, its flags, and its arrival. -/
structure Job where
  id : Nat
  task : Nat
  vf : Nat
  launch : Nat
  stack : Nat
  hive : Nat
  kind : JobKind
  cls : Class
  input : Option Nat
  armed : Option Nat
  regions : List Region
  promise : Option Nat
  rebased : Option Nat
  paused : Option (Nat × Nat)
  pausedAt : Nat
  progress : Nat
  dues : List (Nat × Word)
  flags : BitVec 5
  arrival : Option Arrival
deriving DecidableEq, Repr

/-- A launch queue (R174). -/
structure LaunchQueue where
  base : BitVec 49
  err : Bool
  sup : Bool
  en : Bool
  log : BitVec 4
  tickets : BitVec 16
  prod : BitVec 32
  cons : BitVec 32
  age : Nat
deriving DecidableEq, Repr

/-- A stage of a started launch, with its inbound queue (R44, R53). -/
structure Stage where
  entry : Nat
  combs : Nat
  mx : Bool
  stream : Bool
  out : Nat
  live : BitVec 32
  qdepth : Nat
  maxt : Nat
  inq : Nat
  head : Nat
  count : Nat
deriving DecidableEq, Repr

/-- A loop level: kind, strip-mined or not, extent (R43). -/
structure Level where
  kind : Nat
  strip : Bool
  extent : Nat
deriving DecidableEq, Repr

/-- A started launch (R42 to R51): `nexts` holds, for each stack when a level is spatial over dies, else once, how many of its
index points have created their task. -/
structure Launch where
  id : Nat
  queue : Nat
  serial : Nat
  irq : Bool
  arg : Word
  levels : List Level
  stages : List Stage
  fptab : Nat
  fpcnt : Nat
  compl : Nat
  nexts : List Nat
  created : Nat
  start : Option Nat
  dropped : Nat
  rank : Nat
  ranks : Nat
  gen : Option Word
  killed : Bool
deriving DecidableEq, Repr

/-- A supervisor notice (R197), and the task held until it is written. -/
structure Notice where
  cause : Nat
  engine : Bool
  unhandled : Bool
  double : Bool
  frame : BitVec 32
  ntask : Word
  ntval : Word
  nhive : Nat
  task : Option Nat
  svc : Bool
deriving DecidableEq, Repr

/-- A partition (R40, R41) and its supervisor registers (R156, R174, R178, R188, R193, R196). -/
structure Partition where
  vf : Nat
  firstHive : Nat
  nHives : Nat
  deferBase : Nat
  asid : BitVec 16
  ptroot : BitVec 40
  hbase : BitVec 43
  lseed : BitVec 32
  swcnt : BitVec 16
  swbase : BitVec 32
  psState : BitVec 2
  snqbase : BitVec 39
  snqprod : BitVec 32
  snqcons : BitVec 32
  lq : Vector LaunchQueue 16
  notices : List Notice
  launches : List Launch
  serials : List Nat
  nextLaunch : Nat
  pfdones : List Nat
  drawAt : Nat
deriving DecidableEq, Repr

/-- An inbound window (R417). -/
structure Window where
  base : Nat
  len : Nat
  asid : Nat
  vbase : Nat
  r : Bool
  w : Bool
  a : Bool
deriving DecidableEq, Repr

/-- A port: 0 to 7 the peers, 8 the host (R412, R416, R417, R419 to R421). While `mute` holds, its partner answers no request in
time; `told` says that INTEG.LINK of the event that the port is in has been delivered (R416). -/
structure Port where
  endpoint : Bool
  up : Bool
  version : Nat
  mismatch : Bool
  down : Bool
  insecure : Bool
  dropped : Nat
  gen : Word
  rank : Nat
  windows : List (Nat × Window)
  mute : Bool := false
  told : Bool := false
deriving DecidableEq, Repr

/-- What leaves the device: signals, memory requests, completions and messages (R412, R414, R415, R417, R419). A memory request
names its requester: a virtual function on the host port, 0 for the port's own function on a peer port. A read, without data, or a write
is listed byte by byte (DESIGN CHOICE, log 75); an AtomicOp is one request: FetchAdd (0), Swap (1) or CAS (2), of 4 or 8 bytes, with its
operand and its compare value (R412, R415). -/
inductive OutMsg where
  | memory (port requester addr : Nat) (data : Option Byte)
  | atomicOp (port requester op : Nat) (w4 : Bool) (addr : Nat) (operand compare : Word)
  | msix (vf vector : Nat)                     -- vf 0 is the physical function
  | completion (port : Nat) (bytes : List Byte)
  | unsupported (port : Nat)
  | retry (vf : Nat)                           -- Configuration Request Retry Status (R422)
  | abort (port : Nat)
  | version (port hi lo : Nat)
  | barevt (port : Nat) (gen : Word) (addr event : Nat) (g : Word) (tag : Nat)
  | barrsp (port tag : Nat) (status : Word)
  | lstart (port : Nat) (gen : Word) (rank : Nat)
deriving DecidableEq, Repr

/-- The keeper (R423 to R428): mailbox, with the status that the running command will report once it is known; configuration
image; error log; the arguments with which the running command started; and those of a PSAVE that waits for a checkpoint
(R432). -/
structure Keeper where
  mbcmd : Word
  mbarg : Vector Word 15
  busy : Bool
  result : Option Nat
  status : BitVec 16
  cfgstat : BitVec 8
  cfglen : Word
  window : List Byte
  image : List Byte
  nextImage : Option (List Byte)
  powerLimit : Nat
  errlog : List (Nat × Word)
  run : Vector Word 15 := Vector.replicate 15 0
  later : Option (Vector Word 15) := none
deriving DecidableEq, Repr

/-- The whole machine. `everReady` holds the READY bits set since reset: which functions have come into use (R422, R432). The fields
after `shadow` are the model's own: which step comes next, and the count of free values
drawn (DESIGN CHOICE, log 4). -/
structure State where
  cycle : Word
  mem : List Host.Cell
  honey : List Host.Cell
  badMem : List Nat
  badHoney : List Nat
  refreshing : Option Nat
  hiveLines : List (Nat × Line)
  icLines : List (Nat × Line)
  dieLines : List Line
  tlb : List TlbEntry
  handles : List HandleCopy
  hives : List Hive
  parts : List Partition
  tasks : List Task
  jobs : List Job
  ports : Vector Port 9
  keeper : Keeper
  ready : BitVec 28
  failed : BitVec 28
  everReady : BitVec 28
  clock : Nat
  thermalHold : Bool
  afrSeq : BitVec 16
  afrHbm : BitVec 8
  afrMx : BitVec 8
  afrPass : BitVec 8
  msgs : List OutMsg
  shadow : List Nat
  nextTask : Nat
  nextJob : Nat
  agenda : List Instr
  phase : Bool
  turn : Nat
  cur : Option Nat
  fresh : Nat
deriving DecidableEq, Repr

/-- A port after reset: down, with nothing recorded (DESIGN CHOICE, log 14). -/
def Port.reset : Port :=
  { endpoint := true, up := false, version := 0, mismatch := false, down := false, insecure := false, dropped := 0,
    gen := 0, rank := 0, windows := [] }

/-- The keeper after reset: CFGSTAT 0 (R423); the rest by choice (DESIGN CHOICE, log 7). -/
def Keeper.reset : Keeper :=
  { mbcmd := 0, mbarg := Vector.replicate 15 0, busy := false, result := none, status := 0, cfgstat := 0, cfglen := 0, window := [],
    image := [], nextImage := none, powerLimit := 2200, errlog := [] }

/-- The machine right after device reset: the cycle counter zero (R35), bank group 0 refreshing (R30), no partition, no
task and no job (R40, R425), READY and FAILED zero (R422), every memory byte unlisted (DESIGN CHOICE, log 3), caches empty (DESIGN CHOICE, log 5) (DESIGN CHOICE, log 6). -/
def State.reset : State :=
  { cycle := 0, mem := [], honey := [], badMem := [], badHoney := [], refreshing := some 0, hiveLines := [], icLines := [],
    dieLines := [], tlb := [], handles := [], hives := [], parts := [], tasks := [], jobs := [],
    ports := Vector.replicate 9 Port.reset, keeper := Keeper.reset, ready := 0, failed := 0, everReady := 0, clock := 24,
    thermalHold := false, afrSeq := 0, afrHbm := 0, afrMx := 0, afrPass := 0, msgs := [], shadow := [], nextTask := 0,
    nextJob := 0, agenda := [], phase := false, turn := 0, cur := none, fresh := 0 }

end Sys2Proof.Machine
end

