-- ==== Sys2Proof/Machine/Mem.lean ====
section
/-! DEFINITION. Bytes of memory in canonical form, and the table walk (R149 to R153). An address with no entry reads as
zero (DESIGN CHOICE, log 3). -/

namespace Sys2Proof.Machine

/-- The byte at an address; an unlisted address reads as 0. -/
def memRead : List Host.Cell → Nat → Byte
  | [], _ => 0
  | (k, v) :: r, a => if k = a then v else memRead r a

/-- Writes a byte, keeping addresses rising and no entry 0. -/
def memWrite : List Host.Cell → Nat → Byte → List Host.Cell
  | [], a, b => if b = 0 then [] else [(a, b)]
  | (k, v) :: r, a, b =>
    if a < k then (if b = 0 then (k, v) :: r else (a, b) :: (k, v) :: r)
    else if a = k then (if b = 0 then r else (a, b) :: r)
    else (k, v) :: memWrite r a b

/-- Addresses rise strictly from above `lo`, and no entry is 0. -/
def memWfFrom : Option Nat → List Host.Cell → Bool
  | _, [] => true
  | lo, (k, v) :: r => (match lo with | none => true | some l => decide (l < k)) && decide (v ≠ 0) && memWfFrom (some k) r

/-- The canonical form of memory. -/
def Memory.wf (m : List Host.Cell) : Bool := memWfFrom none m

/-- Reads `n` bytes from an address upward. -/
def memReadN (m : List Host.Cell) (a : Nat) : Nat → List Byte
  | 0 => []
  | n + 1 => memRead m a :: memReadN m (a + 1) n

/-- Writes bytes from an address upward. -/
def memWriteN : List Host.Cell → Nat → List Byte → List Host.Cell
  | m, _, [] => m
  | m, a, b :: bs => memWriteN (memWrite m a b) (a + 1) bs

/-- The number that bytes hold, little-endian (R5). -/
def leNat : List Byte → Nat
  | [] => 0
  | b :: bs => b.toNat + 256 * leNat bs

/-- The `n` bytes of a number, little-endian (R5). -/
def leBytes : Nat → Nat → List Byte
  | 0, _ => []
  | n + 1, x => BitVec.ofNat 8 x :: leBytes n (x / 256)

/-- Writes a word of a sparse table; an unlisted word is 0. -/
def wordAt : List (Nat × BitVec 32) → Nat → BitVec 32
  | [], _ => 0
  | (k, v) :: r, a => if k = a then v else wordAt r a

/-- Sets a word of a sparse table, keeping it in order and without zero entries. -/
def setWordAt : List (Nat × BitVec 32) → Nat → BitVec 32 → List (Nat × BitVec 32)
  | [], a, b => if b = 0 then [] else [(a, b)]
  | (k, v) :: r, a, b =>
    if a < k then (if b = 0 then (k, v) :: r else (a, b) :: (k, v) :: r)
    else if a = k then (if b = 0 then r else (a, b) :: r)
    else (k, v) :: setWordAt r a b

/-- The memory that a physical address falls in (R150). -/
def regionOf (pa : Nat) : Option Space :=
  if pa < Config.hbmEnd then some .hbm
  else if Config.hostBase ≤ pa ∧ pa < Config.poolBase then some .host
  else if Config.poolBase ≤ pa ∧ pa < Config.poolEnd then some .pool
  else none

/-- How an access is refused on its way to memory. -/
inductive XErr where
  | unmapped   -- a translation fault (R152)
  | denied     -- a malformed entry, or a leaf that forbids the access (R152, R153): MEM.PROT
deriving DecidableEq, Repr

/-- Whether a leaf allows an access (R153). -/
def LeafBits.allows (l : LeafBits) : Acc → Bool
  | .read => l.r
  | .write => l.w
  | .atomic => l.r && l.w
  | .fetch => l.x
  | .look => true

/-- The lower bit of the index field and its width at each level of the tables (R149). -/
def walkLevels : List (Nat × Nat) := [(47, 9), (35, 12), (29, 6), (21, 8), (16, 5)]

/-- The walk (R149 to R152) from a table at `base`, at the levels left; `level0` holds at the first, and `entry` reads an entry. -/
def walkFrom (entry : Nat → Nat) (va : Nat) (sp : Option Space) : Bool → List (Nat × Nat) → Nat → Except XErr TlbEntry
  | _, [], _ => .error .denied
  | level0, (sh, w) :: rest, base =>
    let e := entry (base + 8 * fld va sh w)
    if !bitOf e 0 then .error .unmapped
    else if fld e 52 8 != 0 || fld e 5 7 != 0 then .error .denied
    else if bitOf e 1 then
      let frame := fld e 12 40 * 2 ^ 12
      if level0 || frame % 2 ^ sh != 0 then .error .denied
      else match regionOf frame, regionOf (frame + va % 2 ^ sh) with
        | some r, some r' =>
          if r ≠ r' ∨ (sp.isSome ∧ sp ≠ some r) then .error .denied
          else if sh = 16 ∧ fld va 16 2 ≠ fld frame 16 2 then .error .denied
          else .ok { glob := bitOf e 60, asid := 0, page := va / 2 ^ sh * 2 ^ sh, size := 2 ^ sh, frame := frame,
                     leaf := { r := bitOf e 2, w := bitOf e 3, x := bitOf e 4, ns := bitOf e 63, cp := fld e 61 2 } }
        | _, _ => .error .denied
    else if sh = 16 then .error .denied
    else walkFrom entry va sp false rest (fld e 12 40 * 2 ^ 12)

/-- The walk from a level-0 table (DEDUCED, log 69). -/
def walk (entry : Nat → Nat) (root va : Nat) (sp : Option Space) : Except XErr TlbEntry :=
  walkFrom entry va sp true walkLevels root

/-- Whether a TLB entry serves an address of an ASID (R149, R150). -/
def TlbEntry.hit (e : TlbEntry) (asid va : Nat) : Bool :=
  (e.glob || e.asid == asid) && decide (e.page ≤ va) && decide (va < e.page + e.size)

end Sys2Proof.Machine
end

