-- ==== Sys2Proof/Machine/Ops.lean ====
section
/-! DEFINITION. The named operations over tasks, registers, translation, caches, handles and memory; taking an exception
(R202, R204) and returning from one (R203); the end of a task; notices. -/

namespace Sys2Proof.Machine

/-! ## Sorting -/

/-- Inserts an element before the first one that it may stand before. -/
def insertBy {α : Type} (le : α → α → Bool) (x : α) : List α → List α
  | [] => [x]
  | y :: r => if le x y then x :: y :: r else y :: insertBy le x r

/-- The list in ascending order; equal elements keep theirs. -/
def sortBy {α : Type} (le : α → α → Bool) (l : List α) : List α := l.foldr (insertBy le) []

/-- Numbers in ascending order. -/
def sortNats (l : List Nat) : List Nat := sortBy (fun a b => decide (a ≤ b)) l

/-! ## How an instruction ends early -/

/-- Why an instruction does not complete: a trap with its cause and tval, a translation fault of the task's own (R152), or
a stall, after which it is executed afresh (R260). -/
inductive Stop where
  | trap (cause : Nat) (tval : Word)
  | page (cause : Nat) (addr : Nat)
  | stall (w : WaitFor)
  | engine (obj : Option Nat)    -- the wait needs a paused engine job: an engine-wait swap (R152, R185); a BARWAIT's object
deriving DecidableEq, Repr

/-- A computation over the state that may end early. What it did before an early end is dropped. -/
abbrev M (α : Type) := StateT State (Except Stop) α

/-- Ends with a trap. -/
def trap {α : Type} (cause : Nat) (tval : Word) : M α := fun _ => .error (.trap cause tval)

/-- Ends early. -/
def stopWith {α : Type} (s : Stop) : M α := fun _ => .error s

/-- Stalls: the instruction is executed afresh at a later turn. -/
def stall {α : Type} : M α := fun _ => .error (.stall (.condition none))

/-- Stalls until some jobs are complete. -/
def stallFor {α : Type} (jobs : List Job) : M α := fun _ => .error (.stall (.jobs none (jobs.map (·.id))))

/-- Continues when the condition holds, else traps. -/
def check (c : Bool) (cause : Nat) (tval : Word) : M Unit := fun s => if c then .ok ((), s) else .error (.trap cause tval)

/-- Runs a computation and answers how it ends: what an early end did is dropped, and the computation that follows goes on. -/
def attempt {α : Type} (m : M α) : M (Except Stop α) := fun s =>
  match m s with
  | .error e => .ok (.error e, s)
  | .ok (v, s) => .ok (.ok v, s)

/-! ## Cause codes (R198, R113, R358, R410) -/

/-- INSN.ILLOP. -/
def cILLOP : Nat := 0x080
/-- INSN.ILLFN. -/
def cILLFN : Nat := 0x081
/-- INSN.RSVNZ. -/
def cRSVNZ : Nat := 0x082
/-- INSN.PRIV. -/
def cPRIV : Nat := 0x083
/-- INSN.OVERLAP. -/
def cOVERLAP : Nat := 0x084
/-- INSN.LOOPDEPTH. -/
def cLOOPDEPTH : Nat := 0x086
/-- INSN.LOOPBODY. -/
def cLOOPBODY : Nat := 0x087
/-- INSN.SWTRAP. -/
def cSWTRAP : Nat := 0x088
/-- CAP.MISMATCH. -/
def cMISMATCH : Nat := 0x100
/-- CAP.UNSUPPORTED. -/
def cUNSUPPORTED : Nat := 0x101
/-- CAP.CHECK. -/
def cCAPCHECK : Nat := 0x102
/-- CAP.DISCARD. -/
def cDISCARD : Nat := 0x103
/-- CAP.POISON. -/
def cPOISON : Nat := 0x104
/-- CAP.NARROW. -/
def cNARROW : Nat := 0x105
/-- CAP.SHAPE. -/
def cSHAPE : Nat := 0x106
/-- MEM.IPF. -/
def cIPF : Nat := 0x180
/-- MEM.LPF. -/
def cLPF : Nat := 0x181
/-- MEM.SPF. -/
def cSPF : Nat := 0x182
/-- MEM.PROT. -/
def cPROT : Nat := 0x183
/-- MEM.HBOUND. -/
def cHBOUND : Nat := 0x184
/-- MEM.HINV. -/
def cHINV : Nat := 0x185
/-- MEM.FOOT. -/
def cFOOT : Nat := 0x186
/-- MEM.ALIGN. -/
def cALIGN : Nat := 0x187
/-- MEM.HONEYWR. -/
def cHONEYWR : Nat := 0x188
/-- MEM.ROWRITE. -/
def cROWRITE : Nat := 0x189
/-- SYNC.PROMISE. -/
def cPROMISE : Nat := 0x200
/-- SYNC.BARCORRUPT. -/
def cBARCORRUPT : Nat := 0x202
/-- SYNC.DEFEROVF. -/
def cDEFEROVF : Nat := 0x204
/-- SYNC.SPOVERRUN. -/
def cSPOVERRUN : Nat := 0x205
/-- MX.NOGRANT. -/
def cNOGRANT : Nat := 0x280
/-- MX.ACCECC. -/
def cACCECC : Nat := 0x281
/-- MX.MXFMT. -/
def cMXFMT : Nat := 0x282
/-- MX.KRANGE. -/
def cKRANGE : Nat := 0x283
/-- KV.KVRO. -/
def cKVRO : Nat := 0x300
/-- KV.KVFULL. -/
def cKVFULL : Nat := 0x301
/-- KV.KVSEQ. -/
def cKVSEQ : Nat := 0x302
/-- KV.KVSPAN. -/
def cKVSPAN : Nat := 0x305
/-- KV.KVPULL. -/
def cKVPULL : Nat := 0x306
/-- INTEG.COMBPAR. -/
def cCOMBPAR : Nat := 0x380
/-- INTEG.LBPAR. -/
def cLBPAR : Nat := 0x381
/-- INTEG.LINK. -/
def cLINK : Nat := 0x382
/-- INTEG.HONEYECC. -/
def cHONEYECC : Nat := 0x383
/-- INTEG.HBMUE. -/
def cHBMUE : Nat := 0x384
/-- ASYNC.PREEMPTED. -/
def cPREEMPTED : Nat := 0x001
/-- ASYNC.RESUMED. -/
def cRESUMED : Nat := 0x002
/-- ASYNC.LQERR. -/
def cLQERR : Nat := 0x003

/-! ## Tasks, partitions, hives -/

/-- A number as a register value. -/
def w64 (n : Nat) : Word := BitVec.ofNat 64 n

/-- The task with an identity. -/
def State.task? (s : State) (id : Nat) : Option Task := s.tasks.find? (·.id == id)

/-- The task whose instruction is executed. -/
def State.curTask (s : State) : Option Task := s.cur.bind s.task?

/-- Replaces the task with the same identity. -/
def State.setTask (s : State) (t : Task) : State :=
  { s with tasks := s.tasks.map fun u => if u.id == t.id then t else u }

/-- The partition bound to a virtual function. -/
def State.part? (s : State) (vf : Nat) : Option Partition := s.parts.find? (·.vf == vf)

/-- Replaces the partition bound to the same virtual function. -/
def State.setPart (s : State) (p : Partition) : State :=
  { s with parts := s.parts.map fun q => if q.vf == p.vf then p else q }

/-- A free counter (DESIGN CHOICE, log 11). -/
def Counter.free : Counter := ⟨none, 0, 0, 0⟩
/-- A free term. -/
def Term.free : Term := ⟨none, 0, 0, 0, 0, 0⟩

/-- A hive of which nothing has changed since reset: its tag is OPEN (DESIGN CHOICE, log 12), and its control core and sequencer
serve VLC 0 first (DESIGN CHOICE, log 74). -/
def Hive.initial (h : Nat) : Hive :=
  { id := h, passes := [], counters := List.replicate 16 Counter.free, terms := List.replicate 16 Term.free,
    tag := none, served := 3, passServed := 3 }

/-- A hive; one not listed is as reset left it. -/
def State.hive (s : State) (h : Nat) : Hive := (s.hives.find? (·.id == h)).getD (Hive.initial h)

/-- Replaces or lists a hive. -/
def State.setHive (s : State) (h : Hive) : State :=
  if s.hives.any (·.id == h.id) then { s with hives := s.hives.map fun g => if g.id == h.id then h else g }
  else { s with hives := h :: s.hives }

/-- The job with an identity. -/
def State.job? (s : State) (id : Nat) : Option Job := s.jobs.find? (·.id == id)

/-- Replaces the job with the same identity. -/
def State.setJob (s : State) (j : Job) : State :=
  { s with jobs := s.jobs.map fun k => if k.id == j.id then j else k }

/-- The current task; a stall when there is none, which no run of a meaning meets. -/
def getT : M Task := fun s => match s.curTask with
  | some t => .ok (t, s)
  | none => .error (.stall (.condition none))

/-- Replaces the current task's record. -/
def setT (t : Task) : M Unit := fun s => .ok ((), s.setTask t)

/-- The state. -/
def getS : M State := fun s => .ok (s, s)

/-- Replaces the state. -/
def setS (s : State) : M Unit := fun _ => .ok ((), s)

/-- Changes the state. -/
def modS (f : State → State) : M Unit := fun s => .ok ((), f s)

/-- Changes the current task. -/
def modT (f : Task → Task) : M Unit := do
  let t ← getT
  setT (f t)

/-- The partition of the current task. -/
def getP : M Partition := do
  let t ← getT
  let s ← getS
  match s.part? t.vf with
  | some p => pure p
  | none => stall

/-- A fresh free value (DESIGN CHOICE, log 9). -/
def freshWord : M Word := fun s => .ok (Config.freeWord s.fresh, { s with fresh := s.fresh + 1 })

/-- A fresh free column (DESIGN CHOICE, log 9). -/
def freshColumn : M Nat := fun s => .ok (Config.freeColumn s.fresh, { s with fresh := s.fresh + 1 })

/-! ## Scalar registers and predicates (R212) -/

/-- A scalar register; s0 reads as zero. -/
def Task.rs (t : Task) (n : Nat) : Word := if n = 0 then 0 else t.s.toArray.getD n 0

/-- Writes a scalar register; a write to s0 is discarded. -/
def Task.ws (t : Task) (n : Nat) (v : Word) : Task := if n = 0 then t else { t with s := t.s.setIfInBounds n v }

/-- A scalar predicate; q0 reads as true (R208). -/
def Task.rq (t : Task) (n : Nat) : Bool := if n = 0 then true else t.q.toArray.getD n false

/-- Writes a scalar predicate; a write to q0 is discarded. -/
def Task.wq (t : Task) (n : Nat) (v : Bool) : Task := if n = 0 then t else { t with q := t.q.setIfInBounds n v }

/-- A loop counter. -/
def Task.rlc (t : Task) (n : Nat) : Word := t.lc.toArray.getD n 0

/-- Writes a loop counter. -/
def Task.wlc (t : Task) (n : Nat) (v : Word) : Task := { t with lc := t.lc.setIfInBounds n v }

/-- Cells of the task's VLC (R23). -/
def Task.vlmax (t : Task) : Nat := t.combs * Config.cellsPerComb

/-- The vector length (R62). -/
def Task.vl (t : Task) : Nat := min t.vlmax (t.avl.toNat - t.strip.toNat * t.vlmax)

/-- Comb die of a hive (R14). -/
def dieOf (hive : Nat) : Nat := hive / 64

/-- taskid (R62). -/
def Task.taskid (t : Task) : Word := (t.tqueue ++ t.tlaunch ++ t.tseq : BitVec 64)

/-- The immediate of a format, sign-extended to 64 bits (R212, R222). -/
def immVal {n : Nat} : Imm n → Word
  | .short v => v.signExtend 64
  | .long v => v

/-- The immediate of a format, read as unsigned. -/
def immValU {n : Nat} : Imm n → Word
  | .short v => v.setWidth 64
  | .long v => v

/-! ## The program counter and the ends of loops (R244, R245) -/

/-- Length of an instruction in bytes. -/
def ilen (i : Instr) : Nat := 8 * (encode i).length

/-- The first word of an instruction, which tval holds for the INSN causes (R198). -/
def iword (i : Instr) : Word := (encode i).headD 0

/-- The strip advances (R64): strip rises, vstart becomes zero and a resume record is discarded (R187). -/
def Task.advanceStrip (t : Task) : Task := { t with strip := t.strip + 1, vstart := 0, resume := none }

/-- Control has passed in sequence to `npc`: ends iterations of the innermost loops whose end it is (R245). -/
def Task.arriveAt : List LoopRec → Task → BitVec 56 → Task
  | [], t, npc => { t with pc := npc, loops := [], lbuf := [], lbad := [] }
  | r :: rs, t, npc =>
    if npc = r.stop then
      let t1 := if t.sen && t.slc.toNat == r.lc then t.advanceStrip else t
      if t1.rlc r.lc ≠ 0 then { t1.wlc r.lc (t1.rlc r.lc - 1) with pc := r.start, loops := r :: rs }
      else arriveAt rs t1 r.stop
    else { t with pc := npc, loops := r :: rs }

/-- Continues at the next word in sequence. In a handler no iteration end is detected (R246). -/
def Task.seqTo (t : Task) (npc : BitVec 56) : Task :=
  if t.tin then { t with pc := npc }
  else if t.loops.isEmpty then { t with pc := npc }
  else Task.arriveAt t.loops t npc

/-- The instruction `i` is done: continues after it. -/
def Task.retire (t : Task) (i : Instr) : Task := t.seqTo (t.pc + BitVec.ofNat 56 (ilen i))

/-! ## Notices (R197) -/

/-- Adds a notice at the end of the partition's waiting notices. -/
def State.raiseNotice (s : State) (vf : Nat) (n : Notice) : State :=
  match s.part? vf with
  | none => s
  | some p => s.setPart { p with notices := p.notices ++ [n] }

/-- A notice about a task. -/
def Task.notice (t : Task) (cause : Nat) (frame : BitVec 32) (ntval : Word) : Notice :=
  { cause := cause, engine := false, unhandled := false, double := false, frame := frame, ntask := t.taskid,
    ntval := ntval, nhive := t.hive, task := none, svc := false }

/-- An entry of the keeper's error log. -/
def State.logError (s : State) (code : Nat) (v : Word) : State :=
  { s with keeper := { s.keeper with errlog := s.keeper.errlog ++ [(code, v)] } }

/-- The READY and FAILED bit of a port (R422). -/
def portBit (p : Nat) : Nat := if p = 8 then 0 else 1 + p

/-- Whether requests go out on a port: it has not failed, its link is up and secure, and a peer's version is agreed (R412, R416, R420,
R432). -/
def State.portLive (s : State) (p : Nat) : Bool :=
  match s.ports.toArray[p]? with
  | some q => q.up && !q.insecure && (p == 8 || q.version != 0) && !s.failed.getLsbD (portBit p)
  | none => false

/-- Whether a message can leave the device: its port is live; VERSION needs the link alone (R420), and a Configuration Request Retry
Status nothing, which is sent until the host port is up (R412, R416, R422, R432). -/
def State.carries (s : State) : OutMsg → Bool
  | .memory port .. | .atomicOp port .. | .completion port _ | .unsupported port | .abort port | .barevt port .. | .barrsp port ..
  | .lstart port .. => s.portLive port
  | .msix .. => s.portLive 8
  | .retry _ => true
  | .version port .. => match s.ports.toArray[port]? with | some q => q.up | none => false

/-- A message leaves the device, where its port carries it. -/
def State.send (s : State) (m : OutMsg) : State := { s with msgs := if s.carries m then s.msgs ++ [m] else s.msgs }

/-- A cause delivered to the host: an entry of the error log and PF vector 1 (R198, R414). -/
def State.hostCause (s : State) (code : Nat) (v : Word) : State := (s.logError code v).send (.msix 0 1)

/-! ## The end of a task (R204, R251, R426) -/

/-- The waggle objects of a task are freed (R69). -/
def Hive.freeOwned (h : Hive) (t : Nat) : Hive :=
  { h with
    counters := h.counters.map fun c => if c.owner = some t then Counter.free else c
    terms := h.terms.map fun c => if c.owner = some t then Term.free else c }

/-- A task holds combs of its hive: it is in a VLC, or in shadow store with the combs it returns to. -/
def Task.holdsCombs (t : Task) : Bool := match t.place with | .frame .. => false | _ => true

/-- A hive that a task leaves keeps a tag naming the stage it last served (R180); a task in its frame has left before. -/
def State.tagLast (s : State) (t : Task) : State :=
  if t.holdsCombs then s.setHive { s.hive t.hive with tag := some (t.vf, t.launch, t.stage) } else s

/-- The reports of pages that were recorded for the task of a slot are dropped with it (R192). -/
def State.dropReports (s : State) (vf slot : Nat) : State :=
  match s.part? vf with
  | some p => if p.pfdones.contains slot then s.setPart { p with pfdones := p.pfdones.filter (· != slot) } else s
  | none => s

/-- Removes a task: its combs, VLC, matrix rows and reservation, lease, waggle objects, deferral queue and swap slot are
released with its record (R251). -/
def State.removeTask (s : State) (t : Task) : State :=
  let s := ((s.tagLast t).setHive (((s.tagLast t).hive t.hive).freeOwned t.id)).dropReports t.vf t.slot
  { s with tasks := s.tasks.filter (·.id != t.id), cur := if s.cur = some t.id then none else s.cur }

/-- Nothing that the task issued is incomplete. -/
def Task.quiet (t : Task) : Bool :=
  t.ocld == 0 && t.ocst == 0 && t.occp == 0 && t.ocmx == 0 && t.stores.isEmpty && t.mx.queue.isEmpty

/-- An entry of the error log and PF vector 1 for every fault of class 7 among some (R198, R414). -/
def State.logDues (s : State) (l : List (Nat × Word)) : State :=
  l.foldl (fun s d => if 0x380 ≤ d.1 then s.hostCause d.1 d.2 else s) s

/-- Faults met by reads that nothing has raised yet: of stream elements not consumed, and of comb groups. -/
def Task.unraised (t : Task) : List (Nat × Word) :=
  (t.fq.flatMap fun q => q.elems.filterMap (·.2)) ++ t.combpar.map fun v => (cCOMBPAR, v)

/-- A notice about a task waits to be written. -/
def State.noticesLeft (s : State) (t : Task) : Bool :=
  match s.part? t.vf with
  | some p => p.notices.any (·.task == some t.id)
  | none => false

/-- A task ends: every class 7 event that nothing has raised goes to the error log (R198), and the task is removed. -/
def State.endTask (s : State) (t : Task) : State := (s.logDues t.unraised).removeTask t

/-- The notices of a task that a trap ends: that of the trap (R204), and one for each MEM.FOOT that no WAIT has raised, which is raised
at the end (R171) (DESIGN CHOICE, log 100). -/
def Task.endNotices (t : Task) (cause : Nat) (double : Bool) (tval : Word) : List Notice :=
  ((cause, tval) :: t.dues.filter (·.1 == cFOOT)).map fun d =>
    { t.notice d.1 0xFFFFFFFF d.2 with unhandled := true, double := double, task := some t.id }

/-- A task whose notices are written ends (R204). -/
def State.leave (s : State) (t : Task) : State := if t.wait == some .leaving && !s.noticesLeft t then s.endTask t else s

/-- Ends a task that a trap or LKILL ends, once its jobs are done: at once for LKILL, which writes no notice (R426); else its matrix rows
are released, its notices are raised, and it ends when they are written (R204, R171). -/
def State.finishEnding (s : State) (t : Task) : State :=
  match t.wait with
  | some (.ending cause double killed tval) =>
    if !t.quiet then s
    else if killed then s.endTask t
    else
      let u := { t with wait := some .leaving, mx := { t.mx with res := false, rows := [], prows := [], tiles := [], ptiles := [] } }
      ((t.endNotices cause double tval).foldl (fun s n => s.raiseNotice t.vf n) (s.setTask u)).leave u
  | some .leaving => s.leave t
  | _ => s

/-! ## Taking a trap and returning from it (R202, R203) -/

/-- The entry of a trap: to the handler, or, inside one or without one, to the end of the task (R202, R204), whose engines then
run whatever stop was asked for. `ret` is the return address. -/
def State.enterTrap (s : State) (t : Task) (cause : Nat) (tval : Word) (ret : BitVec 56) : State :=
  if t.tin || t.tvec == 0 then
    let t := { t with wait := some (.ending cause t.tin false tval), stop := none }
    (s.setTask t).finishEnding t
  else
    s.setTask { t with
      tepc := ret, tcauseVs := t.resume.isSome, tcauseCode := BitVec.ofNat 10 cause, tval := tval, tin := true,
      pc := (t.tvec ++ (0 : BitVec 3) : BitVec 56), wait := none, stallSince := none }

/-- Takes a cause delivered to the task precisely: a class 7 cause also goes to the keeper's error log (R198, R414). -/
def State.takeTrap (s : State) (t : Task) (cause : Nat) (tval : Word) (ret : BitVec 56) : State :=
  (s.logDues [(cause, tval)]).enterTrap t cause tval ret

/-- The loop records that hold an address: the outermost record whose body excludes it is popped with every record inside
it (R246). -/
def keepLoops (l : List LoopRec) (a : BitVec 56) : List LoopRec :=
  l.reverse.takeWhile (fun r => decide (r.start.toNat ≤ a.toNat) && decide (a.toNat < r.stop.toNat)) |>.reverse

/-- Returns from a handler: tmask.IN becomes 0, the loops that exclude tepc are popped, and execution continues at tepc
(R203, R246). -/
def Task.trapReturn (t : Task) : Task :=
  let l := keepLoops t.loops t.tepc
  { t with tin := false, pc := t.tepc, loops := l, lbuf := if l.isEmpty then [] else t.lbuf, lbad := if l.isEmpty then [] else t.lbad }

/-- A stop is asked for of a task now; one that has been asked for before stands, with its time (R185, R191). -/
def Task.askStop (t : Task) (why : StopFor) (now : Nat) : Task :=
  { t with stop := some (t.stop.getD why), stopAt := if t.stop.isSome then t.stopAt else now }

/-- What a stalled instruction waits for, with that instruction. -/
def WaitFor.named (i : Instr) : WaitFor → WaitFor
  | .condition _ => .condition (some i)
  | .jobs _ ids => .jobs (some i) ids
  | w => w

/-- Delivers an early end of the current instruction: a trap at that instruction, a request to swap the task for a
translation fault (R152, R189), or a stall (DEDUCED, log 64). -/
def State.deliver (s : State) (t : Task) (i : Instr) : Stop → State
  | .trap c v =>
    s.takeTrap t c v (if c = cSWTRAP then t.pc + BitVec.ofNat 56 (ilen i) else t.pc)
  | .page c a => s.setTask (t.askStop (.fault c a) s.cycle.toNat)
  | .engine obj => s.setTask (t.askStop (.engineWait i obj) s.cycle.toNat)
  | .stall w => s.setTask { t with wait := some (w.named i), stallSince := some (t.stallSince.getD s.cycle.toNat) }

/-! ## Running an instruction word -/

/-- Whether the one lane of a q-class word is active (R208). -/
def activeQ (p : Pred) (t : Task) : Bool := t.rq p.pr != p.pn

/-- A column of the task's combs: bit `c` is cell `c` (R18). -/
def Task.col (t : Task) (c : Nat) : Nat := t.cols.getD c 0

/-- All cells of the VLC. -/
def Task.allCells (t : Task) : Nat := 2 ^ t.vlmax - 1

/-- A mask field as a set of cells; m0 reads as all ones (R208). -/
def Task.mask (t : Task) (m : Nat) : Nat := if m = 0 then t.allCells else t.col m

/-- The active cells of a per-cell word (R208): below vl, where the mask xor PN is 1. -/
def activeCells (p : Pred) (t : Task) : Nat :=
  let below := 2 ^ t.vl - 1
  if p.pn then (if p.pr = 0 then 0 else below ^^^ (below &&& t.mask p.pr)) else below &&& t.mask p.pr

/-- Whether a word has an active lane (R208, R209). -/
def laneActive (l : Lanes) (p : Pred) (t : Task) : Bool :=
  match l with
  | .q => activeQ p t
  | .cell => activeCells p t != 0
  | .whole => !p.pn

/-- The record of a task that waits no longer. -/
def Task.awake (t : Task) : Task := { t with wait := none, stallSince := none }

/-- The state `s`, with its task `id` no longer waiting and continuing after instruction `i`. -/
def State.andRetire (s : State) (i : Instr) (id : Nat) : State :=
  match s.task? id with
  | some v => s.setTask (v.awake.retire i)
  | none => s

/-- Runs a word of the current task. Without an active lane it is a no-operation (R209). Otherwise the body runs and the
instruction retires, or its early end is delivered (DESIGN CHOICE, log 72). -/
def runWord (l : Lanes) (p : Pred) (i : Instr) (s : State) (body : Task → M Unit) : Host.Outcome State Fault Refusal :=
  match s.curTask with
  | none => .fault .noTask
  | some t =>
    if laneActive l p t then
      match body t s with
      | .error e => .next (s.deliver t i e)
      | .ok (_, s') => .next (s'.andRetire i t.id)
    else .next (s.setTask (t.retire i))

/-- Runs a word that only changes the task's own record. -/
def runTask (l : Lanes) (p : Pred) (i : Instr) (s : State) (f : Task → Task) : Host.Outcome State Fault Refusal :=
  match s.curTask with
  | none => .fault .noTask
  | some t => if laneActive l p t then .next (s.setTask ((f t).retire i)) else .next (s.setTask (t.retire i))

/-- The instruction is done: the task is changed by `f` and continues after it. -/
def finishWord (i : Instr) (f : Task → Task) : M Unit :=
  modT fun t => (f t.awake).retire i

/-- Runs the step that completes an outstanding access of a task: the task is the current one meanwhile. An early end is
delivered to it as the end of instruction `i`, and the access is then outstanding no longer (R185, R200). -/
def runFor (id : Nat) (i : Instr) (s : State) (body : Task → M Unit) : Host.Outcome State Fault Refusal :=
  match s.task? id with
  | none => .next s
  | some t =>
    match body t { s with cur := some id } with
    | .error e => .next (s.deliver { t.awake with pend := none } i e)
    | .ok (_, s') => .next { s' with cur := s.cur }

/-- Runs a word whose body says itself whether it retires and where the task continues. -/
def runFlow (l : Lanes) (p : Pred) (i : Instr) (s : State) (body : Task → M Unit) : Host.Outcome State Fault Refusal :=
  match s.curTask with
  | none => .fault .noTask
  | some t =>
    if laneActive l p t then
      match body t s with
      | .error e => .next (s.deliver t i e)
      | .ok (_, s') => .next s'
    else .next (s.setTask (t.retire i))

/-- A q-class word whose body says where the task continues. -/
def runJump (p : Pred) (i : Instr) (s : State) (body : Task → M Unit) : Host.Outcome State Fault Refusal :=
  runFlow .q p i s body

end Sys2Proof.Machine
end

