-- ==== Sys2Proof/Machine/Access.lean ====
section
/-! DEFINITION. Caches, translation, handles and the accesses of a task, with the checks of R134. -/

namespace Sys2Proof.Machine

/-- Through what an access goes: the hive whose cache it uses, the ASID and level-0 table of the partition, its virtual
function, and the task that makes it. -/
structure Ctx where
  hive : Nat
  asid : Nat
  root : Nat
  vf : Nat
  task : Nat
deriving DecidableEq, Repr

/-- The context of a task. -/
def Task.ctx (t : Task) (p : Partition) : Ctx := ⟨t.hive, p.asid.toNat, p.ptroot.toNat * 4096, p.vf, t.id⟩

/-- The context in which a hive's cache writes a line of an ASID back: that of the partition that owns the hive. -/
def State.ownerCtx (s : State) (hive asid : Nat) : Ctx :=
  match s.parts.find? fun p => decide (p.firstHive ≤ hive) && decide (hive < p.firstHive + p.nHives) with
  | some p => ⟨hive, asid, p.ptroot.toNat * 4096, p.vf, 0⟩
  | none => ⟨hive, asid, 0, 0, 0⟩

/-- The HBM stack of a physical address has failed: requests to it complete as R416 states (R422, R432). -/
def State.hbmFailed (s : State) (pa : Nat) : Bool := decide (pa < Config.hbmEnd) && s.failed.getLsbD (17 + fld pa 15 3)

/-- A table entry as a walk reads it (R149); from a failed stack, all ones. -/
def State.tableEntry (s : State) (a : Nat) : Nat := if s.hbmFailed a then 2 ^ 64 - 1 else leNat (memReadN s.mem a 8)

/-- Translates an address through the TLB, else by a walk that fills it (R149) (DEDUCED, log 57) (DEDUCED, log 70). -/
def State.translate (s : State) (c : Ctx) (va : Nat) (sp : Option Space) : Except XErr (TlbEntry × State) :=
  match s.tlb.find? (·.hit c.asid va) with
  | some e =>
    if sp.isSome ∧ sp ≠ regionOf (e.frame + (va - e.page)) then .error .denied else .ok (e, s)
  | none =>
    match walk s.tableEntry c.root va sp with
    | .error x => .error x
    | .ok e => let e := { e with asid := c.asid }; .ok (e, { s with tlb := e :: s.tlb })

/-- Physical address of an address that an entry serves. -/
def TlbEntry.phys (e : TlbEntry) (va : Nat) : Nat := e.frame + (va - e.page)

/-- Whether a line holds an address for an ASID (R146). -/
def Line.serves (l : Line) (asid va : Nat) : Bool :=
  match l.key with
  | .virt g a n => (g || a == asid) && n == va / 128
  | .honey _ => false

/-- The 128 bytes of memory from an address aligned to them. -/
def State.lineAt (s : State) (pa : Nat) : List Byte := if s.hbmFailed pa then List.replicate 128 0xFF else memReadN s.mem pa 128

/-- Writes a memory byte at a physical address; the word it is in is then correctable again. -/
def State.physWrite (s : State) (pa : Nat) (b : Byte) : State :=
  if s.hbmFailed pa then s else
  { s with mem := memWrite s.mem pa b, badMem := s.badMem.filter (· != pa) }

/-- The bytes of a line that a mask marks, with their offsets. -/
def Line.dirtyBytes (l : Line) : List (Nat × Byte) := (l.bytes.zipIdx.filter fun p => bitOf l.dirty p.2).map fun p => (p.2, p.1)

/-- A line's dirty bytes go to the frame that it was filled from. -/
def State.lineToFrame (s : State) (l : Line) : State := l.dirtyBytes.foldl (fun s p => s.physWrite (l.frame + p.1) p.2) s

/-- The number of a line: its address, or its honey-store address, over 128. -/
def LineKey.number : LineKey → Nat
  | .virt _ _ n => n
  | .honey n => n

/-- The base die that homes the line of a number, for HBM (R147): bits [17:15] of its address. -/
def dieOfLine (n : Nat) : Nat := fld n 8 3

/-- A choice among `n`, free (DESIGN CHOICE, log 5). -/
def State.pick (s : State) (n : Nat) : Nat := (Config.freeWord s.fresh).toNat % n

/-- The victim of a fill into a die cache that is full: none while it has room (R16) (DESIGN CHOICE, log 5). -/
def State.dieVictim (s : State) (n : Nat) : Option Line :=
  let here := s.dieLines.filter fun l => dieOfLine l.key.number == dieOfLine n
  if here.length < Config.dieCacheLines then none else here[s.pick here.length]?

/-- A line enters its home die cache; where that is full, a victim's dirty bytes go to memory and it leaves (R16). -/
def State.putDieLine (s : State) (l : Line) : State :=
  match s.dieVictim l.key.number with
  | none => { s with dieLines := l :: s.dieLines }
  | some v =>
    let s := { s with fresh := s.fresh + 1 }.lineToFrame v
    { s with dieLines := l :: s.dieLines.filter (·.key ≠ v.key) }

/-- The home die cache's line of an address, filled from memory when it is missing (R145, R147). -/
def State.dieLine (s : State) (c : Ctx) (va : Nat) : Except XErr (Line × State) :=
  match s.dieLines.find? (·.serves c.asid va) with
  | some l => .ok (l, s)
  | none =>
    match s.translate c va (some .hbm) with
    | .error x => .error x
    | .ok (e, s) =>
      let f := e.phys va / 128 * 128
      let l : Line := { key := .virt e.glob c.asid (va / 128), bytes := s.lineAt f, dirty := 0, leaf := e.leaf,
                        frame := f, writers := [] }
      .ok (l, s.putDieLine l)

/-- The first of 128 bytes of a frame that SECDED cannot correct. -/
def State.badIn (s : State) (frame : Nat) : Option Nat := (List.range 128).find? fun i => s.badMem.contains (frame + i)

/-- A speculative fill of a home die cache: nothing where the page is NS or cannot be translated (R148), nor where a byte is
uncorrectable, which only the error log records (R200), nor where the cache is full (DESIGN CHOICE, log 5). -/
def State.fillDie (s : State) (c : Ctx) (va : Nat) : State :=
  match s.dieLines.find? (·.serves c.asid va) with
  | some _ => s
  | none =>
    match (if (s.dieVictim (va / 128)).isSome then .error .unmapped else s.dieLine c va) with
    | .error _ => s
    | .ok (l, s') =>
      if l.leaf.ns then s
      else match s.badIn l.frame with
        | some k => s.hostCause cHBMUE (w64 (va / 128 * 128 + k))
        | none => s'

/-- A line of HBM as a fill finds it, while no cache changes: the home die cache's, or that of memory. -/
def State.peekLine (s : State) (c : Ctx) (va : Nat) : Except XErr Line :=
  match s.dieLines.find? (·.serves c.asid va) with
  | some l => .ok l
  | none =>
    match s.translate c va (some .hbm) with
    | .error x => .error x
    | .ok (e, _) =>
      let f := e.phys va / 128 * 128
      .ok { key := .virt e.glob c.asid (va / 128), bytes := s.lineAt f, dirty := 0, leaf := e.leaf, frame := f, writers := [] }

/-- The first byte of a line that SECDED cannot correct: one of its clean bytes, uncorrectable in memory. -/
def State.badClean (s : State) (l : Line) : Option Nat :=
  (List.range 128).find? fun i => !bitOf l.dirty i && s.badMem.contains (l.frame + i)

/-- Sets one byte of a line, dirty or not. -/
def Line.setByte (l : Line) (i : Nat) (b : Byte) (dirty : Bool) : Line :=
  { l with bytes := l.bytes.set i b, dirty := if dirty then l.dirty ||| 2 ^ i else l.dirty }

/-- Replaces the die-cache line with the same tag. -/
def State.setDieLine (s : State) (l : Line) : State :=
  { s with dieLines := s.dieLines.map fun k => if k.key = l.key then l else k }

/-- Writes one byte into the home die cache (R145). -/
def State.dieWrite (s : State) (c : Ctx) (va : Nat) (b : Byte) : Except XErr State :=
  match s.dieLine c va with
  | .error x => .error x
  | .ok (l, s) => .ok (s.setDieLine (l.setByte (va % 128) b true))

/-- Writes a hive-cache line's dirty bytes back to the home die cache; only the dirty bytes are written (R146). -/
def State.writeBackTo (s : State) (c : Ctx) (base : Nat) : List (Nat × Byte) → Except XErr State
  | [] => .ok s
  | (i, b) :: r =>
    match s.dieWrite c (base + i) b with
    | .error x => .error x
    | .ok s => writeBackTo s c base r

/-- Writes back the dirty bytes of a hive's line, and then drops it or keeps it clean; one whose clean bytes an acquire made
invalid leaves. A honey-store line is clean. -/
def State.cleanHiveLine (s : State) (c : Ctx) (l : Line) (drop : Bool) : Except XErr State :=
  match l.key with
  | .honey _ => .ok (if drop then { s with hiveLines := s.hiveLines.filter fun k => !(k.1 == c.hive && k.2.key = l.key) } else s)
  | .virt _ a n =>
    match s.writeBackTo { c with asid := a } (n * 128) l.dirtyBytes with
    | .error x => .error x
    | .ok s =>
      .ok { s with hiveLines :=
        if drop || l.stale then s.hiveLines.filter fun k => !(k.1 == c.hive && k.2.key = l.key)
        else s.hiveLines.map fun k => if k.1 == c.hive && k.2.key = l.key then (k.1, { k.2 with dirty := 0, writers := [] }) else k }

/-- The victim of a fill into the set of a hive's cache: none while a way is free (R21) (DESIGN CHOICE, log 5). -/
def State.hiveVictim (s : State) (hive n : Nat) : Option Line :=
  let here := s.hiveLines.filter fun k => k.1 == hive && k.2.key.number % Config.hiveSets == n % Config.hiveSets
  if here.length < Config.hiveWays then none else (here[s.pick here.length]?).map (·.2)

/-- A line leaves a hive's cache to make room: its dirty bytes go to their home die cache (R145, R159), or, where they cannot be
translated any more, to the frame that the line was filled from (DESIGN CHOICE, log 5). -/
def State.evictHive (s : State) (hive : Nat) (l : Line) : State :=
  match s.cleanHiveLine (s.ownerCtx hive (match l.key with | .virt _ a _ => a | .honey _ => 0)) l true with
  | .ok s => s
  | .error _ => { s.lineToFrame l with hiveLines := s.hiveLines.filter fun k => !(k.1 == hive && k.2.key = l.key) }

/-- A line enters a hive's cache, in a way of its set (R21). -/
def State.putHiveLine (s : State) (hive : Nat) (l : Line) : State :=
  let s := match s.hiveVictim hive l.key.number with
    | none => s
    | some v => { s with fresh := s.fresh + 1 }.evictHive hive v
  { s with hiveLines := (hive, l) :: s.hiveLines }

/-- A line enters a hive's instruction cache, in a way of its set; a victim there is clean (R21) (DESIGN CHOICE, log 5). -/
def State.putIcLine (s : State) (hive : Nat) (l : Line) : State :=
  let here := s.icLines.filter fun k => k.1 == hive && k.2.key.number % Config.icSets == l.key.number % Config.icSets
  let s := if here.length < Config.icWays then s else
    match here[s.pick here.length]? with
    | none => s
    | some (_, v) => { s with fresh := s.fresh + 1, icLines := s.icLines.filter fun k => !(k.1 == hive && k.2.key = v.key) }
  { s with icLines := (hive, l) :: s.icLines }

/-- The line that serves an address in a hive's cache. -/
def State.hiveHit (s : State) (c : Ctx) (va : Nat) : Option Line :=
  (s.hiveLines.find? fun k => k.1 == c.hive && k.2.serves c.asid va).map (·.2)

/-- Replaces a hive's line with the same tag. -/
def State.setHiveLine (s : State) (hive : Nat) (l : Line) : State :=
  { s with hiveLines := s.hiveLines.map fun k => if k.1 == hive && k.2.key = l.key then (k.1, l) else k }

/-- The hive's line of an address, filled from its home die cache when it is missing (R145). -/
def State.hiveLine (s : State) (c : Ctx) (va : Nat) : Except XErr (Line × State) :=
  match s.hiveHit c va with
  | some l => .ok (l, s)
  | none =>
    match s.dieLine c va with
    | .error x => .error x
    | .ok (l, s) =>
      let h := { l with dirty := 0, writers := [], stale := false }
      .ok (h, s.putHiveLine c.hive h)

/-- The clean bytes of a line come anew from its home die cache. -/
def Line.refreshed (l : Line) (d : Line) : Line :=
  { l with bytes := l.bytes.zipIdx.map (fun x => if bitOf l.dirty x.2 then x.1 else d.bytes.getD x.2 0), stale := false }

/-- The hive's line of an address as a read of it finds it: a clean byte that an acquire has made invalid is fetched anew, with
every clean byte of its line (R163). -/
def State.freshLine (s : State) (c : Ctx) (va : Nat) : Except XErr (Line × State) :=
  match s.hiveLine c va with
  | .error x => .error x
  | .ok (l, s) =>
    if l.stale && !bitOf l.dirty (va % 128) then
      match s.dieLine c va with
      | .error x => .error x
      | .ok (d, s) => .ok (l.refreshed d, s.setHiveLine c.hive (l.refreshed d))
    else .ok (l, s)

/-- Writes a die-cache line's dirty bytes to memory through the translation, and drops or keeps the line (R164, R266). -/
def State.cleanDieLine (s : State) (c : Ctx) (l : Line) (drop : Bool) : Except XErr State :=
  match l.key with
  | .honey _ => .ok s
  | .virt _ a n =>
    let keep (s : State) : State :=
      { s with dieLines := if drop then s.dieLines.filter (·.key ≠ l.key)
        else s.dieLines.map fun k => if k.key = l.key then { k with dirty := 0, writers := [] } else k }
    if l.dirty = 0 then .ok (keep s)
    else match s.translate { c with asid := a } (n * 128) (some .hbm) with
      | .error x => .error x
      | .ok (e, s) => .ok (keep (l.dirtyBytes.foldl (fun s p => s.physWrite (e.phys (n * 128) + p.1) p.2) s))

/-- The leaf bits that an access to HBM is checked against: those of the hive-cache line, of the die-cache line, or of the
translation (R146, R153). -/
def State.leafFor (s : State) (c : Ctx) (hiveToo : Bool) (va : Nat) : Except XErr (LeafBits × State) :=
  match (if hiveToo then s.hiveHit c va else none) with
  | some l => .ok (l.leaf, s)
  | none =>
    match s.dieLines.find? (·.serves c.asid va) with
    | some l => .ok (l.leaf, s)
    | none =>
      match s.translate c va (some .hbm) with
      | .error x => .error x
      | .ok (e, s) => .ok (e.leaf, s)

/-- A byte of a line and whether SECDED fails on it: it is uncorrectable in memory and not dirty in the cache (R200); of a stack that has
failed it reads as all ones (R416, R432). -/
def State.lineByte (s : State) (l : Line) (i : Nat) : Byte × Bool :=
  let bad := !bitOf l.dirty i && s.badMem.contains (l.frame + i)
  if bad && s.hbmFailed (l.frame + i) then (0xFF, false) else (l.bytes.getD i 0, bad)

/-- The hive's line of an address is written back and dropped, so that the access reaches the home point. -/
def State.dropHive (s : State) (c : Ctx) (va : Nat) : Except XErr State :=
  match s.hiveHit c va with
  | some l => s.cleanHiveLine c l true
  | none => .ok s

/-- The die cache's line of an address is written back and dropped (R164). -/
def State.dropDie (s : State) (c : Ctx) (va : Nat) : Except XErr State :=
  match s.dieLines.find? (·.serves c.asid va) with
  | some l => s.cleanDieLine c l true
  | none => .ok s

/-- The policy code of a barrier area in a handle: it is policy 2 whatever the leaf names (R145). -/
def barPolicy : Nat := 4

/-- The policy of an access to HBM: the larger of the handle's and the leaf's, but 2 in a barrier area (R145). -/
def effPolicy (pol cp : Nat) : Nat := if pol = barPolicy then 2 else max pol cp

/-- Reads one byte of HBM (R145, R158 to R161): policy `pol`; `point` when the access is performed at the home point
(strong at a scope beyond the hive), `ctrl` when at the memory controller. Also whether the byte is uncorrectable. -/
def State.hbmRead (s : State) (c : Ctx) (pol : Nat) (point ctrl : Bool) (acc : Acc) (va : Nat) :
    Except XErr ((Byte × Bool) × State) :=
  match s.leafFor c (pol ≤ 1 && !point) va with
  | .error x => .error x
  | .ok (lf, s) =>
    if !lf.allows acc then .error .denied
    else
      let eff := effPolicy pol lf.cp
      if eff ≤ 1 ∧ ¬point ∧ ¬ctrl then
        match s.freshLine c va with
        | .error x => .error x
        | .ok (l, s) => .ok (s.lineByte l (va % 128), s)
      else
        match s.dropHive c va with
        | .error x => .error x
        | .ok s =>
          if 3 ≤ eff ∨ ctrl then
            match s.dropDie c va with
            | .error x => .error x
            | .ok s =>
              match s.translate c va (some .hbm) with
              | .error x => .error x
              | .ok (e, s) => .ok (if s.hbmFailed (e.phys va) then ((0xFF, false), s) else ((memRead s.mem (e.phys va), s.badMem.contains (e.phys va)), s))
          else
            match s.dieLine c va with
            | .error x => .error x
            | .ok (l, s) => .ok (s.lineByte l (va % 128), s)

/-- Writes one byte of HBM where its policy performs it (R145): dirty in the hive cache for WB, through to the die cache
for WT, in the die cache for DC and for accesses performed at the home point, in memory for UC. -/
def State.hbmWrite (s : State) (c : Ctx) (pol : Nat) (point ctrl : Bool) (acc : Acc) (va : Nat) (b : Byte) :
    Except XErr State :=
  match s.leafFor c (pol ≤ 1 && !point) va with
  | .error x => .error x
  | .ok (lf, s) =>
    if !lf.allows acc then .error .denied
    else
      let eff := effPolicy pol lf.cp
      if eff = 0 ∧ ¬point ∧ ¬ctrl then
        match s.hiveLine c va with
        | .error x => .error x
        | .ok (l, s) =>
          .ok (s.setHiveLine c.hive
            { l.setByte (va % 128) b true with writers := if l.writers.contains c.task then l.writers else c.task :: l.writers })
      else if eff = 1 ∧ ¬point ∧ ¬ctrl then
        match s.dieWrite c va b with
        | .error x => .error x
        | .ok s =>
          .ok (match s.hiveHit c va with
            | some l => s.setHiveLine c.hive (l.setByte (va % 128) b false)
            | none => s)
      else
        match s.dropHive c va with
        | .error x => .error x
        | .ok s =>
          if 3 ≤ eff ∨ ctrl then
            match s.dropDie c va with
            | .error x => .error x
            | .ok s =>
              match s.translate c va (some .hbm) with
              | .error x => .error x
              | .ok (e, s) => .ok (s.physWrite (e.phys va) b)
          else s.dieWrite c va b

/-- Reads one honey-store byte through the hive cache (R137), and whether it is uncorrectable; of a store that is not ready, all ones
(R432). -/
def State.honeyRead (s : State) (hive a : Nat) (cached : Bool) : (Byte × Bool) × State :=
  if !s.ready.getLsbD 25 then ((0xFF, false), s)
  else if !cached then ((memRead s.honey a, s.badHoney.contains a), s)
  else match s.hiveLines.find? (fun k => k.1 == hive && k.2.key = .honey (a / 128)) with
    | some (_, l) => ((l.bytes.getD (a % 128) 0, s.badHoney.contains a), s)
    | none =>
      let l : Line := { key := .honey (a / 128), bytes := memReadN s.honey (a / 128 * 128) 128, dirty := 0,
                        leaf := ⟨true, false, false, false, 0⟩, frame := a / 128 * 128, writers := [] }
      ((l.bytes.getD (a % 128) 0, s.badHoney.contains a), s.putHiveLine hive l)

/-- The port that an outbound physical address leaves on (R139, R150): 8 is the host port. -/
def portOf (pa : Nat) : Nat := if pa < Config.poolBase then 8 else fld pa 45 3

/-- The partner on a port answers no request in time (R416). -/
def State.portMute (s : State) (p : Nat) : Bool :=
  match s.ports.toArray[p]? with
  | some q => q.mute
  | none => false

/-- A request on a port is answered. -/
def State.portAnswers (s : State) (p : Nat) : Bool := s.portLive p && !s.portMute p

/-- A request on a port that does not answer sets its DOWN bit and delivers INTEG.LINK, once for each event (R416). -/
def State.portRefused (s : State) (port : Nat) : State :=
  match s.ports.toArray[port]? with
  | none => s
  | some q =>
    if q.told then s
    else { s.hostCause cLINK (w64 port) with ports := s.ports.setIfInBounds port { q with down := true, told := true } }

/-- The requester of a partition's accesses on a port: its virtual function on the host port, the port's own function on a peer
port (R415). -/
def Ctx.requester (c : Ctx) (port : Nat) : Nat := if port = 8 then c.vf else 0

/-- The address that a TLP carries: PA[47:0] on the host port, PA[44:0] on a peer port (R415). -/
def tlpAddr (pa : Nat) : Nat := if portOf pa = 8 then pa % 2 ^ 48 else pa % 2 ^ 45

/-- A byte of a memory TLP leaves the device (R415). -/
def State.sendMemory (s : State) (c : Ctx) (pa : Nat) (data : Option Byte) : State :=
  s.send (.memory (portOf pa) (c.requester (portOf pa)) (tlpAddr pa) data)

/-- Reads one byte of POOL or HOST space; all ones when the port does not answer, or not in time (R415, R416). -/
def State.remoteRead (s : State) (c : Ctx) (sp : Space) (acc : Acc) (va : Nat) : Except XErr (Byte × State) :=
  match s.translate c va (some sp) with
  | .error x => .error x
  | .ok (e, s) =>
    let pa := e.phys va
    if !e.leaf.allows acc then .error .denied
    else if s.portLive (portOf pa) then
      .ok (if s.portMute (portOf pa) then 0xFF else memRead s.mem pa, s.sendMemory c pa none)
    else .ok (0xFF, s.portRefused (portOf pa))

/-- An AtomicOp on POOL or HOST space (R139, R415): one request, made by its completer, with the new value that `f` gives of the old one. A
port that does not answer, or not in time, gives all ones, and nothing is performed (R416). -/
def State.remoteAtomic (s : State) (c : Ctx) (sp : Space) (op : Nat) (w4 : Bool) (va : Nat) (b cmp : Word) (f : Nat → Option Nat) :
    Except XErr (Nat × State) :=
  let n := if w4 then 4 else 8
  match s.translate c va (some sp) with
  | .error x => .error x
  | .ok (e, s) =>
    let pa := e.phys va
    if !e.leaf.allows .atomic then .error .denied
    else if s.portLive (portOf pa) then
      let s := s.send (.atomicOp (portOf pa) (c.requester (portOf pa)) op w4 (tlpAddr pa) b cmp)
      if s.portMute (portOf pa) then .ok (2 ^ (8 * n) - 1, s)
      else
        let old := leNat (memReadN s.mem pa n)
        .ok (old, match f old with
          | some v => (leBytes n v).zipIdx.foldl (fun s x => s.physWrite (pa + x.2) x.1) s
          | none => s)
    else .ok (2 ^ (8 * n) - 1, s.portRefused (portOf pa))

/-- Writes one byte of POOL or HOST space; dropped when the port does not answer, or not in time (R415, R416). -/
def State.remoteWrite (s : State) (c : Ctx) (sp : Space) (acc : Acc) (va : Nat) (b : Byte) : Except XErr State :=
  match s.translate c va (some sp) with
  | .error x => .error x
  | .ok (e, s) =>
    let pa := e.phys va
    if !e.leaf.allows acc then .error .denied
    else if s.portLive (portOf pa) then
      let s' := s.sendMemory c pa (some b)
      .ok (if s.portMute (portOf pa) then s' else s'.physWrite pa b)
    else .ok (s.portRefused (portOf pa))

/-! ## The task's own cells as COMBLIN space (R138) -/

/-- Sets a bit of a number. -/
def putBit (n i : Nat) (b : Bool) : Nat := if bitOf n i = b then n else n ^^^ 2 ^ i

/-- Writes a data column; the parity column of its group follows (R18). Column 0 is held at 1 (R19). -/
def Task.setCol (t : Task) (c v : Nat) : Task :=
  if c = 0 then t
  else { t with cols := t.cols.set c v, par := t.par.set (c / 32) ((t.par.getD (c / 32) 0) ^^^ t.col c ^^^ v) }

/-- Writes one bit of one cell of a column. -/
def Task.setCell (t : Task) (c cell : Nat) (b : Bool) : Task :=
  if bitOf (t.col c) cell = b then t else t.setCol c (putBit (t.col c) cell b)

/-- The bits of `n` columns from `base` in one cell, the first lowest. -/
def Task.cellBits (t : Task) (base cell : Nat) : Nat → Nat
  | 0 => 0
  | n + 1 => b2n (bitOf (t.col base) cell) + 2 * t.cellBits (base + 1) cell n

/-- Writes the bits of `n` columns from `base` in one cell. -/
def Task.setCellBits (base cell : Nat) : Nat → Nat → Task → Task
  | 0, _, t => t
  | n + 1, v, t => setCellBits (base + 1) cell n (v / 2) (t.setCell base cell (v % 2 == 1))

/-- A byte of COMBLIN space: columns 8b to 8b + 7 of element ⌊a / 32⌋ (R138). -/
def Task.combRead (t : Task) (a : Nat) : Byte := BitVec.ofNat 8 (t.cellBits (8 * (a % 32)) (a / 32) 8)

/-- Writes a byte of COMBLIN space (R138). -/
def Task.combWrite (t : Task) (a : Nat) (b : Byte) : Task := Task.setCellBits (8 * (a % 32)) (a / 32) 8 b.toNat t

/-- Whether R138 makes a COMBLIN byte read-only: masks and sequencer scratch. -/
def combReadOnly (a : Nat) : Bool := a % 32 == 0 || decide (27 ≤ a % 32)

/-! ## Handles (R132 to R134) -/

/-- The entry that 32 bytes hold, if it passes check 1 of R134. -/
def Handle.of (b : List Byte) : Option Handle :=
  let g (i n : Nat) := leNat ((b.drop i).take n)
  let sp : Option Space := match g 16 1 with
    | 1 => some .hbm | 2 => some .honey | 3 => some .comblin | 4 => some .pool | 5 => some .host | _ => none
  match sp with
  | none => none
  | some sp =>
    if g 0 8 < 2 ^ 56 ∧ g 8 8 ≠ 0 ∧ g 8 8 ≤ 2 ^ 56 ∧ g 17 1 < 16 ∧ g 18 1 < 4 ∧ g 19 1 < 2 ∧ g 20 12 = 0 then
      some { base := g 0 8, bound := g 8 8, space := sp, r := bitOf (g 17 1) 0, w := bitOf (g 17 1) 1, x := bitOf (g 17 1) 2,
             a := bitOf (g 17 1) 3, policy := if g 19 1 = 1 then barPolicy else g 18 1, bar := g 19 1 == 1 }
    else none

/-- Reads bytes of HBM one after another. -/
def State.hbmReadN (s : State) (c : Ctx) (pol : Nat) (point ctrl : Bool) (acc : Acc) (va : Nat) :
    Nat → Except XErr ((List Byte × Bool) × State)
  | 0 => .ok (([], false), s)
  | n + 1 =>
    match s.hbmRead c pol point ctrl acc va with
    | .error x => .error x
    | .ok ((b, u), s) =>
      match hbmReadN s c pol point ctrl acc (va + 1) n with
      | .error x => .error x
      | .ok ((bs, us), s) => .ok ((b :: bs, u || us), s)

/-- Entry `k` of the partition's handle table: the hive's copy, or read from HBM through the translation and kept; nothing
when it cannot be read or is invalid (R132, R133). -/
def State.handle? (s : State) (c : Ctx) (p : Partition) (k : Nat) : Option Handle × State :=
  match s.handles.find? (fun e => e.hive == c.hive && e.vf == p.vf && e.k == k) with
  | some e => (some e.entry, s)
  | none =>
    match s.hbmReadN c 2 false false .read (p.hbase.toNat * 8192 + 32 * k) 32 with
    | .error _ => (none, s)
    | .ok ((b, _), s) =>
      match Handle.of b with
      | none => (none, s)
      | some h => (some h, { s with handles := ⟨c.hive, p.vf, k, h⟩ :: s.handles })

/-- Check 1 of R134: the entry of handle `k`, or MEM.HINV with the handle number. -/
def useHandle (k : Nat) : M Handle := do
  let t ← getT
  let p ← getP
  let s ← getS
  match s.handle? (t.ctx p) p k with
  | (some h, s) => do setS s; pure h
  | (none, _) => trap cHINV (w64 k)

/-- The address of an offset in a handle's space (R134). -/
def Handle.addr (h : Handle) (o : Nat) : Nat := (h.base + o) % 2 ^ 56

/-- Check 2 of R134: the bound, the honey store's end and the VLC's end. -/
def checkBound (h : Handle) (o n : Nat) : M Unit := do
  let t ← getT
  let a := h.addr o
  let out := decide (h.bound < o + n) ||
    (match h.space with
     | .honey => decide (Config.honeyEnd < a + max n 1)
     | .comblin => decide (t.vlmax * 32 < a + max n 1)
     | _ => false)
  check (!out) cHBOUND (w64 o)

/-- Reads of the honey store, and HSWR, need READY.HONEY; before it is set they raise MEM.HBOUND (R422). When it clears in use they
complete without a fault (R432). -/
def honeyUsable (h : Handle) (o : Nat) : M Unit := do
  let s ← getS
  check (h.space ≠ .honey || s.everReady.getLsbD 25) cHBOUND (w64 o)

/-- Checks 3 of R134: the handle's permission, and no atomic in HONEY or COMBLIN (R164). -/
def checkPerm (h : Handle) (acc : Acc) (a : Nat) : M Unit :=
  let ok := match acc with
    | .read => h.r
    | .write => h.w
    | .fetch => h.x
    | .look => h.w
    | .atomic => h.a && h.space ≠ .honey && h.space ≠ .comblin
  check ok cPROT (w64 a)

/-- An error on the way to memory, as the task's own access meets it: a translation fault, or MEM.PROT (R152, R153). -/
def raiseX {α : Type} (x : XErr) (acc : Acc) (a : Nat) : M α :=
  match x with
  | .unmapped => stopWith (.page (match acc with | .read => cLPF | .fetch => cIPF | _ => cSPF) a)
  | .denied => trap cPROT (w64 a)

/-- Runs an access that may fail on its way to memory. -/
def liftX {α : Type} (acc : Acc) (a : Nat) (f : State → Except XErr (α × State)) : M α := do
  let s ← getS
  match f s with
  | .error x => raiseX x acc a
  | .ok (v, s) => do setS s; pure v

/-- Checks 7 and 8 of R134 at one address: a leaf that allows the access. -/
def probe (h : Handle) (acc : Acc) (a : Nat) : M Unit := do
  let t ← getT
  let p ← getP
  match h.space with
  | .hbm => liftX acc a fun s =>
      match s.leafFor (t.ctx p) (h.policy ≤ 1) a with
      | .error x => .error x
      | .ok (l, s) => if l.allows acc then .ok ((), s) else .error .denied
  | .pool | .host => liftX acc a fun s =>
      match s.translate (t.ctx p) a (some h.space) with
      | .error x => .error x
      | .ok (e, s) => if e.leaf.allows acc then .ok ((), s) else .error .denied
  | _ => pure ()

/-- Addresses at which a range enters another line's page: its first byte, and each multiple of 64 KiB inside. -/
def pageStarts (a n : Nat) : List Nat :=
  a :: (List.range ((a + n - 1) / 65536 - a / 65536)).map fun i => (a / 65536 + 1 + i) * 65536

/-- Checks 7 and 8 over every page of a range. -/
def probeAll (h : Handle) (acc : Acc) : List Nat → M Unit
  | [] => pure ()
  | a :: r => do probe h acc (a % 2 ^ 56); probeAll h acc r

/-- Checks 5 and 6 of R134: no write to HONEY, no write to a read-only COMBLIN byte. -/
def checkWritable (h : Handle) (a n : Nat) : M Unit := do
  check (h.space ≠ .honey) cHONEYWR (w64 a)
  check (!(h.space = .comblin && (List.range n).any fun i => combReadOnly (a + i))) cROWRITE (w64 a)

/-- The checks 2 to 8 of R134 for `n` bytes at offset `o` of a handle that passed check 1, with alignment `al`; the address
in the handle's space. -/
def checkAccess (h : Handle) (o n : Nat) (acc : Acc) (al : Nat) : M Nat := do
  let a := h.addr o
  checkBound h o n
  if acc = .read then honeyUsable h o
  checkPerm h acc a
  check (a % al == 0) cALIGN (w64 a)
  if acc = .write ∨ acc = .atomic then checkWritable h a n
  if n = 0 then pure () else probeAll h acc (pageStarts a n)
  pure a

/-- Whether a honey-store read must wait: its bank group is refreshing and the hive cache does not hold the line (R31,
R137) (DEDUCED, log 56). -/
def State.honeyHeld (s : State) (hive a : Nat) : Bool :=
  s.refreshing == some (fld a 12 4) && !(s.hiveLines.any fun k => k.1 == hive && k.2.key = .honey (a / 128))

/-- Whether a read of `n` honey-store bytes past the hive cache runs into the bank group that refreshes (R30, R31). -/
def State.bankHeld (s : State) (a n : Nat) : Bool :=
  match s.refreshing with
  | none => false
  | some g => (List.range n).any fun k => fld (a + k) 12 4 == g

/-- Reads one byte of a space, and whether it is uncorrectable. A read at the home point bypasses the hive cache. -/
def readByte (h : Handle) (point ctrl : Bool) (acc : Acc) (a : Nat) : M (Byte × Bool) := do
  let t ← getT
  let p ← getP
  match h.space with
  | .hbm => liftX acc a fun s => s.hbmRead (t.ctx p) h.policy point ctrl acc a
  | .honey => fun s => let (r, s) := s.honeyRead t.hive a !point; .ok (r, s)
  | .comblin => pure (t.combRead a, false)
  | sp => do
    let b ← liftX acc a fun s => s.remoteRead (t.ctx p) sp acc a
    pure (b, false)

/-- Reads bytes of a space, each with whether it is uncorrectable. -/
def readBytes (h : Handle) (point ctrl : Bool) (acc : Acc) : Nat → Nat → M (List (Byte × Bool))
  | _, 0 => pure []
  | a, n + 1 => do
    let b ← readByte h point ctrl acc (a % 2 ^ 56)
    let bs ← readBytes h point ctrl acc (a + 1) n
    pure (b :: bs)

/-- The bytes without their marks. -/
def bytesOf (l : List (Byte × Bool)) : List Byte := l.map (·.1)

/-- Whether some byte is uncorrectable. -/
def anyBad (l : List (Byte × Bool)) : Bool := l.any (·.2)

/-- Raises INTEG.HONEYECC or INTEG.HBMUE precisely, at the first failing byte (R200). -/
def raiseBad (h : Handle) (a : Nat) (l : List (Byte × Bool)) : M Unit :=
  check (!anyBad l) (if h.space = .honey then cHONEYECC else cHBMUE) (w64 (a + l.findIdx (·.2)))

/-- Writes one byte of a space where its policy performs it. -/
def writeByte (h : Handle) (point ctrl : Bool) (acc : Acc) (a : Nat) (b : Byte) : M Unit := do
  let t ← getT
  let p ← getP
  match h.space with
  | .hbm => liftX acc a fun s =>
      match s.hbmWrite (t.ctx p) h.policy point ctrl acc a b with
      | .error x => .error x
      | .ok s => .ok ((), s)
  | .honey => pure ()
  | .comblin => modT fun t => t.combWrite a b
  | sp => liftX acc a fun s =>
      match s.remoteWrite (t.ctx p) sp acc a b with
      | .error x => .error x
      | .ok s => .ok ((), s)

/-- Writes bytes of a space. -/
def writeBytes (h : Handle) (point ctrl : Bool) (acc : Acc) : Nat → List Byte → M Unit
  | _, [] => pure ()
  | a, b :: bs => do
    writeByte h point ctrl acc (a % 2 ^ 56) b
    writeBytes h point ctrl acc (a + 1) bs

/-! ## Store queues (R157, R158) -/

/-- The slice of an address: bits [17:12] (R147, R157). -/
def sliceOf (a : Nat) : Nat := fld a 12 6

/-- Performs one store where its policy says; nothing when it cannot be translated now. -/
def State.performEntry (s : State) (t : Task) (p : Partition) (e : StoreEntry) : Option State :=
  let point := match e.strong with
    | none => false
    | some .hive => false
    | some _ => true
  let c := t.ctx p
  let rec go (s : State) (a : Nat) : List Byte → Option State
    | [] => some s
    | b :: bs =>
      match (match e.space with
        | .hbm => s.hbmWrite c e.policy point false .write a b
        | .pool => s.remoteWrite c .pool .write a b
        | .host => s.remoteWrite c .host .write a b
        | _ => .ok s) with
      | .error _ => none
      | .ok s => go s (a + 1) bs
  go s e.addr e.bytes

/-- Performs entry `n` of a task's store queues, if no older store of the same agent to the same slice stands before it
(R157), and counts it down in ocst when it counts there. -/
def State.performStore (s : State) (id n : Nat) : Option State :=
  match s.task? id with
  | none => none
  | some t =>
    match t.stores[n]?, s.part? t.vf with
    | some e, some p =>
      if (t.stores.take n).any (fun o => o.agent == e.agent && sliceOf o.addr == sliceOf e.addr) then none
      else match s.performEntry t p e with
        | none => none
        | some s =>
          match s.task? id with
          | none => none
          | some t => some (s.setTask { t with stores := t.stores.eraseIdx n, ocst := if e.counts then t.ocst - 1 else t.ocst })
    | _, _ => none

/-- Performs the oldest stores of a task, at most `fuel` of them, as long as they can be performed. -/
def State.drainStores (id : Nat) : Nat → State → State
  | 0, s => s
  | k + 1, s =>
    match s.performStore id 0 with
    | none => s
    | some s => drainStores id k s

/-- Performs every store of the current task; a stall when one cannot be performed now. -/
def drainAll : M Unit := do
  let t ← getT
  modS (State.drainStores t.id t.stores.length)
  let t ← getT
  if t.stores.isEmpty then pure () else stall

/-- The latest store of an agent to a byte that is still in its queues (R158). -/
def Task.forwarded (t : Task) (agent : Nat) (sp : Space) (a : Nat) : Option Byte :=
  t.stores.foldl (fun r e =>
    if e.agent == agent && e.space = sp && decide (e.addr ≤ a) && decide (a < e.addr + e.bytes.length) then e.bytes[a - e.addr]? else r) none

/-- Bytes read, with the agent's own queued stores over them (R158) (DESIGN CHOICE, log 35). -/
def Task.overlay (t : Task) (agent : Nat) (sp : Space) : Nat → List Byte → List Byte
  | _, [] => []
  | a, b :: bs => (t.forwarded agent sp a).getD b :: t.overlay agent sp (a + 1) bs

end Sys2Proof.Machine
end

