-- ==== Sys2Proof/Machine/Hazards.lean ====
section
/-! DEFINITION. The order between a task's passes and the side-port accesses to its combs that are still to come: queued
matrix operations, forager deliveries and copies (R140); parity of the columns read (R18, R199). -/

namespace Sys2Proof.Machine

/-- A register descriptor. -/
def Task.vreg (t : Task) (n : Nat) : Option VReg := (t.regs.toArray.getD n none)

/-- The columns of a register's field. -/
def Task.regCols (t : Task) (n : Nat) : List Nat :=
  match t.vreg n with
  | some r => (List.range r.width).map (r.base + ·)
  | none => []

/-- The columns of `d` registers from one on. -/
def Task.regsCols (t : Task) (n d : Nat) : List Nat := (List.range d).flatMap fun k => t.regCols (n + k)

/-- The columns that an access to a space may read: all of them in COMBLIN. -/
def spaceReads (sp : Space) : List Nat := if sp = .comblin then List.range 256 else []

/-- The columns that an access to a space may write: in COMBLIN, those that R138 lets be written. -/
def spaceWrites (sp : Space) : List Nat := if sp = .comblin then (List.range 208).map (8 + ·) else []

/-- The columns that a queued matrix operation has still to read. -/
def MxKind.readsCols (t : Task) : MxKind → List Nat
  | .mac o => t.regsCols o.va o.d ++ (match o.b with | .comb vb _ => t.regsCols vb o.d | .honey _ => [])
  | .drain o => match o.row with | some (n, _) => t.regCols n | none => []
  | .ld _ x => spaceReads x.h.space
  | .scl h _ => spaceReads h.space
  | .contract o => spaceReads o.a.h.space ++ spaceReads o.b.h.space ++ spaceReads o.c.h.space
  | .attn o => spaceReads o.q.h.space ++ spaceReads o.pool.h.space
  | _ => []

/-- The columns that a queued matrix operation has still to write. -/
def MxKind.writesCols (t : Task) : MxKind → List Nat
  | .drain o => t.regCols o.va
  | .contract o => (List.range 40).map (216 + ·) ++ spaceWrites o.c.h.space
  | .rd _ h _ _ => spaceWrites h.space
  | .attn o => spaceWrites o.out.h.space
  | _ => []

/-- The columns that an engine job has still to read. -/
def JobKind.readsCols : JobKind → List Nat
  | .copy _ src .. => spaceReads src.space
  | .gather _ _ h _ => spaceReads h.space
  | .stream true _ _ h .. => spaceReads h.space
  | .kvapp _ _ src .. => spaceReads src.space
  | .kvevict pool .. => spaceReads pool.h.space
  | _ => []

/-- The columns that an engine job has still to write. -/
def JobKind.writesCols (t : Task) : JobKind → List Nat
  | .gather vd .. => t.regCols vd
  | .hsrd vd .. => t.regCols vd
  | .scatter _ h _ => spaceWrites h.space
  | .scata _ _ h _ => spaceWrites h.space
  | .stream false _ _ h .. => spaceWrites h.space
  | .copy dst .. => spaceWrites dst.space
  | .kvapp pool .. => spaceWrites pool.h.space
  | .kvpull pool .. => spaceWrites pool.h.space
  | _ => []

/-- The columns that accesses issued earlier have still to read. -/
def State.pendingReads (s : State) (t : Task) : List Nat :=
  (t.mx.queue.flatMap fun o => o.kind.readsCols t) ++ ((s.jobs.filter (·.task == t.id)).flatMap fun j => j.kind.readsCols)

/-- The columns that accesses issued earlier have still to write. -/
def State.pendingWrites (s : State) (t : Task) : List Nat :=
  (t.mx.queue.flatMap fun o => o.kind.writesCols t) ++ ((s.jobs.filter (·.task == t.id)).flatMap fun j => j.kind.writesCols t)

/-- Two lists of columns meet. -/
def meets (a b : List Nat) : Bool := a.any fun x => b.contains x

/-- Whether an access that reads and writes some columns must wait for one issued earlier (R140). -/
def State.columnsBusy (s : State) (t : Task) (reads writes : List Nat) : Bool :=
  let w := s.pendingWrites t
  meets reads w || meets writes w || meets writes (s.pendingReads t)

/-- Waits until the columns that an access reads and writes are free of earlier accesses. -/
def awaitColumns (reads writes : List Nat) : M Unit := do
  let t ← getT
  let s ← getS
  if s.columnsBusy t reads writes then stall

/-- The columns of `n` bytes of COMBLIN space (R138). -/
def combByteCols (a n : Nat) : List Nat := (List.range (min n 32)).flatMap fun k => (List.range 8).map fun j => 8 * ((a + k) % 32) + j

/-! ## Footprints (R170) -/

/-- A region holds an address of a space. -/
def Region.holds (r : Region) (sp : Space) (task a : Nat) : Bool :=
  r.space = sp && (sp ≠ .comblin || r.task == task) && decide ((a + 2 ^ 56 - r.first) % 2 ^ 56 < r.len)

/-- Two regions share a byte (R170). -/
def Region.overlaps (r q : Region) : Bool := r.holds q.space q.task q.first || q.holds r.space r.task r.first

/-- An earlier job that a later one waits for (R170). -/
def regionsConflict (k j : List Region) : Bool :=
  k.any fun r => j.any fun q => (r.write || q.write) && r.overlaps q

/-- Jobs that the footprint scheduler of a stack tracks: those with a set. -/
def Job.tracked (j : Job) : Bool :=
  match j.kind with
  | .hsrd .. | .kvapp .. => false
  | _ => true

/-- A job waits for an earlier one of its launch on its stack (R170). -/
def Job.waitsFor (j k : Job) : Bool :=
  k.tracked && j.tracked && k.stack == j.stack && k.vf == j.vf && k.launch == j.launch && decide (k.id < j.id) &&
    regionsConflict k.regions j.regions

/-- The jobs that a pause of some jobs holds: themselves, the later jobs of their copy engines (R374), and those that wait for one of
them (R170). -/
def State.heldBehind (s : State) (origin : Job → Bool) : List Job :=
  s.jobs.foldl (fun l k =>
    if origin k ∨ l.any (fun a => decide (a.id < k.id) && ((a.cls == .cp && k.cls == .cp && a.hive == k.hive) || k.waitsFor a)) then
      l ++ [k] else l) []

/-- The jobs that are paused or held behind a paused one. -/
def State.heldJobs (s : State) : List Job := s.heldBehind (·.paused.isSome)

/-! ## Parity (R18, R199) -/

/-- The lowest cell of the VLC in which a parity group fails. -/
def Task.groupFail (t : Task) (g : Nat) : Option Nat :=
  let x := (List.range 32).foldl (fun a k => a ^^^ t.col (32 * g + k)) (t.par.getD g 0)
  if x = 0 then none else (List.range t.vlmax).find? fun c => bitOf x c

/-- tval of INTEG.COMBPAR for a cell of the VLC and a group (R198). -/
def Task.parityTval (t : Task) (cell g : Nat) : Nat := 8 * (4096 * t.firstComb + cell) + g

/-- POISON on every register that overlaps a group (R199). -/
def Task.poisonGroup (t : Task) (g : Nat) : Task :=
  { t with regs := t.regs.map fun r => r.map fun r =>
      if r.base < 32 * g + 32 ∧ 32 * g < r.base + r.width then { r with cap := { Cap.of r.cap with poison := true }.bits } else r }

/-- The failing groups among some columns, with the value of R198 of each. -/
def Task.parityFails (t : Task) (cols : List Nat) : List (Nat × Nat) :=
  (List.range 8).filterMap fun g =>
    if cols.any fun c => c / 32 == g then (t.groupFail g).map fun c => (g, t.parityTval c g) else none

/-- A read through the side ports meets failing groups: their registers are poisoned, and INTEG.COMBPAR is raised in the task
before its next instruction (R18, R199). -/
def Task.sideParity (t : Task) (cols : List Nat) : Task :=
  let fails := t.parityFails cols
  match (fails.map (·.2)).min? with
  | none => t
  | some v => { fails.foldl (fun t f => t.poisonGroup f.1) t with combpar := t.combpar ++ [w64 v] }

/-- A side-port access of the task to columns of its combs: it waits for earlier accesses (R140), is made in linear mode
(R141), and checks the parity of what it reads. -/
def sidePort (reads writes : List Nat) : M Unit := do
  awaitColumns reads writes
  modT fun t => { t with linear := true, heldSwitch := false }.sideParity reads

/-- A read of a refreshing bank of the honey store is held until the refresh ends (R31). -/
def awaitBank (h : Handle) (a n : Nat) : M Unit := do
  let s ← getS
  if h.space = .honey && s.bankHeld a n then stall else pure ()

/-- Bytes of a space read as one access of the task, at the home point or through the hive cache: through the side ports in COMBLIN space
(R140); from a refreshing bank of the honey store only when the refresh has ended (R31). -/
def readWhole (h : Handle) (point : Bool) (a n : Nat) : M (List (Byte × Bool)) := do
  if h.space = .comblin then sidePort (combByteCols a n) []
  let t ← getT
  let s ← getS
  let held := if point then s.bankHeld a n else (List.range n).any fun k => s.honeyHeld t.hive (a + k)
  if h.space = .honey && held then stall else readBytes h point false .read a n

end Sys2Proof.Machine
end

