-- ==== Sys2Proof/Machine/Control.lean ====
section
/-! DEFINITION. Branches, hardware loops, traps and instruction prefetch: OPC 0x20 to 0x22 (R242 to R250); the fetch of
instruction words (R207, R248). -/

namespace Sys2Proof.Machine

/-! ## Fetch -/

/-- The instruction-cache line of an address, filled through the home die cache, or read past it under policy 3 (R145,
R146). The leaf needs X (R153). -/
def State.icLine (s : State) (c : Ctx) (va : Nat) : Except XErr (Line × State) :=
  match s.icLines.find? (fun k => k.1 == c.hive && k.2.serves c.asid va) with
  | some (_, l) => if l.leaf.x then .ok (l, s) else .error .denied
  | none =>
    match s.leafFor c false va with
    | .error x => .error x
    | .ok (lf, s) =>
      if !lf.x then .error .denied
      else if lf.cp = 3 then
        match s.translate c va (some .hbm) with
        | .error x => .error x
        | .ok (e, s) =>
          let f := e.phys va / 128 * 128
          let l : Line := { key := .virt e.glob c.asid (va / 128), bytes := s.lineAt f, dirty := 0,
                            leaf := e.leaf, frame := f, writers := [] }
          .ok (l, s.putIcLine c.hive l)
      else
        match s.dieLine c va with
        | .error x => .error x
        | .ok (l, s) =>
          let l := { l with writers := [] }
          .ok (l, s.putIcLine c.hive l)

/-- The 8 bytes of a word in a line, and whether SECDED fails on them (R200). -/
def State.lineWord (s : State) (l : Line) (va : Nat) : Word × Option Nat :=
  let i := va % 128
  (w64 (leNat ((l.bytes.drop i).take 8)), (List.range 8).find? fun k => !bitOf l.dirty (i + k) && s.badMem.contains (l.frame + i + k))

/-- Whether an address lies in the body of the outermost loop (R248). -/
def Task.inOuterBody (t : Task) (a : BitVec 56) : Bool :=
  match t.loops.getLast? with
  | none => false
  | some r => decide (r.start.toNat ≤ a.toNat) && decide (a.toNat < r.stop.toNat)

/-- How a fetch ends. -/
inductive Fetched where
  | word (w : Word)
  | bad (addr : Nat)
  | err (x : XErr)
deriving DecidableEq, Repr

/-- Fetches the word at an address from the instruction cache; a word of the outermost loop's body is captured (R248). -/
def State.fetchCached (s : State) (t : Task) (p : Partition) (a : BitVec 56) (body : Bool) : Fetched × State :=
  match s.icLine (t.ctx p) a.toNat with
  | .error x => (.err x, s)
  | .ok (l, s) =>
    match s.lineWord l a.toNat with
    | (_, some k) => (.bad (a.toNat + k), s)
    | (w, none) => (.word w, if body then s.setTask { t with lbuf := (a, w) :: t.lbuf } else s)

/-- A buffered word fails its parity check: its entry is empty again. -/
def Task.dropBuffered (t : Task) (a : BitVec 56) : Task :=
  { t with lbuf := t.lbuf.filter (·.1 != a), lbad := t.lbad.filter (· != a) }

/-- Fetches the word at an address: from the loop buffer when it holds the word, else from the instruction cache (R248). A
buffered word that fails its parity check is logged as INTEG.LBPAR and refetched (R27). Inside a handler the loop buffer is not
used (R202). -/
def State.fetchWord (s : State) (t : Task) (p : Partition) (a : BitVec 56) : Fetched × State :=
  let body := t.inOuterBody a && !t.tin
  match (if body then t.lbuf.find? (·.1 == a) else none) with
  | some (_, w) =>
    if t.lbad.contains a then
      ((s.setTask (t.dropBuffered a)).hostCause cLBPAR (w64 a.toNat)).fetchCached (t.dropBuffered a) p a true
    else (.word w, s)
  | none => s.fetchCached t p a body

/-! ## Transfers -/

/-- The target of an OFF24 (R212). -/
def offTarget (t : Task) (off : BitVec 24) : BitVec 56 := t.pc + (off.signExtend 56 <<< 3)

/-- Whether an address lies outside the body of the innermost loop (R246). -/
def Task.leavesBody (t : Task) (a : BitVec 56) : Bool :=
  match t.loops with
  | [] => false
  | r :: _ => decide (a.toNat < r.start.toNat) || decide (r.stop.toNat ≤ a.toNat)

/-- Transfers control (R242, R246): the body check, then the alignment check, then the link and the new pc. -/
def jumpTo (i : Instr) (t : Task) (target : BitVec 56) (link : Nat) : M Unit := do
  check (t.tin || !t.leavesBody target) cLOOPBODY (iword i)
  check (target.toNat % 8 == 0) cALIGN (target.setWidth 64)
  setT { t.awake.ws link ((t.pc + 8).setWidth 64) with pc := target }

/-- BR (R242). -/
def execBr (p : Pred) (off : BitVec 24) (s : State) : Host.Outcome State Fault Refusal :=
  runJump p (.br p off) s fun t => jumpTo (.br p off) t (offTarget t off) 0

/-- JMP, with a link when it names a register (R242). -/
def execJmp (p : Pred) (sa link : Nat) (s : State) : Host.Outcome State Fault Refusal :=
  runJump p (.jmp p sa link) s fun t => jumpTo (.jmp p sa link) t ((t.rs sa).setWidth 56) link

/-- CALL (R242). -/
def execCall (p : Pred) (sl : Nat) (off : BitVec 24) (s : State) : Host.Outcome State Fault Refusal :=
  runJump p (.call p sl off) s fun t => jumpTo (.call p sl off) t (offTarget t off) sl

/-- RET (R242). -/
def execRet (p : Pred) (sa : Nat) (s : State) : Host.Outcome State Fault Refusal :=
  runJump p (.ret p sa) s fun t => jumpTo (.ret p sa) t ((t.rs sa).setWidth 56) 0

/-! ## Hardware loops -/

/-- LOOP and LOOPI with a count (R244). -/
def enterLoop (i : Instr) (t : Task) (lc : Nat) (count : Word) (off : BitVec 24) : M Unit := do
  let stop := offTarget t off
  check (decide (2 ≤ off.toInt) && decide (off.toInt ≤ 257)) cLOOPBODY (iword i)
  check (decide (t.loops.length < 3) && !(t.loops.any (·.lc == lc))) cLOOPDEPTH (iword i)
  check (match t.loops with | [] => true | r :: _ => decide (stop.toNat ≤ r.stop.toNat)) cLOOPBODY (iword i)
  let t := t.awake
  if count = 0 then setT ((t.wlc lc 0).seqTo stop)
  else
    setT { t.wlc lc (count - 1) with
      loops := ⟨lc, t.pc + 8, stop⟩ :: t.loops, pc := t.pc + 8, lbuf := if t.loops.isEmpty then [] else t.lbuf, lbad := if t.loops.isEmpty then [] else t.lbad }

/-- LOOP (R244). -/
def execLoop (p : Pred) (lc sa : Nat) (off : BitVec 24) (s : State) : Host.Outcome State Fault Refusal :=
  runJump p (.loop p lc sa off) s fun t => enterLoop (.loop p lc sa off) t lc (t.rs sa) off

/-- LOOPI (R244). -/
def execLoopi (p : Pred) (lc : Nat) (count : BitVec 16) (off : BitVec 24) (s : State) : Host.Outcome State Fault Refusal :=
  runJump p (.loopi p lc count off) s fun t => enterLoop (.loopi p lc count off) t lc (count.setWidth 64) off

/-- LBRK (R247): the record and every record inside it are popped; the strip does not advance. -/
def execLbrk (p : Pred) (lc : Nat) (s : State) : Host.Outcome State Fault Refusal :=
  runJump p (.lbrk p lc) s fun t =>
    match t.loops.dropWhile (·.lc != lc) with
    | [] => trap cLOOPBODY (iword (.lbrk p lc))
    | r :: rest =>
      setT ({ t.awake with
        loops := rest, lbuf := if rest.isEmpty then [] else t.lbuf, lbad := if rest.isEmpty then [] else t.lbad }.seqTo r.stop)

/-- Fills an instruction-cache line ahead of its use: nothing where its page is unmapped, NS or without X (R249), nor where a byte
is uncorrectable, which only the error log records (R200). Only the instruction cache changes, and the error log. -/
def State.prefetchLine (s : State) (c : Ctx) (va : Nat) : State :=
  if s.icLines.any fun k => k.1 == c.hive && k.2.serves c.asid va then s
  else match s.peekLine c va with
    | .error _ => s
    | .ok l =>
      if l.leaf.ns || !l.leaf.x then s
      else match s.badClean l with
        | some k => s.hostCause cHBMUE (w64 (va / 128 * 128 + k))
        | none => s.putIcLine c.hive { l with writers := [] }

/-- Fills `n` instruction-cache lines from one on (R249). -/
def State.prefetchLines (s : State) (c : Ctx) (va : Nat) : Nat → State
  | 0 => s
  | n + 1 => (s.prefetchLine c va).prefetchLines c ((va + 128) % 2 ^ 56) n

/-- IPREF (R249): changes only the instruction cache. -/
def execIpref (p : Pred) (n : Nat) (off : BitVec 24) (s : State) : Host.Outcome State Fault Refusal :=
  runWord .q p (.ipref p n off) s fun t => do
    let q ← getP
    modS fun s => s.prefetchLines (t.ctx q) ((offTarget t off).toNat / 128 * 128) n

/-! ## Traps and yielding -/

/-- TRAP raises INSN.SWTRAP with its immediate as tval (R250). -/
def execTrap (p : Pred) (imm : Imm 16) (s : State) : Host.Outcome State Fault Refusal :=
  runJump p (.trap p imm) s fun _ => trap cSWTRAP (immValU imm)

/-- TRET returns from the handler; outside one it raises INSN.ILLFN (R203). -/
def execTret (p : Pred) (s : State) : Host.Outcome State Fault Refusal :=
  runJump p (.tret p) s fun t => do
    check t.tin cILLFN (iword (.tret p))
    check (t.tepc.toNat % 8 == 0) cALIGN (t.tepc.setWidth 64)
    setT t.trapReturn.awake

/-- Whether a task could be served by the control core now. -/
def Task.issuable (t : Task) : Bool :=
  t.place == .vlc && t.cleared && t.stop.isNone &&
    (match t.wait with | none => true | some (.condition _) => true | some (.jobs ..) => true | some .enq => true | _ => false)

/-- YIELD (R250): the task issues nothing until every other VLC of the hive with an instruction ready was served once. -/
def execYield (p : Pred) (s : State) : Host.Outcome State Fault Refusal :=
  runWord .q p (.yield p) s fun t => do
    let s ← getS
    setT { t with yield := (s.tasks.filter fun u => u.hive == t.hive && u.id != t.id && u.issuable).map (·.id) }

/-- The fetch of a word of a task meets a fault (R207): a translation fault swaps the task with MEM.IPF, a malformed entry or
a leaf without X raises MEM.PROT; both with the word's address. A fetch that succeeds changes nothing. -/
def execInstructionPageFault (t addr : Nat) (s : State) : Host.Outcome State Fault Refusal :=
  match s.task? t with
  | none => .next s
  | some u =>
    match s.part? u.vf with
    | none => .next s
    | some p =>
      match s.icLine (u.ctx p) addr with
      | .ok _ => .next s
      | .error .unmapped => .next (s.setTask (u.askStop (.fault cIPF addr) s.cycle.toNat))
      | .error .denied => .next (s.takeTrap u cPROT (w64 addr) u.pc)

end Sys2Proof.Machine
end

