-- ==== Sys2Proof/Machine/Flags.lean ====
section
/-! DEFINITION. Relations that write a predicate (R239), and the sticky flags of fflags (R130, R131). -/

namespace Sys2Proof.Machine

/-- `signed(a) < signed(b)` (R239). -/
def sltW (a b : Word) : Bool := decide (a.toInt < b.toInt)
/-- `signed(a) ≤ signed(b)` (R239). -/
def sleW (a b : Word) : Bool := decide (a.toInt ≤ b.toInt)
/-- `a < b` (R239). -/
def ultW (a b : Word) : Bool := decide (a.toNat < b.toNat)
/-- `a ≤ b` (R239). -/
def uleW (a b : Word) : Bool := decide (a.toNat ≤ b.toNat)

/-- ORs flags into fflags, as an instruction does once when it completes (R131). -/
def Task.orFlags (t : Task) (f : Flags) : Task := { t with fflags := t.fflags ||| f }

end Sys2Proof.Machine
end

