-- ==== Sys2Proof/Machine/Memory.lean ====
section
/-! DEFINITION. Address instructions, scalar loads and stores, atomics: OPC 0x06 and 0x30 to 0x32 (R241, R252 to R254), and
the steps that complete them. -/

namespace Sys2Proof.Machine

/-- The offset of a memory operand (R212). -/
def offsetOf {n : Nat} (t : Task) (sa : Nat) (imm : Imm n) : Nat := (t.rs sa + immVal imm).toNat

/-- LEA (R241): check 1 of R134 only. -/
def execLea (p : Pred) (sd h sa : Nat) (imm : Imm 19) (s : State) : Host.Outcome State Fault Refusal :=
  runWord .q p (.lea p sd h sa imm) s fun t => do
    let hd ← useHandle h
    modT fun u => u.ws sd (w64 (hd.addr (offsetOf t sa imm)))

/-- SPACE of a handle as HCHK reports it (R132). -/
def Space.code : Space → Nat
  | .hbm => 1 | .honey => 2 | .comblin => 3 | .pool => 4 | .host => 5

/-- The status word of HCHK (R241). -/
def hchkWord (h : Handle) (o n : Nat) : Word :=
  w64 (1 + 2 * b2n (decide (o + n ≤ h.bound)) + 4 * b2n h.r + 8 * b2n h.w + 16 * b2n h.x + 32 * b2n h.a +
    64 * b2n h.bar + 256 * h.space.code)

/-- HCHK never faults (R241). -/
def execHchk (p : Pred) (sd h sa sb : Nat) (imm : Imm 19) (s : State) : Host.Outcome State Fault Refusal :=
  runWord .q p (.hchk p sd h sa sb imm) s fun t => do
    let q ← getP
    let s ← getS
    let (e, s) := s.handle? (t.ctx q) q h
    setS s
    modT fun u => u.ws sd (match e with
      | none => 0
      | some hd => hchkWord hd (offsetOf t sa imm) (t.rs sb).toNat)

/-! ## Loads -/

/-- A value of `n` bytes as a register takes it: sign- or zero-extended (R252). -/
def extendTo (signed : Bool) (n : Nat) (v : Nat) : Word := if signed then BitVec.ofInt 64 (toSigned (8 * n) v) else w64 v

/-- A strong access beyond the hive is performed at the home point (R160, R161). -/
def strongPoint (str : Option Scope) : Bool :=
  match str with
  | none => false
  | some .hive => false
  | some _ => true

/-- LD of `n` bytes (R253): the data comes back in this step, but from HOST and POOL, and from a refreshing bank of the
honey store, which answer later (R31, R139). -/
def loadWord (p : Pred) (i : Instr) (s : State) (str : Option Scope) (sd h sa n : Nat) (signed : Bool) (imm : Imm 19) :
    Host.Outcome State Fault Refusal :=
  runJump p i s fun t => do
    let o := offsetOf t sa imm
    let hd ← useHandle h
    let a ← checkAccess hd o n .read n
    if hd.space = .comblin then sidePort (combByteCols a n) []
    let s ← getS
    let later := match hd.space with
      | .host | .pool => true
      | .honey => s.honeyHeld t.hive a
      | _ => false
    if later then
      if str.isSome then drainAll
      modT fun u => { u with
        pend := some { instr := i, sd := sd, size := n, signed := signed, handle := hd, addr := a, strong := str, atomic := none }
        wait := some .load, stallSince := none }
    else
      if str.isSome then drainAll
      let l ← readBytes hd (strongPoint str) false .read a n
      raiseBad hd a l
      let u ← getT
      finishWord i fun v => v.ws sd (extendTo signed n (leNat (u.overlay 0 hd.space a (bytesOf l))))

/-- LD (R252). -/
def execLd (p : Pred) (str : Option Scope) (sd h sa : Nat) (imm : Imm 19) (s : State) : Host.Outcome State Fault Refusal :=
  loadWord p (.ld p str sd h sa imm) s str sd h sa 8 false imm
/-- LD.i8 (R252). -/
def execLdI8 (p : Pred) (str : Option Scope) (sd h sa : Nat) (imm : Imm 19) (s : State) : Host.Outcome State Fault Refusal :=
  loadWord p (.ldI8 p str sd h sa imm) s str sd h sa 1 true imm
/-- LD.i16 (R252). -/
def execLdI16 (p : Pred) (str : Option Scope) (sd h sa : Nat) (imm : Imm 19) (s : State) : Host.Outcome State Fault Refusal :=
  loadWord p (.ldI16 p str sd h sa imm) s str sd h sa 2 true imm
/-- LD.i32 (R252). -/
def execLdI32 (p : Pred) (str : Option Scope) (sd h sa : Nat) (imm : Imm 19) (s : State) : Host.Outcome State Fault Refusal :=
  loadWord p (.ldI32 p str sd h sa imm) s str sd h sa 4 true imm
/-- LD.z8 (R252). -/
def execLdZ8 (p : Pred) (str : Option Scope) (sd h sa : Nat) (imm : Imm 19) (s : State) : Host.Outcome State Fault Refusal :=
  loadWord p (.ldZ8 p str sd h sa imm) s str sd h sa 1 false imm
/-- LD.z16 (R252). -/
def execLdZ16 (p : Pred) (str : Option Scope) (sd h sa : Nat) (imm : Imm 19) (s : State) : Host.Outcome State Fault Refusal :=
  loadWord p (.ldZ16 p str sd h sa imm) s str sd h sa 2 false imm
/-- LD.z32 (R252). -/
def execLdZ32 (p : Pred) (str : Option Scope) (sd h sa : Nat) (imm : Imm 19) (s : State) : Host.Outcome State Fault Refusal :=
  loadWord p (.ldZ32 p str sd h sa imm) s str sd h sa 4 false imm

/-! ## Stores -/

/-- ST of `n` bytes (R253): it enters the store queue of the control core and counts in ocst until it is performed; to
COMBLIN it is performed at once (R138, R140). -/
def storeWord (p : Pred) (i : Instr) (s : State) (str : Option Scope) (sd h sa n : Nat) (imm : Imm 19) :
    Host.Outcome State Fault Refusal :=
  runWord .q p i s fun t => do
    let o := offsetOf t sa imm
    let hd ← useHandle h
    let a ← checkAccess hd o n .write n
    let bs := leBytes n (t.rs sd).toNat
    if hd.space = .comblin then
      sidePort [] (combByteCols a n)
      writeBytes hd false false .write a bs
    else if t.ocst ≥ 65535 then stall
    else
      modT fun u => { u with
        stores := u.stores ++ [{ agent := 0, space := hd.space, addr := a, bytes := bs, counts := true, strong := str, policy := hd.policy }]
        ocst := u.ocst + 1 }

/-- ST (R252). -/
def execSt (p : Pred) (str : Option Scope) (sd h sa : Nat) (imm : Imm 19) (s : State) : Host.Outcome State Fault Refusal :=
  storeWord p (.st p str sd h sa imm) s str sd h sa 8 imm
/-- ST.i8 (R252). -/
def execStI8 (p : Pred) (str : Option Scope) (sd h sa : Nat) (imm : Imm 19) (s : State) : Host.Outcome State Fault Refusal :=
  storeWord p (.stI8 p str sd h sa imm) s str sd h sa 1 imm
/-- ST.i16 (R252). -/
def execStI16 (p : Pred) (str : Option Scope) (sd h sa : Nat) (imm : Imm 19) (s : State) : Host.Outcome State Fault Refusal :=
  storeWord p (.stI16 p str sd h sa imm) s str sd h sa 2 imm
/-- ST.i32 (R252). -/
def execStI32 (p : Pred) (str : Option Scope) (sd h sa : Nat) (imm : Imm 19) (s : State) : Host.Outcome State Fault Refusal :=
  storeWord p (.stI32 p str sd h sa imm) s str sd h sa 4 imm

/-- A store reaches its policy's point (R157, R165): entry `n` of the task's store queues, when no older store of the same
agent to the same slice waits. -/
def execStorePerform (t n : Nat) (s : State) : Host.Outcome State Fault Refusal :=
  .next ((s.performStore t n).getD s)

/-! ## Atomics -/

/-- The new value of an atomic on `8 * n` bits (R254); nothing when ACAS does not store. -/
def atomicNew (op n : Nat) (old b cmp : Nat) : Option Nat :=
  let so := toSigned (8 * n) old
  let sb := toSigned (8 * n) b
  match op with
  | 0 => some ((old + b) % 2 ^ (8 * n))
  | 1 => some (if sb < so then b else old)
  | 2 => some (if so < sb then b else old)
  | 3 => some (old &&& b)
  | 4 => some (old ||| b)
  | 5 => some (old ^^^ b)
  | 6 => some b
  | _ => if old = cmp then some b else none

/-- The AtomicOp that carries an atomic over a port: FetchAdd for AADD, Swap for ASWP, CAS for ACAS, none for any other (R139). -/
def atomicCode (op : Nat) : Option Nat :=
  match op with
  | 0 => some 0
  | 6 => some 1
  | 7 => some 2
  | _ => none

/-- An atomic (R254, R164): one step at the home point, at the memory controller for SYS; over a port for HOST and POOL. An operation that
a port does not have (R139) raises MEM.PROT right after the handle's permission (DESIGN CHOICE, log 97). -/
def atomicWord (p : Pred) (i : Instr) (s : State) (op : Nat) (w4 : Bool) (scope : Scope) (sd h sa sb : Nat) (imm : Imm 19) :
    Host.Outcome State Fault Refusal :=
  runJump p i s fun t => do
    let n := if w4 then 4 else 8
    let o := offsetOf t sa imm
    let hd ← useHandle h
    let a := hd.addr o
    checkBound hd o n
    checkPerm hd .atomic a
    check ((atomicCode op).isSome || (hd.space ≠ .pool && hd.space ≠ .host)) cPROT (w64 a)
    let a ← checkAccess hd o n .atomic n
    drainAll
    let b := (t.rs sb).toNat % 2 ^ (8 * n)
    let cmp := (t.rs sd).toNat % 2 ^ (8 * n)
    match hd.space with
    | .host | .pool =>
      modT fun u => { u with
        pend := some { instr := i, sd := sd, size := n, signed := true, handle := hd, addr := a, strong := some scope,
                       atomic := some (op, w64 b, w64 cmp) }
        wait := some .load, stallSince := none }
    | _ =>
      let l ← readBytes hd true (scope = .sys) .atomic a n
      raiseBad hd a l
      let old := leNat (bytesOf l)
      match atomicNew op n old b cmp with
      | some v => writeBytes hd true (scope = .sys) .atomic a (leBytes n v)
      | none => pure ()
      finishWord i fun u => u.ws sd (extendTo true n old)

/-- AADD (R254). -/
def execAadd (p : Pred) (w4 : Bool) (scope : Scope) (sd h sa sb : Nat) (imm : Imm 19) (s : State) :
    Host.Outcome State Fault Refusal :=
  atomicWord p (.aadd p w4 scope sd h sa sb imm) s 0 w4 scope sd h sa sb imm

/-- AMIN (R254). -/
def execAmin (p : Pred) (w4 : Bool) (scope : Scope) (sd h sa sb : Nat) (imm : Imm 19) (s : State) :
    Host.Outcome State Fault Refusal :=
  atomicWord p (.amin p w4 scope sd h sa sb imm) s 1 w4 scope sd h sa sb imm

/-- AMAX (R254). -/
def execAmax (p : Pred) (w4 : Bool) (scope : Scope) (sd h sa sb : Nat) (imm : Imm 19) (s : State) :
    Host.Outcome State Fault Refusal :=
  atomicWord p (.amax p w4 scope sd h sa sb imm) s 2 w4 scope sd h sa sb imm

/-- AAND (R254). -/
def execAand (p : Pred) (w4 : Bool) (scope : Scope) (sd h sa sb : Nat) (imm : Imm 19) (s : State) :
    Host.Outcome State Fault Refusal :=
  atomicWord p (.aand p w4 scope sd h sa sb imm) s 3 w4 scope sd h sa sb imm

/-- AOR (R254). -/
def execAor (p : Pred) (w4 : Bool) (scope : Scope) (sd h sa sb : Nat) (imm : Imm 19) (s : State) :
    Host.Outcome State Fault Refusal :=
  atomicWord p (.aor p w4 scope sd h sa sb imm) s 4 w4 scope sd h sa sb imm

/-- AXOR (R254). -/
def execAxor (p : Pred) (w4 : Bool) (scope : Scope) (sd h sa sb : Nat) (imm : Imm 19) (s : State) :
    Host.Outcome State Fault Refusal :=
  atomicWord p (.axor p w4 scope sd h sa sb imm) s 5 w4 scope sd h sa sb imm

/-- ASWP (R254). -/
def execAswp (p : Pred) (w4 : Bool) (scope : Scope) (sd h sa sb : Nat) (imm : Imm 19) (s : State) :
    Host.Outcome State Fault Refusal :=
  atomicWord p (.aswp p w4 scope sd h sa sb imm) s 6 w4 scope sd h sa sb imm

/-- ACAS (R254). -/
def execAcas (p : Pred) (w4 : Bool) (scope : Scope) (sd h sa sb : Nat) (imm : Imm 19) (s : State) :
    Host.Outcome State Fault Refusal :=
  atomicWord p (.acas p w4 scope sd h sa sb imm) s 7 w4 scope sd h sa sb imm

/-! ## The return of a scalar access -/

/-- The data of the outstanding scalar access returns and the instruction completes (R253, R254). A honey-store read still
waits while its bank refreshes (R31). -/
def execScalarLoadReturn (t : Nat) (s : State) : Host.Outcome State Fault Refusal :=
  match (s.task? t).bind (·.pend) with
  | none => .next s
  | some q =>
    if q.handle.space = .honey ∧ s.refreshing = some (fld q.addr 12 4) then .next s
    else runFor t q.instr s fun _ => do
      modT fun u => { u with pend := none }
      match q.atomic with
      | none => do
        let l ← readBytes q.handle (strongPoint q.strong) false .read q.addr q.size
        raiseBad q.handle q.addr l
        let u ← getT
        finishWord q.instr fun v => v.ws q.sd (extendTo q.signed q.size (leNat (u.overlay 0 q.handle.space q.addr (bytesOf l))))
      | some (op, b, cmp) => do
        let t ← getT
        let p ← getP
        let old ← liftX .atomic q.addr fun s =>
          s.remoteAtomic (t.ctx p) q.handle.space ((atomicCode op).getD 0) (q.size == 4) q.addr b cmp
            fun old => atomicNew op q.size old b.toNat cmp.toNat
        finishWord q.instr fun v => v.ws q.sd (extendTo true q.size old)

/-- A request on a port times out: INTEG.LINK for this event, and the capability entry's DOWN bit (R416); where the port's partner
answers nothing, the event is the one that has been told. -/
def State.portDown (s : State) (port : Nat) : State :=
  match s.ports.toArray[port]? with
  | none => s
  | some q =>
    if q.mute && q.told then s
    else { s.hostCause cLINK (w64 port) with ports := s.ports.setIfInBounds port { q with down := true, told := q.told || q.mute } }

/-- The scalar request that a task awaits on a port times out (R412, R416): all ones for a read and for an atomic, which is not
performed. -/
def State.timeOutTask (s : State) (t : Nat) : Host.Outcome State Fault Refusal :=
  match (s.task? t).bind (·.pend) with
  | none => .next s
  | some q =>
    if q.handle.space = .host ∨ q.handle.space = .pool then
      runFor t q.instr s fun u => do
        let pt ← getP
        let e ← liftX .read q.addr fun s => s.translate (u.ctx pt) q.addr (some q.handle.space)
        modS fun s => s.portDown (portOf (e.phys q.addr))
        modT fun v => { v with pend := none }
        finishWord q.instr fun v => v.ws q.sd (extendTo (q.signed || q.atomic.isSome) q.size (2 ^ (8 * q.size) - 1))
    else .next s

/-- A port's partner answers no request in time from now on, which is one event (DESIGN CHOICE, log 75), or answers again. -/
def State.timeOutPort (s : State) (port : Nat) (mute : Bool) : State :=
  match s.ports.toArray[port]? with
  | none => s
  | some q =>
    if mute && !q.mute && s.portLive port then
      State.portDown { s with ports := s.ports.setIfInBounds port { q with mute := true, told := false } } port
    else { s with ports := s.ports.setIfInBounds port { q with mute := mute } }

/-- COMPLETION_TIMEOUT (R412, R416). -/
def execCompletionTimeout (w : TimedOut) (s : State) : Host.Outcome State Fault Refusal :=
  match w with
  | .task t => s.timeOutTask t
  | .port p mute => .next (s.timeOutPort p mute)

end Sys2Proof.Machine
end

