-- ==== Sys2Proof/Machine/Sync.lean ====
section
/-! DEFINITION. Fences, LSYNC, WAIT, HALT and barrier objects: OPC 0x38 and 0x39, HALT of 0x22 (R251, R255 to
R262, R165 to R167, R172, R173). -/

namespace Sys2Proof.Machine

/-! ## Fences (R160, R256) -/

/-- Writes back every line of a list that the task made dirty in its hive; a line that cannot be translated stays dirty. -/
def State.writeBackLines (c : Ctx) : List Line → State → State
  | [], s => s
  | l :: r, s =>
    writeBackLines c r (match s.cleanHiveLine c l false with | .ok s => s | .error _ => s)

/-- The dirty hive-cache bytes that a task wrote go to their home die caches. -/
def State.releaseTask (s : State) (c : Ctx) : State :=
  s.writeBackLines c ((s.hiveLines.filter fun k => k.1 == c.hive && k.2.dirty != 0 && k.2.writers.contains c.task).map (·.2))

/-- A line of a context's hive that carries its ASID or a G mapping. -/
def Ctx.owns (c : Ctx) (k : Nat × Line) : Bool :=
  k.1 == c.hive && (match k.2.key with | .virt g a _ => g || a == c.asid | .honey _ => false)

/-- The clean lines of the hive's cache that carry the ASID or a G mapping are dropped; of a dirty line the clean bytes are invalid
(R163, R256) (DEDUCED, log 77). -/
def State.acquireHive (s : State) (c : Ctx) : State :=
  { s with hiveLines := (s.hiveLines.filter fun k => !(c.owns k && k.2.dirty == 0)).map fun k =>
      if c.owns k then (k.1, { k.2 with stale := true }) else k }

/-- Some byte that the task wrote in its hive is still dirty there. -/
def State.unreleased (s : State) (c : Ctx) : Bool :=
  s.hiveLines.any fun k => k.1 == c.hive && k.2.dirty != 0 && k.2.writers.contains c.task

/-- Every earlier own access of the task is performed (R256, R257): its stores leave their queues, and its vector loads and stores are
complete. SPLD, SPST and KVLOOK.ld, which complete in one order with those, are awaited too (DESIGN CHOICE, log 34). -/
def performOwn : M Unit := do
  drainAll
  let t ← getT
  if t.vld.isEmpty && t.vst.isEmpty then pure () else stall

/-- FENCE.rel (R256): the task's own accesses are performed; beyond the hive, its dirty bytes are written back. It stalls while one of
them cannot be (DEDUCED, log 77). -/
def fenceRel (scope : Scope) : M Unit := do
  performOwn
  let t ← getT
  let p ← getP
  if scope ≠ .hive then
    modS fun s => s.releaseTask (t.ctx p)
    let s ← getS
    if s.unreleased (t.ctx p) then stall

/-- FENCE.acq (R256). -/
def fenceAcq (scope : Scope) : M Unit := do
  let t ← getT
  let p ← getP
  if scope ≠ .hive then modS fun s => s.acquireHive (t.ctx p)

/-- FENCE.acq (R255). -/
def execFenceAcq (p : Pred) (scope : Scope) (s : State) : Host.Outcome State Fault Refusal :=
  runWord .q p (.fenceAcq p scope) s fun _ => fenceAcq scope

/-- FENCE.rel (R255). -/
def execFenceRel (p : Pred) (scope : Scope) (s : State) : Host.Outcome State Fault Refusal :=
  runWord .q p (.fenceRel p scope) s fun _ => fenceRel scope

/-- FENCE.ar: release, then acquire (R255). -/
def execFenceAr (p : Pred) (scope : Scope) (s : State) : Host.Outcome State Fault Refusal :=
  runWord .q p (.fenceAr p scope) s fun _ => do
    fenceRel scope
    fenceAcq scope

/-- LSYNC (R257): every earlier own access is performed; nothing is written back or invalidated. -/
def execLsync (p : Pred) (s : State) : Host.Outcome State Fault Refusal :=
  runWord .q p (.lsync p) s fun _ => performOwn

/-! ## WAIT and HALT (R165, R199, R258) -/

/-- The counter of a class (R165). -/
def Task.counter (t : Task) : Class → Nat
  | .ld => t.ocld
  | .st => t.ocst
  | .cp => t.occp
  | .mx => t.ocmx

/-- Adds to the counter of a class. -/
def Task.count (t : Task) (c : Class) : Task :=
  match c with
  | .ld => { t with ocld := t.ocld + 1 }
  | .st => { t with ocst := t.ocst + 1 }
  | .cp => { t with occp := t.occp + 1 }
  | .mx => { t with ocmx := t.ocmx + 1 }

/-- Takes from the counter of a class. -/
def Task.uncount (t : Task) (c : Class) : Task :=
  match c with
  | .ld => { t with ocld := t.ocld - 1 }
  | .st => { t with ocst := t.ocst - 1 }
  | .cp => { t with occp := t.occp - 1 }
  | .mx => { t with ocmx := t.ocmx - 1 }

/-- The completions kept for a task while it was away are taken from its counters (R191). -/
def Task.takeLate (t : Task) : Task :=
  { t.lateDone.foldl (fun t c => t.uncount (match c with | 0 => .ld | 1 => .st | 2 => .cp | _ => .mx)) t with lateDone := [] }

/-- The limit of a class in the operand word of WAIT; 0 without one (R258). -/
def waitLimit (w : Option Word) (c : Class) : Nat :=
  match w, c with
  | none, _ => 0
  | some x, .mx => fld x.toNat 48 16
  | some x, .cp => fld x.toNat 32 16
  | some x, .st => fld x.toNat 16 16
  | some x, .ld => fld x.toNat 0 16

/-- The classes of R165. -/
def classes : List Class := [.ld, .st, .cp, .mx]


/-- The matrix operations of a task that are paused or queued behind one that is (R345). -/
def Task.heldOps (t : Task) : List MxOp := t.mx.queue.dropWhile (·.paused.isNone)

/-- A CONTRACT is held behind its queue's paused operation, its job with it. -/
def Task.heldContract (t : Task) (j : Job) : Bool :=
  t.heldOps.any fun o => match o.kind with | .contract c => c.job == j.id | _ => false

/-- A job of a task cannot complete before a page arrives: it is paused, or held behind a paused one (R152). -/
def State.jobHeld (s : State) (t : Task) (j : Job) : Bool := s.heldJobs.any (·.id == j.id) || t.heldContract j

/-- The engine jobs and matrix operations of a task in a class that cannot complete before a page arrives (R152). -/
def State.pausedIn (s : State) (t : Task) (c : Class) : Nat :=
  (s.jobs.filter fun j => j.task == t.id && j.cls == c && s.jobHeld t j).length +
    (if c = .mx then (t.heldOps.filter fun o => match o.kind with | .contract _ => false | _ => true).length else 0)

/-- The delivery with the lowest cause code (R200, R205), of one code the one that arose first (DESIGN CHOICE, log 106), and the rest. -/
def takeDue : List (Nat × Word) → Option ((Nat × Word) × List (Nat × Word))
  | [] => none
  | d :: ds =>
    match takeDue ds with
    | none => some (d, [])
    | some (e, es) => if e.1 < d.1 then some (e, d :: es) else some (d, e :: es)

/-- What a WAIT does first (R165, R258): it stalls while a counter is above its limit, or is swapped out when a paused job
keeps it there; then it receives the flags, and one fault, of the operations it observes. Holds when no fault was raised. -/
def observe (limits : Option Word) : M Bool := do
  let t ← getT
  let s ← getS
  match classes.find? fun c => decide (waitLimit limits c < t.counter c) with
  | some _ =>
    if classes.any fun c => decide (waitLimit limits c < t.counter c) && decide (waitLimit limits c < s.pausedIn t c) then
      stopWith (.engine none)
    else stall
  | none =>
    let t := { t.orFlags t.dueFlags with dueFlags := 0 }
    match takeDue t.dues with
    | none => do setT t; pure true
    | some ((c, v), rest) =>
      let t := { t with dues := rest }
      setT t
      modS fun s => s.enterTrap t c v t.pc
      pure false

/-- WAIT (R258). -/
def execWait (p : Pred) (limits : Option Word) (s : State) : Host.Outcome State Fault Refusal :=
  runJump p (.wait p limits) s fun _ => do
    if ← observe limits then finishWord (.wait p limits) id

/-- HALT (R251): waits with every limit zero, releases at PKG scope, and ends the task. -/
def execHalt (p : Pred) (s : State) : Host.Outcome State Fault Refusal :=
  runJump p (.halt p) s fun _ => do
    if ← observe none then
      fenceRel .pkg
      let t ← getT
      modS fun s => s.endTask t

/-! ## Barrier objects (R172, R173) -/

/-- The fields of a barrier object. -/
structure Barrier where
  gen : Nat
  exp : Nat
  arr : Nat
  st : Nat
  stale : Nat
deriving DecidableEq, Repr

/-- The fields that 64 bytes hold. -/
def Barrier.of (b : List Byte) : Barrier :=
  let g (i n : Nat) := leNat ((b.drop i).take n)
  ⟨g 0 8, g 8 4, g 12 4, g 16 1, g 20 4⟩

/-- BCHK of 63 bytes (R172). -/
def barrierChk (b : List Byte) : Byte := BitVec.ofNat 8 (crc8 ((b.take 63).map (·.toNat)))

/-- The bytes of an object, its check computed (DEDUCED, log 71). -/
def Barrier.bytes (k : Barrier) : List Byte :=
  let b := leBytes 8 k.gen ++ leBytes 4 k.exp ++ leBytes 4 k.arr ++ leBytes 1 k.st ++ leBytes 3 0 ++ leBytes 4 k.stale ++ leBytes 39 0
  b ++ [barrierChk b]

/-- BCHK holds. -/
def barrierChkOk (b : List Byte) : Bool := b.getD 63 0 == barrierChk b

/-- The check that an arrival and BARWAIT make (R173, first row). -/
def barrierOk (b : List Byte) : Bool :=
  barrierChkOk b && decide ((Barrier.of b).st ≤ 2) && ((b.drop 17).take 3).all (· == 0) && ((b.drop 24).take 39).all (· == 0)

/-- The events of R173. -/
inductive BarEvent where
  | arrive (g : Nat)
  | init (e : Nat)
  | kill
deriving DecidableEq, Repr

/-- The bytes of an object with another state, its check computed; every other byte stays. -/
def barrierSetState (b : List Byte) (st : Nat) : List Byte :=
  let b := (b.set 16 (BitVec.ofNat 8 st)).take 63
  b ++ [barrierChk b]

/-- Applies an event to an object's bytes (R173): the new bytes and the status of R261; nothing for an arrival at a corrupt
object (DEDUCED, log 50). -/
def barrierApply (b : List Byte) : BarEvent → Option (List Byte × Nat)
  | .arrive g =>
    if !barrierOk b then none
    else
      let k := Barrier.of b
      if k.st = 2 then some (b, 3)
      else if g ≠ k.gen ∨ k.st = 1 then some ({ k with stale := min (k.stale + 1) (2 ^ 32 - 1) }.bytes, 2)
      else
        let a := (k.arr + 1) % 2 ^ 32
        if a = k.exp then some ({ k with arr := a, st := 1 }.bytes, 1) else some ({ k with arr := a }.bytes, 0)
  | .init e =>
    let g := if barrierChkOk b then ((Barrier.of b).gen + 1) % 2 ^ 64 else 1
    some (Barrier.bytes ⟨g, e, 0, 0, 0⟩, g)
  | .kill => some (barrierSetState b 2, (Barrier.of b).gen)

/-- What a BARWAIT on generation `g` finds in an object (R262): 0 opened, 1 re-armed, 2 killed; nothing when it waits. -/
def barrierStatus (b : List Byte) (g : Word) : Option Nat :=
  let k := Barrier.of b
  if k.st = 2 then some 2
  else if k.gen ≠ g.toNat then some 1
  else if k.st = 1 then some 0
  else none

/-- The status with which an applied event releases a waiter on generation `w` (R173): an arrival that opens the object releases those of
its generation, BARINIT and BARKILL release all; `st` is the status of R261. -/
def BarEvent.releases (st : Nat) (w : Word) : BarEvent → Option Nat
  | .arrive g => if st = 1 ∧ w.toNat = g then some 0 else none
  | .init _ => some 1
  | .kill => some 2

/-- Releases the waiters on an object that an applied event releases (R173); status 0 is an acquire at PKG scope. -/
def State.releaseWaiters (phys : Nat) (ev : BarEvent) (st : Nat) : List Task → State → State
  | [], s => s
  | t :: r, s =>
    releaseWaiters phys ev st r (match t.wait with
      | some (.barrier i sd ph g) =>
        if ph = some phys then
          match ev.releases st g with
          | some v =>
            let s := s.setTask ((t.awake.ws sd (w64 v)).retire i)
            if v = 0 then (match s.part? t.vf with | some p => s.acquireHive (t.ctx p) | none => s) else s
          | none => s
        else s
      | _ => s)

/-- The offset of a barrier operand (R261). -/
def barrierOffset (t : Task) (sa : Nat) (imm : BitVec 12) : Nat := (t.rs sa + (imm.setWidth 64 <<< 6)).toNat

/-- The checks of a barrier instruction (R134, R261): the address of the object. A handle that is no barrier area, and a BARWAIT in POOL,
raise MEM.PROT before the alignment is looked at (DESIGN CHOICE, log 98). -/
def barrierAccess (h : Handle) (o : Nat) (write : Bool) : M Nat := do
  let a := h.addr o
  checkBound h o 64
  honeyUsable h o
  checkPerm h .read a
  if write then checkPerm h .write a
  check h.bar cPROT (w64 a)
  check (write || h.space ≠ .pool) cPROT (w64 a)
  check (a % 64 == 0) cALIGN (w64 a)
  if write then checkWritable h a 64
  probe h (if write then .atomic else .read) a
  pure a

/-- The physical address of an address in a translated space; none elsewhere, where no event of another agent reaches an object. -/
def physOf (h : Handle) (a : Nat) : M (Option Nat) := do
  let t ← getT
  let p ← getP
  match h.space with
  | .honey | .comblin => pure none
  | sp => do
    let e ← liftX .read a fun s => s.translate (t.ctx p) a (some sp)
    pure (some (e.phys a))

/-- The code of an event in BAREVT, and its generation or count (R419). -/
def BarEvent.code : BarEvent → Nat × Nat
  | .arrive g => (0, g)
  | .init e => (1, e)
  | .kill => (2, 0)

/-- GEN of the launch of a task (R74); 0 with no swarm table. -/
def State.launchGen (s : State) (t : Task) : Word :=
  match (s.part? t.vf).bind fun p => p.launches.find? (·.id == t.launch) with
  | some l => l.gen.getD 0
  | none => 0

/-- A BAREVT leaves on a port (R419). A port that is down, insecure or without an agreed version takes it as R416 takes a request, and its
answer does not come (R412, R420). -/
def State.sendBarevt (s : State) (phys : Nat) (gen : Word) (event : Nat × Nat) (tag : Nat) : State :=
  let port := portOf phys
  if s.portLive port then s.send (.barevt port gen (phys % 2 ^ 45) event.1 (w64 event.2) tag) else s.portRefused port

/-- BARINIT, BARARR and BARKILL (R262): a release at PKG scope, then the event, atomically at the home slice; in POOL space
a BAREVT on the port, whose answer completes the instruction (R419). -/
def barrierWord (p : Pred) (i : Instr) (s : State) (sd h sa : Nat) (imm : BitVec 12) (ev : Task → BarEvent) :
    Host.Outcome State Fault Refusal :=
  runJump p i s fun t => do
    let e := ev t
    check (match e with | .init n => decide (0 < n) && decide (n < 2 ^ 32) | _ => true) cILLFN (iword i)
    let hd ← useHandle h
    let a ← barrierAccess hd (barrierOffset t sa imm) true
    let ph ← physOf hd a
    fenceRel .pkg
    if hd.space = .pool then
      let ph := ph.getD a
      modS fun s => s.sendBarevt ph (s.launchGen t) e.code t.id
      modT fun u => { u with
        wait := some (.remote i sd (portOf ph) (match e with | .arrive _ => true | _ => false) ph), stallSince := none }
    else
      let l ← readBytes hd true false .atomic a 64
      raiseBad hd a l
      match barrierApply (bytesOf l) e with
      | none => trap cBARCORRUPT (w64 a)
      | some (b, st) =>
        writeBytes hd true false .atomic a b
        finishWord i fun u => u.ws sd (w64 st)
        let s ← getS
        setS (match ph with
          | some ph => s.releaseWaiters ph e st (s.tasks.filter fun u => u.id != t.id)
          | none => s)

/-- BARINIT (R261). -/
def execBarinit (p : Pred) (sd h sa sb : Nat) (imm : BitVec 12) (s : State) : Host.Outcome State Fault Refusal :=
  barrierWord p (.barinit p sd h sa sb imm) s sd h sa imm fun t => .init (t.rs sb).toNat

/-- BARARR (R261). -/
def execBararr (p : Pred) (sd h sa sb : Nat) (imm : BitVec 12) (s : State) : Host.Outcome State Fault Refusal :=
  barrierWord p (.bararr p sd h sa sb imm) s sd h sa imm fun t => .arrive (t.rs sb).toNat

/-- BARKILL (R261). -/
def execBarkill (p : Pred) (sd h sa : Nat) (imm : BitVec 12) (s : State) : Host.Outcome State Fault Refusal :=
  barrierWord p (.barkill p sd h sa imm) s sd h sa imm fun _ => .kill

/-- A job carries an arrival at the object of a physical address. -/
def Job.arrivesAt (j : Job) (phys : Option Nat) : Bool := match j.arrival with | some x => some x.phys == phys | none => false

/-- A job of a task that carries an arrival at an object, and cannot complete before a page arrives (R152). -/
def State.arrivalHeld (s : State) (t : Task) (phys : Option Nat) : Bool :=
  s.jobs.any fun j => j.task == t.id && s.jobHeld t j && j.arrivesAt phys

/-- BARWAIT (R262): suspended until the object opens, is re-armed or is killed; only status 0 is an acquire. Its strong load sees the
task's earlier stores (R158), which are performed first. -/
def execBarwait (p : Pred) (sd h sa sb : Nat) (imm : BitVec 12) (s : State) : Host.Outcome State Fault Refusal :=
  let i : Instr := .barwait p sd h sa sb imm
  runJump p i s fun t => do
    let hd ← useHandle h
    let a ← barrierAccess hd (barrierOffset t sa imm) false
    let ph ← physOf hd a
    drainAll
    let l ← readWhole hd true a 64
    raiseBad hd a l
    let b := bytesOf l
    check (barrierOk b) cBARCORRUPT (w64 a)
    match barrierStatus b (t.rs sb) with
    | some st =>
      if st = 0 then fenceAcq .pkg
      finishWord i fun u => u.ws sd (w64 st)
    | none => do
      let s ← getS
      if s.arrivalHeld t ph then stopWith (.engine ph)
      else modT fun u => { u with wait := some (.barrier i sd ph (t.rs sb)), stallSince := none }

end Sys2Proof.Machine
end

