-- ==== Sys2Proof/Machine/System.lean ====
section
/-! DEFINITION. Control registers, notices, cache maintenance, stage queues, device launch and the waggle crossbar: OPC
0x3A and 0x3B (R263 to R271, R436, R69 to R72), the register writes of the host (R413), and unassigned opcodes (R210). -/

namespace Sys2Proof.Machine

/-! ## Accesses of the device itself in a partition's memory (R433) -/

/-- The context of the command processor in a partition: no hive cache lies before it. -/
def Partition.ctx (p : Partition) : Ctx := ⟨Config.hives, p.asid.toNat, p.ptroot.toNat * 4096, p.vf, 0⟩

/-- Reads one byte of the partition's memory at its home point. -/
def State.devReadByte (s : State) (p : Partition) (va : Nat) : Except XErr ((Byte × Bool) × State) :=
  match s.translate p.ctx va none with
  | .error x => .error x
  | .ok (e, s) =>
    match regionOf (e.phys va) with
    | some .hbm => s.hbmRead p.ctx 2 true false .read va
    | some r =>
      match s.remoteRead p.ctx r .read va with
      | .error x => .error x
      | .ok (b, s) => .ok ((b, false), s)
    | none => .error .denied

/-- Reads bytes of the partition's memory. -/
def State.devRead (p : Partition) : Nat → Nat → State → Except XErr (List (Byte × Bool) × State)
  | _, 0, s => .ok ([], s)
  | va, n + 1, s =>
    match s.devReadByte p (va % 2 ^ 56) with
    | .error x => .error x
    | .ok (b, s) =>
      match State.devRead p (va + 1) n s with
      | .error x => .error x
      | .ok (bs, s) => .ok (b :: bs, s)

/-- Writes one byte of the partition's memory at its home point. -/
def State.devWriteByte (s : State) (p : Partition) (va : Nat) (b : Byte) : Except XErr State :=
  match s.translate p.ctx va none with
  | .error x => .error x
  | .ok (e, s) =>
    match regionOf (e.phys va) with
    | some .hbm => s.hbmWrite p.ctx 2 true false .write va b
    | some r => s.remoteWrite p.ctx r .write va b
    | none => .error .denied

/-- Writes bytes of the partition's memory; all of them or none. -/
def State.devWrite (p : Partition) : Nat → List Byte → State → Except XErr State
  | _, [], s => .ok s
  | va, b :: bs, s =>
    match s.devWriteByte p (va % 2 ^ 56) b with
    | .error x => .error x
    | .ok s => State.devWrite p (va + 1) bs s

/-! ## Control registers (R62, R165, R187, R201, R226, R227) -/

/-- The word of GETC hsrw at a cycle (R32). -/
def hsrwAt (c : Nat) : Word :=
  let busy := decide (c % 1536 < 384)
  let g := c % 24576 / 1536
  w64 (b2n busy * 2 ^ 20 + (if busy then g else (g + 1) % 16) * 2 ^ 16 + (1536 - c % 1536))

/-- mxgrant (R335): UNIT and RES are read from the first instruction on, ROWS and PROWS being then zero (R60) (DEDUCED, log 76). -/
def Task.mxgrant (t : Task) : Word :=
  w64 (32 * t.mx.prows.length * 2 ^ 16 + t.hive % 64 / 4 * 2 ^ 12 + b2n t.mx.res * 2 ^ 9 + 32 * t.mx.rows.length)

/-- mxsteps (R336). -/
def Task.mxsteps (t : Task) : Word :=
  ((t.mx.steps.getD 3 0 ++ t.mx.steps.getD 2 0 : BitVec 32) ++ (t.mx.steps.getD 1 0 ++ t.mx.steps.getD 0 0 : BitVec 32) : BitVec 64)

/-- lstate (R62). -/
def Task.lstate (t : Task) : Word := w64 (b2n t.sen * 64 + t.slc.toNat * 16 + t.loops.length)

/-- tcause (R201). -/
def Task.tcause (t : Task) : Word := w64 (b2n t.tcauseVs * 2 ^ 16 + t.tcauseCode.toNat)

/-- tmask (R201). -/
def Task.tmask (t : Task) : Word := w64 (b2n t.tin * 4 + b2n t.tnote * 2 + b2n t.tptrap)

/-- The value of vstart: the pass at which the held instruction resumes (R187). -/
def Task.vstartWord (t : Task) : Word := t.vstart.setWidth 64

/-- A task register as GETC reads it at a cycle; nothing for an unassigned number (R226). -/
def Task.readReg (t : Task) (cycle : Word) (n : Nat) : Option Word :=
  match n with
  | 0x000 => some cycle
  | 0x010 => some (w64 t.vl)
  | 0x011 => some (w64 t.vlmax)
  | 0x012 => some t.vstartWord
  | 0x013 => some (t.avl.setWidth 64)
  | 0x014 => some (t.strip.setWidth 64)
  | 0x019 => some t.sfill
  | 0x01A => some (t.fflags.setWidth 64)
  | 0x020 => some (t.rlc 0)
  | 0x021 => some (t.rlc 1)
  | 0x022 => some (t.rlc 2)
  | 0x023 => some t.lstate
  | 0x030 => some ((t.tvec ++ (0 : BitVec 3) : BitVec 56).setWidth 64)
  | 0x031 => some t.tcause
  | 0x032 => some t.tval
  | 0x033 => some (t.tepc.setWidth 64)
  | 0x034 => some t.tmask
  | 0x040 => some ((t.ix.toArray.getD 0 0).setWidth 64)
  | 0x041 => some ((t.ix.toArray.getD 1 0).setWidth 64)
  | 0x042 => some ((t.ix.toArray.getD 2 0).setWidth 64)
  | 0x043 => some ((t.ix.toArray.getD 3 0).setWidth 64)
  | 0x048 => some t.taskid
  | 0x049 => some (w64 t.hive)
  | 0x04A => some (w64 (dieOf t.hive))
  | 0x04B => some (t.chiprank.setWidth 64)
  | 0x050 => some t.mxgrant
  | 0x051 => some t.mxsteps
  | 0x058 => some (hsrwAt cycle.toNat)
  | 0x060 => some t.rngb
  | 0x070 => some (w64 t.ocld)
  | 0x071 => some (w64 t.ocst)
  | 0x072 => some (w64 t.occp)
  | 0x073 => some (w64 t.ocmx)
  | _ => none

/-- afr (R183). -/
def State.afr (s : State) : Word := ((0 : BitVec 24) ++ ((s.afrSeq ++ s.afrHbm : BitVec 24) ++ (s.afrMx ++ s.afrPass : BitVec 16) : BitVec 40) : BitVec 64)

/-- A launch queue of a partition. -/
def Partition.queue (p : Partition) (k : Nat) : LaunchQueue :=
  p.lq.toArray.getD k ⟨0, false, false, false, 0, 0, 0, 0, 0⟩

/-- Replaces a launch queue. -/
def Partition.setQueue (p : Partition) (k : Nat) (q : LaunchQueue) : Partition := { p with lq := p.lq.setIfInBounds k q }

/-- A supervisor register as GETC or a BAR read reads it (R226): a write-only field reads as 0; nothing for an unassigned
number. -/
def State.readPart (s : State) (p : Partition) (n : Nat) : Option Word :=
  match n with
  | 0x800 => some (p.asid.setWidth 64)
  | 0x801 => some (w64 (p.ptroot.toNat * 2 ^ 12))
  | 0x802 => some (w64 (p.hbase.toNat * 2 ^ 13))
  | 0x803 => some 0
  | 0x808 => some s.afr
  | 0x809 => some (p.lseed.setWidth 64)
  | 0x80A => some (p.swcnt.setWidth 64)
  | 0x80C => some (w64 (p.swbase.toNat * 2 ^ 24))
  | 0x80D => some 0
  | 0x80E => some (w64 (p.psState.toNat * 4))
  | 0x810 => some (w64 (p.snqbase.toNat * 2 ^ 17))
  | 0x811 => some (p.snqprod.setWidth 64)
  | 0x812 => some (p.snqcons.setWidth 64)
  | n =>
    let q := p.queue (n % 16)
    if 0x840 ≤ n ∧ n ≤ 0x84F then some (w64 (q.base.toNat * 2 ^ 7))
    else if 0x850 ≤ n ∧ n ≤ 0x85F then
      some (w64 (b2n q.err * 2 ^ 22 + b2n q.sup * 2 ^ 21 + b2n q.en * 2 ^ 20 + q.log.toNat * 2 ^ 16 + q.tickets.toNat))
    else if 0x860 ≤ n ∧ n ≤ 0x86F then some (q.prod.setWidth 64)
    else if 0x870 ≤ n ∧ n ≤ 0x87F then some (q.cons.setWidth 64)
    else if 0x880 ≤ n ∧ n ≤ 0x88F then some (w64 q.age)
    else none

/-- GETC (R227, R264). -/
def execGetc (p : Pred) (sd : Nat) (creg : BitVec 12) (s : State) : Host.Outcome State Fault Refusal :=
  let i : Instr := .getc p sd creg
  runWord .q p i s fun t => do
    let n := creg.toNat
    check (decide (n < 0x800) || t.sup) cPRIV (iword i)
    let v ← if n < 0x800 then pure (t.readReg s.cycle n) else do
      let pt ← getP
      pure (s.readPart pt n)
    match v with
    | none => trap cILLFN (iword i)
    | some v => modT fun u => u.ws sd v

/-- A task register as SETC writes it: fields that are read-only stay (R227, R264). The registers whose write has a row of
its own are not named here. -/
def Task.writeReg (t : Task) (n : Nat) (v : Word) : Task :=
  match n with
  | 0x019 => { t with sfill := v }
  | 0x01A => { t with fflags := v.setWidth 5 }
  | 0x020 => t.wlc 0 v
  | 0x021 => t.wlc 1 v
  | 0x022 => t.wlc 2 v
  | 0x023 => { t with sen := bitOf v.toNat 6, slc := BitVec.ofNat 2 (fld v.toNat 4 2) }
  | 0x030 => { t with tvec := BitVec.ofNat 53 (fld v.toNat 3 53) }
  | 0x032 => { t with tval := v }
  | 0x033 => { t with tepc := v.setWidth 56 }
  | 0x034 => { t with tnote := bitOf v.toNat 1, tptrap := bitOf v.toNat 0 }
  | 0x060 => { t with rngb := v }
  | _ => t

/-- A supervisor register as SETC or a BAR write writes it (R156, R174, R196), but for those with a row of their own. -/
def Partition.writeReg (p : Partition) (n : Nat) (v : Word) : Partition :=
  match n with
  | 0x800 => { p with asid := v.setWidth 16 }
  | 0x801 => { p with ptroot := BitVec.ofNat 40 (fld v.toNat 12 40) }
  | 0x810 => { p with snqbase := BitVec.ofNat 39 (fld v.toNat 17 39) }
  | 0x812 => { p with snqcons := v.setWidth 32 }
  | n =>
    if 0x840 ≤ n ∧ n ≤ 0x84F then
      p.setQueue (n % 16) { p.queue (n % 16) with base := BitVec.ofNat 49 (fld v.toNat 7 49) }
    else p

/-- SETC of the registers that have no row of their own (R227, R264). -/
def execSetc (p : Pred) (creg : BitVec 12) (sa : Nat) (s : State) : Host.Outcome State Fault Refusal :=
  let i : Instr := .setc p creg sa
  runWord .q p i s fun t => do
    let n := creg.toNat
    check (decide (n < 0x800) || t.sup) cPRIV (iword i)
    if n < 0x800 then
      check (t.readReg s.cycle n).isSome cILLFN (iword i)
      setT (t.writeReg n (t.rs sa))
    else
      let pt ← getP
      check (s.readPart pt n).isSome cILLFN (iword i)
      modS fun s => s.setPart (pt.writeReg n (t.rs sa))

/-- A SETC to vstart (R187): zero discards the resume record; any other value is ignored, one whose reserved bits alone are not zero too
(DESIGN CHOICE, log 101). -/
def execVstartWrite (p : Pred) (sa : Nat) (s : State) : Host.Outcome State Fault Refusal :=
  runTask .q p (.vstartWrite p sa) s fun t => if t.rs sa = 0 then { t with vstart := 0, resume := none } else t

/-- A SETC to avl or strip (R264): vl is computed from them; vstart becomes 0 and a resume record is discarded. -/
def execAvlStripWrite (p : Pred) (strip : Bool) (sa : Nat) (s : State) : Host.Outcome State Fault Refusal :=
  runTask .q p (.avlStripWrite p strip sa) s fun t =>
    let t := { t with vstart := 0, resume := none }
    if strip then { t with strip := (t.rs sa).setWidth 24 } else { t with avl := (t.rs sa).setWidth 40 }

/-! ## Supervisor registers whose write acts (R133, R154, R174, R175, R178, R188, R192) -/

/-- A write of a supervisor register: by SETC in supervisor mode (R181), or by the host through VF BAR0, where a function
bound to no partition answers Unsupported Request (R413); such a write arrives only while the host port answers (R412). -/
def regWrite (rw : RegWrite) (i : Instr) (s : State) (f : Partition → Word → State → State) : Host.Outcome State Fault Refusal :=
  match rw with
  | .setc p sa => runWord .q p i s fun t => do
      check t.sup cPRIV (iword i)
      let pt ← getP
      modS (f pt (t.rs sa))
  | .bar vf v =>
    if !s.portLive 8 then .next s
    else match s.part? vf with
    | none => .next (s.send (.unsupported 8))
    | some pt => .next (f pt v s)

/-- hbase: the value, and every cached handle entry of the partition is discarded (R133). -/
def writeHbase (pt : Partition) (v : Word) (s : State) : State :=
  { s.setPart { pt with hbase := BitVec.ofNat 43 (fld v.toNat 13 43) } with handles := s.handles.filter (·.vf != pt.vf) }

/-- HBASE_WRITE. -/
def execHbaseWrite (rw : RegWrite) (s : State) : Host.Outcome State Fault Refusal :=
  regWrite rw (.hbaseWrite rw) s writeHbase

/-- Whether a write of tlbinv invalidates an entry (R154). -/
def TlbEntry.invalidBy (e : TlbEntry) (x : Nat) : Bool :=
  let va := fld x 0 48 * 256
  if fld x 0 48 = 2 ^ 48 - 1 then e.glob || e.asid == fld x 48 16
  else (e.glob || e.asid == fld x 48 16) && decide (e.page ≤ va) && decide (va < e.page + e.size)

/-- The jobs and matrix operations of the partitions with an ASID that are paused try again (R362). -/
def State.retryPaused (s : State) (asid : Nat) : State :=
  let mine (vf : Nat) : Bool := match s.part? vf with | some p => p.asid.toNat == asid | none => false
  { s with
    agenda := s.agenda ++ ((s.jobs.filter fun j => j.paused.isSome && mine j.vf).map fun j => Instr.engineRetry j.id)
    tasks := s.tasks.map fun t =>
      if mine t.vf then { t with mx := { t.mx with queue := t.mx.queue.map fun o => { o with paused := none } } } else t }

/-- tlbinv (R154): the entries it names are dropped in every slice; the caches are not touched. -/
def writeTlbinv (_ : Partition) (v : Word) (s : State) : State :=
  State.retryPaused { s with tlb := s.tlb.filter fun e => !e.invalidBy v.toNat } (fld v.toNat 48 16)

/-- TLBINV. -/
def execTlbinv (rw : RegWrite) (s : State) : Host.Outcome State Fault Refusal :=
  regWrite rw (.tlbinv rw) s writeTlbinv

/-- lseed: a write of zero is ignored (R178). -/
def writeLseed (pt : Partition) (v : Word) (s : State) : State :=
  if (v.setWidth 32 : BitVec 32) = 0 then s else s.setPart { pt with lseed := v.setWidth 32 }

/-- LSEED_WRITE. -/
def execLseedWrite (rw : RegWrite) (s : State) : Host.Outcome State Fault Refusal :=
  regWrite rw (.lseedWrite rw) s writeLseed

/-- swcnt and swbase: ignored while any task of the partition exists (R188). -/
def writeSwap (base : Bool) (pt : Partition) (v : Word) (s : State) : State :=
  if s.tasks.any (·.vf == pt.vf) then s
  else if base then s.setPart { pt with swbase := BitVec.ofNat 32 (fld v.toNat 24 32) }
  else s.setPart { pt with swcnt := v.setWidth 16 }

/-- SWAP_SLOT_WRITE. -/
def execSwapSlotWrite (base : Bool) (rw : RegWrite) (s : State) : Host.Outcome State Fault Refusal :=
  regWrite rw (.swapSlotWrite base rw) s (writeSwap base)

/-- Whether a task stands in a slot's frame by a translation fault. -/
def Task.faultedIn (t : Task) (vf slot : Nat) : Bool :=
  t.vf == vf && t.slot == slot && (match t.place with | .frame (.fault _ _) _ _ => true | _ => false)

/-- A report of the pages of a frame acts: the task there may be restored (R192). -/
def State.pagesArrived (s : State) (vf slot : Nat) : State :=
  { s with tasks := s.tasks.map fun t =>
      if t.faultedIn vf slot then
        (match t.place with | .frame w c _ => { t with place := .frame w c true } | _ => t)
      else t }

/-- pfdone (R192): while the partition saves or restores, or the swap of that frame is under way, the report is recorded
(R194); a frame without a task swapped out by a translation fault is ignored. -/
def writePfdone (pt : Partition) (v : Word) (s : State) : State :=
  let k := fld v.toNat 0 16
  let going := s.tasks.any fun t => t.vf == pt.vf && t.slot == k && (match t.stop with | some (.fault _ _) => true | _ => false)
  if pt.psState ≠ 0 ∨ going then
    (if s.tasks.any (fun t => t.faultedIn pt.vf k) || going then s.setPart { pt with pfdones := pt.pfdones ++ [k] } else s)
  else s.pagesArrived pt.vf k

/-- PFDONE. -/
def execPfdone (rw : RegWrite) (s : State) : Host.Outcome State Fault Refusal :=
  regWrite rw (.pfdone rw) s writePfdone

/-- A launch queue stops in error (R175): ERR, and ASYNC.LQERR to the host, with VF vector 2 (R414). -/
def State.stopQueue (s : State) (vf k : Nat) : State :=
  match s.part? vf with
  | none => s
  | some p => ((s.setPart (p.setQueue k { p.queue k with err := true })).hostCause cLQERR (w64 k)).send (.msix vf 2)

/-- Whether a queue must stop (R175). -/
def LaunchQueue.mustStop (q : LaunchQueue) : Bool :=
  !q.err && (decide (2 ^ q.log.toNat < (q.prod - q.cons).toNat) || (q.en && (decide (q.log.toNat < 4))))

/-- Stops a queue that must stop. -/
def State.checkQueue (s : State) (vf k : Nat) : State :=
  match s.part? vf with
  | none => s
  | some p => if (p.queue k).mustStop then s.stopQueue vf k else s

/-- lqctl (R174, R175, R177): EN, LOG and TICKETS are written; LQAGE becomes zero; EN rising clears an error and takes
LQCONS to LQPROD. -/
def writeLqctl (k : Nat) (pt : Partition) (v : Word) (s : State) : State :=
  let q := pt.queue k
  let en := bitOf v.toNat 20
  let clears := q.err && !q.en && en
  (s.setPart (pt.setQueue k { q with
    en := en, log := BitVec.ofNat 4 (fld v.toNat 16 4), tickets := v.setWidth 16, age := 0,
    err := q.err && !clears, cons := if clears then q.prod else q.cons })).checkQueue pt.vf k

/-- LQCTL_WRITE. -/
def execLqctlWrite (k : Nat) (rw : RegWrite) (s : State) : Host.Outcome State Fault Refusal :=
  regWrite rw (.lqctlWrite k rw) s (writeLqctl k)

/-- lqprod: the doorbell of R175. -/
def writeLqprod (k : Nat) (pt : Partition) (v : Word) (s : State) : State :=
  (s.setPart (pt.setQueue k { pt.queue k with prod := v.setWidth 32 })).checkQueue pt.vf k

/-- LQPROD_DOORBELL. -/
def execLqprodDoorbell (k : Nat) (rw : RegWrite) (s : State) : Host.Outcome State Fault Refusal :=
  regWrite rw (.lqprodDoorbell k rw) s (writeLqprod k)

/-- Word `n` of VF BAR0 (R413): register 0x800 + n by its Access codes, zero past the registers. -/
def State.barWord (s : State) (p : Partition) (n : Nat) : Word := if n < 0x90 then (s.readPart p (0x800 + n)).getD 0 else 0

/-- The host writes a partition register through VF BAR0 (R413): as SETC does, but PSCTL and unassigned offsets ignore it. A write
arrives only while the host port answers (R412). -/
def execBarRegisterWrite (vf : Nat) (creg : BitVec 12) (value : Word) (s : State) : Host.Outcome State Fault Refusal :=
  if !s.portLive 8 then .next s
  else match s.part? vf with
  | none => .next (s.send (.unsupported 8))
  | some pt =>
    let n := creg.toNat
    .next (
      if n = 0x802 then writeHbase pt value s
      else if n = 0x803 then writeTlbinv pt value s
      else if n = 0x809 then writeLseed pt value s
      else if n = 0x80A then writeSwap false pt value s
      else if n = 0x80C then writeSwap true pt value s
      else if n = 0x80D then writePfdone pt value s
      else if 0x850 ≤ n ∧ n ≤ 0x85F then writeLqctl (n % 16) pt value s
      else if 0x860 ≤ n ∧ n ≤ 0x86F then writeLqprod (n % 16) pt value s
      else s.setPart (pt.writeReg n value))

/-! ## SVC (R265) -/

/-- SVC: a release at SYS scope; the notice joins those that wait, and the task stalls until it is written. -/
def execSvc (p : Pred) (sd sa : Nat) (s : State) : Host.Outcome State Fault Refusal :=
  runJump p (.svc p sd sa) s fun t => do
    fenceRel .sys
    modS fun s => s.raiseNotice t.vf { t.notice cSWTRAP 0xFFFFFFFF (t.rs sa) with task := some t.id, svc := true }
    modT fun u => { u with wait := some (.notice (.svc p sd sa) sd), stallSince := none }

/-! ## CFLUSH and CINV (R266) -/

/-- Whether the line of an address holds a byte of `n` bytes from `a`. -/
def lineInRange (line a n : Nat) : Bool :=
  decide ((line * 128 + 2 ^ 56 - a) % 2 ^ 56 < n) || (decide (0 < n) && decide ((a + 2 ^ 56 - line * 128) % 2 ^ 56 < 128))

/-- Whether a cache line holds a byte of a range, for an ASID. -/
def Line.inRange (l : Line) (asid a n : Nat) : Bool :=
  match l.key with
  | .virt g x k => (g || x == asid) && lineInRange k a n
  | .honey _ => false

/-- Whether a hive's caches act under a scope. -/
def scopeHive (scope : Scope) (t : Task) (p : Partition) (h : Nat) : Bool :=
  let mine := decide (p.firstHive ≤ h) && decide (h < p.firstHive + p.nHives)
  match scope with
  | .hive => h == t.hive
  | .die => mine && dieOf h == dieOf t.hive
  | _ => mine

/-- Writes back hive-cache lines one after another; the lines stay, clean. -/
def cleanLines (c : Ctx) : List (Nat × Line) → M Unit
  | [] => pure ()
  | (h, l) :: r => do
    liftX .write (match l.key with | .virt _ _ n => n * 128 | .honey n => n * 128) fun s =>
      match s.cleanHiveLine { c with hive := h } l false with
      | .error x => .error x
      | .ok s => .ok ((), s)
    cleanLines c r

/-- Writes back die-cache lines one after another. -/
def cleanDieLines (c : Ctx) : List Line → M Unit
  | [] => pure ()
  | l :: r => do
    liftX .write (match l.key with | .virt _ _ n => n * 128 | .honey n => n * 128) fun s =>
      match s.cleanDieLine c l false with
      | .error x => .error x
      | .ok s => .ok ((), s)
    cleanDieLines c r

/-- Runs a computation for each member of a list, in order. -/
def forEach {α : Type} (f : α → M Unit) : List α → M Unit
  | [] => pure ()
  | x :: r => do f x; forEach f r

/-- The line numbers of a partition's dirty lines that hold a byte of a range, along the range (R266). -/
def State.dirtyNumbers (s : State) (asid a n : Nat) : List Nat :=
  sortBy (fun x y => decide ((x * 128 + 2 ^ 56 - a / 128 * 128) % 2 ^ 56 ≤ (y * 128 + 2 ^ 56 - a / 128 * 128) % 2 ^ 56))
    ((((s.hiveLines.map (·.2)) ++ s.dieLines).filter fun l => l.dirty != 0 && l.inRange asid a n).map (·.key.number)).eraseDups

/-- Writes back the copies of one line: those of the hives of a scope, then for SYS that of its home die cache. -/
def flushLine (scope : Scope) (t : Task) (pt : Partition) (k : Nat) : M Unit := do
  let asid := pt.asid.toNat
  let s ← getS
  cleanLines (t.ctx pt) (s.hiveLines.filter fun x =>
    x.2.dirty != 0 && scopeHive scope t pt x.1 && x.2.key.number == k && x.2.inRange asid (k * 128) 128)
  if scope = .sys then
    let s ← getS
    cleanDieLines (t.ctx pt) (s.dieLines.filter fun l => l.dirty != 0 && l.key.number == k && l.inRange asid (k * 128) 128)

/-- CFLUSH: line by line along the range, so that a failing write-back names the first line that fails. -/
def execCflush (p : Pred) (scope : Scope) (h sa sb : Nat) (s : State) : Host.Outcome State Fault Refusal :=
  runWord .q p (.cflush p scope h sa sb) s fun t => do
    let pt ← getP
    let o := (t.rs sa).toNat
    let n := (t.rs sb).toNat
    let hd ← useHandle h
    checkBound hd o n
    checkPerm hd .read (hd.addr o)
    if hd.space = .hbm ∧ n ≠ 0 then
      let a := hd.addr o
      let asid := pt.asid.toNat
      let s ← getS
      forEach (flushLine scope t pt) (s.dirtyNumbers asid a n)

/-- CINV. -/
def execCinv (p : Pred) (scope : Scope) (icache : Bool) (h sa sb : Nat) (s : State) : Host.Outcome State Fault Refusal :=
  runWord .q p (.cinv p scope icache h sa sb) s fun t => do
    let pt ← getP
    let o := (t.rs sa).toNat
    let n := (t.rs sb).toNat
    let hd ← useHandle h
    checkBound hd o n
    checkPerm hd .write (hd.addr o)
    if hd.space = .hbm ∧ n ≠ 0 then
      let a := hd.addr o
      let asid := pt.asid.toNat
      let gone (k : Nat × Line) : Bool := scopeHive scope t pt k.1 && k.2.inRange asid a n
      modS fun s => { s with
        hiveLines := s.hiveLines.filter fun k => !gone k
        icLines := if icache then s.icLines.filter fun k => !gone k else s.icLines
        dieLines := if scope = .sys then s.dieLines.filter fun l => !l.inRange asid a n else s.dieLines }

/-! ## Stage queues (R53 to R56, R267, R268) -/

/-- A launch of a partition. -/
def Partition.launch? (p : Partition) (l : Nat) : Option Launch := p.launches.find? (·.id == l)

/-- Replaces a launch. -/
def Partition.setLaunch (p : Partition) (l : Launch) : Partition :=
  { p with launches := p.launches.map fun m => if m.id == l.id then l else m }

/-- A stage of a launch. -/
def Launch.stage (l : Launch) (k : Nat) : Stage :=
  l.stages.getD k { entry := 0, combs := 16, mx := false, stream := false, out := 0, live := 1, qdepth := 0, maxt := 0, inq := 0,
                    head := 0, count := 0 }

/-- Replaces a stage of a launch. -/
def Launch.setStage (l : Launch) (k : Nat) (g : Stage) : Launch := { l with stages := l.stages.set k g }

/-- Address of the item at place `n` of a queue (R44, R53). -/
def Stage.itemAddr (g : Stage) (n : Nat) : Nat := g.inq + 64 * (if g.qdepth = 0 then 0 else n % g.qdepth)

/-- Extent of the part of a level that falls to this chip and, for the level over dies, to stack `d` of `n` (R49). -/
def Launch.localExtent (l : Launch) (n d : Nat) (v : Level) : Nat :=
  match v.kind with
  | 1 => v.extent
  | 2 => (v.extent + n - 1 - d) / n
  | 3 => (v.extent + l.ranks - 1 - l.rank) / l.ranks
  | _ => 1

/-- Index points of this chip, on stack `d` of `n` when a level is spatial over dies (R48, R49). -/
def Launch.share (l : Launch) (n d : Nat) : Nat := l.levels.foldl (fun a v => a * l.localExtent n d v) 1

/-- An index point remains to create a task. -/
def Launch.pointsLeft (l : Launch) (n : Nat) : Bool :=
  !l.killed && l.nexts.zipIdx.any fun p => decide (p.1 < l.share n p.2)

/-- The stacks of a partition, of which a half or a quarter of one is one (R40, R49). -/
def Partition.stacks (p : Partition) : Nat := max 1 (p.nHives / 64)

/-- The stacks of the partition of a virtual function. -/
def State.stacksOf (s : State) (vf : Nat) : Nat :=
  match s.part? vf with
  | some p => p.stacks
  | none => 1

/-- Whether tasks of a stage of a launch exist. -/
def State.stageAlive (s : State) (vf l k : Nat) : Bool := s.tasks.any fun t => t.vf == vf && t.launch == l && t.stage == k

/-- A queue is closed (R56): for every producer, no task exists, and no index point or item remains to create one. -/
def State.queueClosed (s : State) (vf : Nat) (l : Launch) (k : Nat) : Bool :=
  (l.stages.zipIdx).all fun p =>
    p.1.out != k || (!s.stageAlive vf l.id p.2 && (if p.2 = 0 then !l.pointsLeft (s.stacksOf vf) else p.1.count == 0))

/-- The words of registers `r` to `r + 7`. -/
def Task.itemWords (t : Task) (r : Nat) : List Byte := (List.range 8).flatMap fun k => leBytes 8 (t.rs (r + k)).toNat

/-- Writes the 64 bytes of an item into eight registers from `r`. -/
def Task.setItem (t : Task) (r : Nat) (b : List Byte) : Task :=
  (List.range 8).foldl (fun t k => t.ws (r + k) (w64 (leNat ((b.drop (8 * k)).take 8)))) t

/-- The launch of the current task. -/
def getL : M Launch := do
  let t ← getT
  let p ← getP
  match p.launch? t.launch with
  | some l => pure l
  | none => stall

/-- Replaces a launch of the current task's partition. -/
def setL (l : Launch) : M Unit := do
  let p ← getP
  modS fun s => s.setPart (p.setLaunch l)

/-- Whether the place of an item still holds one that a new task of the launch has to read (R433). -/
def State.itemHeld (s : State) (vf l a : Nat) : Bool := s.tasks.any fun u => u.vf == vf && u.launch == l && u.itemAt == some a

/-- A queue has room: fewer items than its depth, and the next place free of an item that its task has not read (R53, R433). -/
def State.queueRoom (s : State) (vf : Nat) (l : Launch) (k : Nat) : Bool :=
  let g := l.stage k
  decide (g.count < g.qdepth) && !s.itemHeld vf l.id (g.itemAddr (g.head + g.count))

/-- ENQ (R268, R53 to R55): a release at PKG scope, then the item is written into INQ (R433). -/
def execEnq (p : Pred) (sa : Nat) (s : State) : Host.Outcome State Fault Refusal :=
  let i : Instr := .enq p sa
  runWord .q p i s fun t => do
    check (decide (sa ≤ 56)) cILLFN (iword i)
    check (t.out ≠ 0) cILLFN (iword i)
    let l ← getL
    let pt ← getP
    let g := l.stage t.out
    let s ← getS
    if !s.queueRoom t.vf l t.out then stopWith (.stall .enq)
    else
      fenceRel .pkg
      let a := g.itemAddr (g.head + g.count)
      liftX .write a fun s =>
        match State.devWrite pt a (t.itemWords sa) s with
        | .error x => .error x
        | .ok s => .ok ((), s)
      setL (l.setStage t.out { g with count := g.count + 1 })

/-- DEQ (R268, R53, R54, R56): the oldest item; on an empty closed queue, status 0; on an empty open one, a stall. -/
def execDeq (p : Pred) (sd : Nat) (s : State) : Host.Outcome State Fault Refusal :=
  let i : Instr := .deq p sd
  runWord .q p i s fun t => do
    check (decide (sd ≤ 55)) cILLFN (iword i)
    check (t.stage ≠ 0) cILLFN (iword i)
    let l ← getL
    let pt ← getP
    let g := l.stage t.stage
    if g.count = 0 then
      let s ← getS
      if s.queueClosed t.vf l t.stage then modT fun u => u.ws sd 0 else stall
    else
      let a := g.itemAddr g.head
      let b ← liftX .read a fun s => State.devRead pt a 64 s
      check (!anyBad b) cHBMUE (w64 (a + b.findIdx (·.2)))
      setL (l.setStage t.stage { g with head := g.head + 1, count := g.count - 1 })
      fenceAcq .pkg
      modT fun u => (u.setItem (sd + 1) (bytesOf b)).ws sd 1

/-! ## LAUNCH (R269) -/

/-- LAUNCH: the card is read; then the status is found, or the card goes to the ring and the doorbell rings. -/
def execLaunch (p : Pred) (sd h sa k : Nat) (s : State) : Host.Outcome State Fault Refusal :=
  runWord .q p (.launch p sd h sa k) s fun t => do
    let hd ← useHandle h
    let a ← checkAccess hd (t.rs sa).toNat 128 .read 128
    let b ← readWhole hd false a 128
    raiseBad hd a b
    let u ← getT
    let card := u.overlay 0 hd.space a (bytesOf b)
    let pt ← getP
    let q := pt.queue k
    let fail (n : Nat) : M Unit := modT fun u => u.ws sd (w64 (2 ^ 63 + n))
    if !q.en || q.err then fail 2
    else if q.sup && !t.sup then fail 3
    else if (q.prod - q.cons).toNat = 2 ^ q.log.toNat then fail 1
    else
      fenceRel .sys
      let slot := q.base.toNat * 128 + 128 * (q.prod.toNat % 2 ^ q.log.toNat)
      liftX .write slot fun s =>
        match State.devWrite pt slot card s with
        | .error x => .error x
        | .ok s => .ok ((), s)
      modS fun s => writeLqprod k pt ((q.prod + 1).setWidth 64) s
      modT fun u => u.ws sd (q.prod.setWidth 64)

/-! ## The waggle crossbar (R69 to R72, R270, R271, R436) -/

/-- A counter of a hive. -/
def Hive.counter (h : Hive) (n : Nat) : Counter := h.counters.getD n Counter.free

/-- A term of a hive. -/
def Hive.term (h : Hive) (n : Nat) : Term := h.terms.getD n Term.free

/-- The counters that a term names. -/
def Term.names (e : Term) (n : Nat) : Bool := e.p0.getLsbD n || e.p1.getLsbD n

/-- One pulse of an input, as counter `n` of a hive takes it (R69, R71): at THRESH it returns to zero and sets its latches. -/
def Hive.pulseCounter (owner input : Nat) (h : Hive) (n : Nat) : Hive :=
  let c := h.counter n
  if c.owner = some owner ∧ c.src = input ∧ c.thresh ≠ 0 then
    if c.count + 1 = c.thresh then
      { h with
        counters := h.counters.set n { c with count := 0 }
        terms := h.terms.map fun e => if e.names n then { e with latched := e.latched ||| BitVec.ofNat 16 (2 ^ n) } else e }
    else { h with counters := h.counters.set n { c with count := (c.count + 1) % 2 ^ 16 } }
  else h

/-- The counters and latches of a hive after a pulse of a task's input. -/
def State.latch (s : State) (hive owner input : Nat) : State :=
  s.setHive ((List.range 16).foldl (Hive.pulseCounter owner input) (s.hive hive))

/-- A product is complete: nonzero, and every counter in it is latched (R71). -/
def productDone (p latched : BitVec 16) : Bool := p != 0 && (p &&& latched) == p

/-- Whether a term fires now. -/
def Term.ready (e : Term) : Bool := productDone e.p0 e.latched || productDone e.p1 e.latched

/-- The terms of a hive that fire now. -/
def Hive.readyTerms (h : Hive) : List Nat := (List.range 16).filter fun n => (h.term n).ready

/-- A pulse of a task's input in its hive (R69, R71): the terms that it completes fire in the next steps, before any other pulse. -/
def State.pulse (s : State) (hive owner input : Nat) : State :=
  let s := s.latch hive owner input
  { s with agenda := ((s.hive hive).readyTerms.map fun n => Instr.waggleTermFire hive n) ++ s.agenda }

/-- The oldest matrix operation of a queue that is armed on a term starts. -/
def startMx (term : Nat) : List MxOp → Option (List MxOp)
  | [] => none
  | o :: r => if o.armed = some term then some ({ o with armed := none } :: r) else (startMx term r).map (o :: ·)

/-- What a firing does when nothing waits for it (R72). -/
def Hive.raisePend (h : Hive) (n : Nat) : Hive := { h with terms := h.terms.set n { h.term n with pend := min 255 ((h.term n).pend + 1) } }

/-- What a firing starts at an engine: the oldest job or matrix operation of the task that is armed on the term; without one PEND
rises (R72). -/
def State.startArmed (s : State) (h : Hive) (t : Task) (term : Nat) : State :=
  match s.jobs.find? fun j => j.task == t.id && j.armed == some term with
  | some j => s.setJob { j with armed := none }
  | none =>
    match startMx term t.mx.queue with
    | some q => s.setTask { t with mx := { t.mx with queue := q } }
    | none => s.setHive (h.raisePend term)

/-- A term that is ready fires (R71, R72): its latches are cleared, and the task that waits for it resumes, or the oldest job armed on it
starts, or PEND rises. The terms of a task that is swapped out wait with it. -/
def State.fireTerm (s : State) (hv term : Nat) : State :=
  let h := s.hive hv
  let e := h.term term
  if !e.ready || (match e.owner.bind s.task? with | some t => t.place != .vlc | none => false) then s
  else
    let h := { h with terms := h.terms.set term { e with latched := 0 } }
    let s := s.setHive h
    match e.owner.bind s.task? with
    | none => s.setHive (h.raisePend term)
    | some t =>
      match t.wait with
      | some (.waggle i sd n) =>
        if n = term ∧ e.tgt = 3 then s.setTask ((t.awake.ws sd 0).retire i) else s.startArmed h t term
      | _ => s.startArmed h t term

/-- WAGGLE_TERM_FIRE (R71, R72). -/
def execWaggleTermFire (hv term : Nat) (s : State) : Host.Outcome State Fault Refusal := .next (s.fireTerm hv term)

/-- Every term of a hive that is ready fires. -/
def State.fireTerms (s : State) (hv : Nat) : State := (s.hive hv).readyTerms.foldl (fun s n => s.fireTerm hv n) s

/-- Whether a job or matrix operation is armed on a term of a task. -/
def State.armedOn (s : State) (t : Task) (term : Nat) : Bool :=
  s.jobs.any (fun j => j.task == t.id && j.armed == some term) || t.mx.queue.any (·.armed == some term)

/-- The word of a counter (R70). -/
def Counter.word (c : Counter) : Word := w64 (c.thresh * 2 ^ 16 + c.src * 2 ^ 8)

/-- The word of a term (R70). -/
def Term.word (e : Term) : Word := w64 (e.p1.toNat * 2 ^ 48 + e.p0.toNat * 2 ^ 32 + e.tgt * 2 ^ 30 + e.pend)

/-- Whether every counter named by two products is owned by a task. -/
def Hive.ownsAll (h : Hive) (id : Nat) (p0 p1 : BitVec 16) : Bool :=
  (List.range 16).all fun n => !(p0.getLsbD n || p1.getLsbD n) || (h.counter n).owner == some id

/-- The status of WGCFG.wr (R270); where both 2 and 3 apply, 2 (DESIGN CHOICE, log 99). -/
def wgWrStatus (s : State) (h : Hive) (t : Task) (term : Bool) (n : Nat) (v : Word) : Nat :=
  let owner := if term then (h.term n).owner else (h.counter n).owner
  if owner.isSome && owner != some t.id then 1
  else if term && !h.ownsAll t.id (BitVec.ofNat 16 (fld v.toNat 32 16)) (BitVec.ofNat 16 (fld v.toNat 48 16)) then 2
  else if term && s.armedOn t n then 3
  else 0

/-- The term that a word configures for a task: latches clear, PEND 0 (R270). -/
def Term.of (owner : Nat) (v : Nat) : Term :=
  ⟨some owner, BitVec.ofNat 16 (fld v 48 16), BitVec.ofNat 16 (fld v 32 16), fld v 30 2, 0, 0⟩

/-- The counter that a word configures for a task: count 0 (R270). -/
def Counter.of (owner : Nat) (v : Nat) : Counter := ⟨some owner, fld v 16 16, fld v 8 5, 0⟩

/-- WGCFG.wr (R270). -/
def execWgcfgWr (p : Pred) (sd sa : Nat) (term : Bool) (n : Nat) (s : State) : Host.Outcome State Fault Refusal :=
  runWord .q p (.wgcfgWr p sd sa term n) s fun t => do
    let h := s.hive t.hive
    let v := t.rs sa
    let st := wgWrStatus s h t term n v
    if st = 0 then
      modS fun s => s.setHive (
        if term then { h with terms := h.terms.set n (Term.of t.id v.toNat) }
        else
          { h with
            counters := h.counters.set n (Counter.of t.id v.toNat)
            terms := h.terms.map fun e => { e with latched := e.latched &&& ~~~ BitVec.ofNat 16 (2 ^ n) } })
    modT fun u => u.ws sd (w64 st)

/-- The status of WGCFG.free (R270). -/
def wgFreeStatus (s : State) (h : Hive) (t : Task) (term : Bool) (n : Nat) : Nat :=
  let owner := if term then (h.term n).owner else (h.counter n).owner
  if owner.isSome && owner != some t.id then 1
  else if !term && h.terms.any (fun e => e.owner == some t.id && e.names n) then 2
  else if term && s.armedOn t n then 3
  else 0

/-- WGCFG.free (R270). -/
def execWgcfgFree (p : Pred) (sd sa : Nat) (term : Bool) (n : Nat) (s : State) : Host.Outcome State Fault Refusal :=
  runWord .q p (.wgcfgFree p sd sa term n) s fun t => do
    let h := s.hive t.hive
    let st := wgFreeStatus s h t term n
    if st = 0 then
      modS fun s => s.setHive (if term then { h with terms := h.terms.set n Term.free }
        else { h with counters := h.counters.set n Counter.free })
    modT fun u => u.ws sd (w64 st)

/-- WGCFG.rd (R270). -/
def execWgcfgRd (p : Pred) (sd sa : Nat) (term : Bool) (n : Nat) (s : State) : Host.Outcome State Fault Refusal :=
  runTask .q p (.wgcfgRd p sd sa term n) s fun t =>
    let h := s.hive t.hive
    t.ws sd (
      if term then (if (h.term n).owner = some t.id then (h.term n).word else 0)
      else (if (h.counter n).owner = some t.id then (h.counter n).word else 0))

/-- WGFIRE (R271). -/
def execWgfire (p : Pred) (code : Nat) (s : State) : Host.Outcome State Fault Refusal :=
  runWord .q p (.wgfire p code) s fun t => modS fun s => s.pulse t.hive t.id (20 + code)

/-- The pulse input of a matrix operation with a tag (R69). -/
def MxOp.input (o : MxOp) : Option Nat := o.tag.map (16 + ·)

/-- A pulse input is the source of a counter of the task that a product of a term names (R70). -/
def State.feedsTerm (s : State) (t : Task) (e : Term) (input : Option Nat) : Bool :=
  (List.range 16).any fun n =>
    let c := (s.hive t.hive).counter n
    e.names n && c.owner == some t.id && input == some c.src

/-- Whether a WGWAIT on a term waits for a job or matrix operation that is paused or held behind a paused one (R152). -/
def State.waggleNeedsPaused (s : State) (t : Task) (e : Term) : Bool :=
  s.jobs.any (fun j => j.task == t.id && s.jobHeld t j && s.feedsTerm t e j.input) || t.heldOps.any (fun o => s.feedsTerm t e o.input)

/-- WGWAIT (R436). -/
def execWgwait (p : Pred) (sd term : Nat) (s : State) : Host.Outcome State Fault Refusal :=
  let i : Instr := .wgwait p sd term
  runJump p i s fun t => do
    let h := s.hive t.hive
    let e := h.term term
    if e.owner ≠ some t.id ∨ e.tgt ≠ 3 then finishWord i fun u => u.ws sd 1
    else if 0 < e.pend then
      modS fun s => s.setHive { h with terms := h.terms.set term { e with pend := e.pend - 1 } }
      finishWord i fun u => u.ws sd 0
    else if s.waggleNeedsPaused t e then stopWith (.engine none)
    else modT fun u => { u with wait := some (.waggle i sd term), stallSince := none }

/-! ## Words of unassigned opcodes -/

/-- The lanes of a word whose OPC is unassigned: one below 0x40 and from 0x78, else per cell (R208). -/
def opcLanes (opc : Nat) : Lanes := if opc < 0x40 ∨ 0x78 ≤ opc then .q else .cell

/-- A word whose OPC is unassigned raises INSN.ILLOP when it has an active lane; 0x00 and 0x7F raise it always (R209 to
R211). -/
def execIllegalOpcode (w : Word) (x : Option Word) (s : State) : Host.Outcome State Fault Refusal :=
  match s.curTask with
  | none => .fault .noTask
  | some t =>
    let o := fld w.toNat 56 7
    let p : Pred := ⟨bitOf w.toNat 55, fld w.toNat 52 3⟩
    if o = 0 ∨ o = 0x7F ∨ laneActive (opcLanes o) p t then .next (s.takeTrap t cILLOP w t.pc)
    else .next (s.setTask (t.retire (.illegalOpcode w x)))

end Sys2Proof.Machine
end

