-- ==== Sys2Proof/Machine/Turn.lean ====
section
/-! DEFINITION. Which task issues next (R24, R250), and the fetch and decoding of its instruction (R207, R245). -/

namespace Sys2Proof.Machine

/-! ## The next task (R24, R250) -/

/-- The least number of a list above `last`, else the least. -/
def nextAfter (last : Nat) (xs : List Nat) : Option Nat :=
  match (xs.filter fun x => decide (last < x)).min? with
  | some x => some x
  | none => xs.min?

/-- Tasks that may issue, YIELD apart. -/
def State.issuables (s : State) : List Task := s.tasks.filter (·.issuable)

/-- A yielding task waits while a task it yields to may issue (R250). -/
def State.mayIssue (s : State) (t : Task) : Bool := !(t.yield.any fun id => s.issuables.any (·.id == id))

/-- The next hive with an instruction ready, after the hive served last, and in it the VLC after the one served last. -/
def State.pickTask (s : State) : Option Task :=
  let ready := s.issuables.filter fun t => s.mayIssue t
  match nextAfter s.turn (ready.map (·.hive)) with
  | none => none
  | some h =>
    let here := ready.filter (·.hive == h)
    match nextAfter (s.hive h).served (here.map (·.vlc)) with
    | none => none
    | some v => here.find? (·.vlc == v)

/-- A task is served: its turn, its hive's turn, and the tasks that yielded to it. -/
def State.serve (s : State) (t : Task) : State :=
  let s := s.setHive { s.hive t.hive with served := t.vlc }
  { s with
    turn := t.hive, cur := some t.id
    tasks := s.tasks.map fun u =>
      if u.id == t.id then { u with yield := [] }
      else if u.yield.isEmpty then u
      else { u with yield := u.yield.filter (· != t.id) } }

/-! ## Fetch and decode (R207, R245) -/

/-- What stands at a task's pc. -/
inductive Issue where
  | run (i : Instr)
  | reject (r : Reject)
  | bad (addr : Nat)
  | fault (addr : Nat)
  | body (w : Word)
deriving DecidableEq, Repr

/-- The first word at `pc` is the last body word of the innermost loop (R245). -/
def Task.lastBodyWord (t : Task) : Bool :=
  match t.loops with
  | [] => false
  | r :: _ => t.pc + 8 == r.stop

/-- Decodes the words of an instruction. -/
def issueOf (w x : Word) : Issue :=
  match decode w x with
  | .ok i => .run i
  | .error r => .reject r

/-- Fetches and decodes the instruction at a task's pc. -/
def State.fetch (s : State) (t : Task) (p : Partition) : Issue × State :=
  match s.fetchWord t p t.pc with
  | (.err _, s) => (.fault t.pc.toNat, s)
  | (.bad a, s) => (.bad a, s)
  | (.word w, s) =>
    if !wordExt w then (issueOf w 0, s)
    else if t.lastBodyWord then (.body w, s)
    else
      match s.fetchWord ((s.task? t.id).getD t) p (t.pc + 8) with
      | (.err _, s) => (.fault (t.pc + 8).toNat, s)
      | (.bad a, s) => (.bad a, s)
      | (.word x, s) => (issueOf w x, s)

/-- The item of a new per-item task is read before its first instruction; a fault there is the task's (R433). -/
def State.readItem (s : State) (t : Task) (p : Partition) (a : Nat) : State :=
  match State.devRead p a 64 s with
  | .error .unmapped => s.setTask (t.askStop (.fault cLPF a) s.cycle.toNat)
  | .error .denied => s.takeTrap t cPROT (w64 a) t.pc
  | .ok (b, s) =>
    if anyBad b then s.takeTrap t cHBMUE (w64 (a + b.findIdx (·.2))) t.pc
    else s.setTask { t.setItem 2 (bytesOf b) with itemAt := none }

/-- The cause code of a refused word for a task, in supervisor mode or not (R211). -/
def refusedCode (sup : Bool) : DecodeCause → Nat
  | .illfn => cILLFN
  | .rsvnz => cRSVNZ
  | .privIllfn => if sup then cILLFN else cPRIV

/-- A word that the decoder refuses: its cause when it has an active lane, else a no-operation (R209, R211). -/
def State.refuseWord (s : State) (t : Task) (r : Reject) : State :=
  if laneActive r.lanes r.pred t then
    s.takeTrap t (refusedCode t.sup r.cause) r.word t.pc
  else s.setTask (t.seqTo (t.pc + BitVec.ofNat 56 (wordLen r.word)))

/-- The first instruction of a launch's tasks is its START (R46). A fetch that faults brings no instruction (DEDUCED, log 78). -/
def State.markStart (s : State) (t : Task) : State :=
  match s.part? t.vf with
  | none => s
  | some p =>
    match p.launch? t.launch with
    | some l => if l.start.isSome then s else s.setPart (p.setLaunch { l with start := some s.cycle.toNat })
    | none => s

/-- Serves a task: what its issue finds, and the state to act on. -/
def State.issue (s : State) (t : Task) : Issue × State :=
  let s := s.serve t
  match s.part? t.vf, s.task? t.id with
  | some p, some t =>
    match s.fetch t p with
    | (.fault a, s) => (.fault a, s)
    | (.bad a, s) => (.bad a, s)
    | (x, s) => (x, s.markStart t)
  | _, _ => (.fault t.pc.toNat, s)

end Sys2Proof.Machine
end

