-- ==== Sys2Proof/Machine/Birth.lean ====
section
/-! DEFINITION. The state of a new task (R60, R62, R63) and of a new partition (R156, R174, R178, R188, R193, R196); how an
instruction is placed for the next step. -/

namespace Sys2Proof.Machine

/-- What placement fixes for a new task. -/
structure Birth where
  id : Nat
  vf : Nat
  launch : Nat
  stage : Nat
  out : Nat
  sup : Bool
  hive : Nat
  vlc : Nat
  firstComb : Nat
  combs : Nat
  live : BitVec 32
  slot : Nat
  mx : Bool
  entry : Nat
  arg : Word
  avl : Nat
  slc : Option Nat
  ix : Vector (BitVec 40) 4
  queue : Nat
  serial : Nat
  seq : Nat
  rank : Nat
  itemAt : Option Nat
deriving DecidableEq, Repr

/-- No grant (R60). -/
def Matrix.none (res : Bool) : Matrix :=
  { res := res, rows := [], prows := [], steps := [], tiles := [], ptiles := [], drain := [], queue := [] }

/-- An idle forager queue (R367). -/
def FQueue.idle : FQueue := { st := .idle, fmt := 0, elems := [], count := 0, moved := 0, written := 0, job := 0 }

/-- A task at its first instruction (R60, R63), its combs not yet cleared (R59) (DESIGN CHOICE, log 13). -/
def Birth.task (b : Birth) : Task :=
  { id := b.id, vf := b.vf, launch := b.launch, stage := b.stage, out := b.out, sup := b.sup, hive := b.hive, vlc := b.vlc,
    firstComb := b.firstComb, combs := b.combs, live := b.live, slot := b.slot, place := .vlc, cleared := false,
    pc := BitVec.ofNat 56 b.entry, s := (Vector.replicate 64 0).setIfInBounds 1 b.arg, q := Vector.replicate 8 false,
    avl := BitVec.ofNat 40 b.avl, strip := 0, vstart := 0, sfill := 0, rngb := 0, fflags := 0, lc := Vector.replicate 3 0,
    loops := [], sen := b.slc.isSome, slc := BitVec.ofNat 2 (b.slc.getD 3), lbuf := [], lbad := [], tvec := 0, tcauseVs := false,
    tcauseCode := 0, tval := 0, tepc := 0, tin := false, tnote := false, tptrap := false, ix := b.ix,
    tqueue := BitVec.ofNat 4 b.queue, tlaunch := BitVec.ofNat 28 b.serial, tseq := BitVec.ofNat 32 b.seq,
    chiprank := BitVec.ofNat 12 b.rank, ocld := 0, ocst := 0, occp := 0, ocmx := 0, cols := [], par := [], tags := [],
    linear := false, heldSwitch := false, lease := Option.none, regs := Vector.replicate 32 Option.none,
    resume := Option.none, mx := Matrix.none b.mx, fq := List.replicate 8 FQueue.idle, defer := [], paths := [], stores := [],
    vld := [], vst := [], pend := Option.none, dues := [], dueFlags := 0, latePulses := [], lateDone := [],
    combpar := [], wait := Option.none, stallSince := Option.none, stop := Option.none, stopAt := 0, yield := [],
    itemAt := b.itemAt, restored := Option.none }

/-- The sequencer has cleared the task's combs (R59): every column and tag zero, column 0 one, parity even. -/
def Task.clear (t : Task) : Task :=
  { t with
    cols := t.allCells :: List.replicate 255 0, par := t.allCells :: List.replicate 7 0, tags := List.replicate 4 0,
    cleared := true }

/-- A partition just created (R425), its registers at their reset values (DESIGN CHOICE, log 66). -/
def Partition.create (vf firstHive nHives deferBase : Nat) (asid : BitVec 16) : Partition :=
  { vf := vf, firstHive := firstHive, nHives := nHives, deferBase := deferBase, asid := asid, ptroot := 0, hbase := 0,
    lseed := Config.lseedReset, swcnt := 0, swbase := 0, psState := 0, snqbase := 0, snqprod := 0, snqcons := 0,
    lq := Vector.replicate 16 ⟨0, false, false, false, 4, 0, 0, 0, 0⟩, notices := [], launches := [],
    serials := List.replicate 16 0, nextLaunch := 0, pfdones := [], drawAt := 0 }

/-! ## An instruction where the next step fetches -/

/-- The 24 bytes that hold two words and a third of zeros. -/
def placedBytes (w : Nat) : List Byte := leBytes 24 w

/-- Writes bytes at physical addresses from `pa` upward. -/
def State.physWriteN (s : State) : Nat → List Byte → State
  | _, [] => s
  | pa, b :: bs => (s.physWrite pa b).physWriteN (pa + 1) bs

/-- Virtual and physical address of the placed instruction, in memory that the page table below maps onto itself. -/
def placedAt : Nat := 0x10000

/-- A partition with VF 1 over stack 0 whose page table, in the first bytes of HBM, maps the first 32 GiB of HBM onto
themselves, readable, writable and executable: a level-0 entry naming the level-1 table at 0x8000, and there a leaf. -/
def State.placePartition (s : State) : State :=
  let s := { s with parts := [Partition.create 1 0 64 0 1], tlb := [], dieLines := [], icLines := [], hiveLines := [] }
  (s.physWriteN 0 (leBytes 8 0x8001)).physWriteN 0x8000 (leBytes 8 0x1F)

/-- A task of that partition in VLC 0 of hive 0, its combs cleared. -/
def placedTask : Task :=
  Task.clear (Birth.task
    { id := 0, vf := 1, launch := 0, stage := 0, out := 0, sup := false, hive := 0, vlc := 0, firstComb := 0, combs := 16,
      live := 0xFFFFFFFF, slot := 0, mx := true, entry := placedAt, arg := 0, avl := 0, slc := Option.none,
      ix := Vector.replicate 4 0, queue := 0, serial := 0, seq := 0, rank := 0, itemAt := Option.none })

/-- Drops what the caches hold of the lines at an address and the next. -/
def State.dropCached (s : State) (va : Nat) : State :=
  let away (l : Line) : Bool := match l.key with
    | .virt _ _ n => n != va / 128 && n != va / 128 + 1
    | .honey _ => true
  { s with
    hiveLines := s.hiveLines.filter fun k => away k.2
    icLines := s.icLines.filter fun k => away k.2
    dieLines := s.dieLines.filter away }

/-- Places an instruction, given as a number, where the next step fetches: at the pc of the task served next, through its
translation; where there is no such task, as the first instruction of a task placed for it. -/
def State.placeWord (s : State) (w : Nat) : State :=
  let s := { s with agenda := [], phase := false }
  let here (s : State) (t : Task) (p : Partition) : State :=
    match s.translate (t.ctx p) t.pc.toNat (some .hbm) with
    | .error _ => s
    | .ok (e, s) =>
      ((s.dropCached t.pc.toNat).physWriteN (e.phys t.pc.toNat) (placedBytes w)).setTask
        { t with lbuf := [], lbad := [], itemAt := Option.none, combpar := [], restored := Option.none }
  match s.pickTask with
  | some t =>
    match s.part? t.vf with
    | some p => here s t p
    | Option.none => s
  | Option.none =>
    let s := { s.placePartition with tasks := [placedTask] }
    match s.part? 1 with
    | some p => here s placedTask p
    | Option.none => s

end Sys2Proof.Machine
end

