-- ==== Sys2Proof/Machine/Operands.lean ====
section
/-! DEFINITION. The operands of the comb instructions: registers and elements (R89, R91, R272, R276), source modifiers
(R223), the checks of R275 and R112, parity (R18, R199), and the running of a comb instruction pass by pass with its resume
record (R115, R186, R187, R274, R277). -/

namespace Sys2Proof.Machine

/-! ## Registers and elements -/

/-- Replaces a descriptor. -/
def Task.setVreg (t : Task) (n : Nat) (r : Option VReg) : Task := { t with regs := t.regs.setIfInBounds n r }

/-- A register's cap. -/
def VReg.c (r : VReg) : Cap := Cap.of r.cap

/-- Names a register: unallocated raises INSN.ILLFN (R272). -/
def regOf (i : Instr) (n : Nat) : M VReg := do
  let t ← getT
  match t.vreg n with
  | some r => pure r
  | none => trap cILLFN (iword i)

/-- Names the register of a captured instruction; an empty field stands for one that is gone. -/
def Task.reg! (t : Task) (n : Nat) : VReg := (t.vreg n).getD ⟨8, 1, 0, false⟩

/-- Columns that a read of a format takes: its width, or PLANES for a bit-plane format (R91). -/
def Cap.readWidth (c : Cap) : Nat := if c.f.isPlane && c.planes != 0 then c.planes else c.f.width

/-- D0 of an output of `k` slots: `k - 1`; where the field cannot hold it, a free value (DESIGN CHOICE, log 80). -/
def slotExtent (k : Nat) : Nat := if k ≤ 65536 then k - 1 else (Config.freeExtent k).toNat

/-- The element of a register in a cell, under a cap (R89, R91): a bit-plane element reads its PLANES. -/
def Task.elem (t : Task) (base : Nat) (c : Cap) (cell : Nat) : Nat :=
  let x := t.cellBits base cell c.f.width
  if c.f.isPlane then planesRead c.planes x else x

/-- The element that a source delivers to element `e` (R223, R276). -/
def Task.srcElem (t : Task) (base : Nat) (c : Cap) (m : Modifier) (vl : Nat) (sfill : Word) (e : Nat) : Nat :=
  let fill := sfill.toNat % 2 ^ c.f.width
  match m with
  | .none => t.elem base c e
  | .sh d =>
    let i : Int := e - d.toInt
    if 0 ≤ i ∧ i < vl then t.elem base c i.toNat else fill
  | .grp k j =>
    let i := 2 ^ k * (e / 2 ^ k) + j
    if i < vl then t.elem base c i else fill

/-- Bit `j` of an element, extended as R278 reads above its width. -/
def extBit (f : Fmt) (x j : Nat) : Bool :=
  let w := f.width
  if j < w then bitOf x j
  else match f with
    | .sint _ | .bps => bitOf x (w - 1)
    | _ => false

/-- An element as a field of `n` columns holds it: sign copies above a SINT's width, zeros above any other (R89). -/
def fieldBits (f : Fmt) (n x : Nat) : Nat :=
  match f with
  | .sint w => ofInt (max n w) (toSigned w x)
  | f => x % 2 ^ f.width

/-- The cells of a set below a bound, in ascending order. -/
def cellsOf (set n : Nat) : List Nat := (List.range n).filter fun c => bitOf set c

/-- Bit `j` of each value, as a column. -/
def columnOf (j : Nat) : List (Nat × Nat) → Nat
  | [] => 0
  | (c, v) :: r => (if bitOf v j then 2 ^ c else 0) + columnOf j r

/-- Writes a column in the cells of a set (R18, R283). -/
def Task.writeCol (t : Task) (c set bits : Nat) : Task :=
  let old := t.col c
  t.setCol c ((old ^^^ (old &&& set)) ||| (bits &&& set))

/-- Writes values into the first `n` columns from `base`, in the cells of a set. -/
def Task.writeCols (t : Task) (base set : Nat) (vals : List (Nat × Nat)) (n : Nat) : Task :=
  (List.range n).foldl (fun t j => t.writeCol (base + j) set (columnOf j vals)) t

/-- A register is written as a destination: the mark of VDISC goes (R292). -/
def Task.clearMark (t : Task) (n : Option Nat) : Task :=
  match n.bind fun k => (t.vreg k).map fun r => (k, r) with
  | some (k, r) => if r.discard then t.setVreg k (some { r with discard := false }) else t
  | none => t

/-- Writes elements of a register in the cells of a set, over the whole field (R89); the mark of VDISC goes (R292). -/
def Task.writeElems (t : Task) (vd set : Nat) (f : Fmt) (vals : List (Nat × Nat)) : Task :=
  let r := t.reg! vd
  (t.writeCols r.base set (vals.map fun p => (p.1, fieldBits f r.width p.2)) r.width).clearMark (some vd)

/-- Writes a register's cap and clears its discard mark, as an instruction does to its destination (R107, R292). -/
def Task.writeCap (t : Task) (vd : Nat) (c : BitVec 128) : Task :=
  match t.vreg vd with
  | some r => t.setVreg vd (some { r with cap := c, discard := false })
  | none => t

/-! ## The checks of R275 and R112 -/

/-- What an operand slot names, for the checks and tval of R112. -/
structure Operand where
  slot : Nat
  reg : Nat
  cap : Cap
  bits : BitVec 128
deriving DecidableEq, Repr

/-- tval for a register (R112). -/
def capTval (reg slot : Nat) : Word := w64 (2 ^ 63 + reg * 2 ^ 8 + slot)

/-- A register as an operand. -/
def VReg.operand (r : VReg) (slot reg : Nat) : Operand := ⟨slot, reg, r.c, r.cap⟩

/-- What an inference finds (R102 to R106): the slot that mismatches, the slots that take part in the shape, the slot that is
unsupported, the format, a slot whose shape the instruction's own rule refuses, and the operand word that holds an unsupported
format (R363, R367) (DEDUCED, log 32). -/
structure Inferred where
  mismatch : Option Nat
  shapes : List (Nat × Cap)
  unsupported : Option Nat
  fmt : Fmt
  shape : Option Nat := none
  word : Option Word := none
deriving DecidableEq, Repr

/-- The shape that operands give: that of the lowest slot that does not broadcast, else of the first (R103, R112); its RANK is taken with
it (DESIGN CHOICE, log 85). -/
def refShape (l : List (Nat × Cap)) : Cap :=
  match l.find? fun p => !p.2.allOnes with
  | some p => p.2
  | none => match l with | p :: _ => p.2 | [] => Cap.blank

/-- The lowest slot whose shape differs from the reference (R112). -/
def shapeError (l : List (Nat × Cap)) : Option Nat :=
  (l.find? fun p => !p.2.allOnes && p.2.shape != (refShape l).shape).map (·.1)

/-- The lower of two slots. -/
def lowSlot (a b : Option Nat) : Option Nat :=
  match a, b with
  | some x, some y => some (min x y)
  | some x, none => some x
  | none, b => b

/-- Raises a cap cause at a slot. -/
def raiseCap (cause : Nat) (regs : Nat → Nat) (slot : Option Nat) : M Unit :=
  match slot with
  | some k => trap cause (capTval (regs k) k)
  | none => pure ()

/-- Raises a cap cause at the first destination that fails a test; every destination is slot 0. -/
def checkDsts (cause : Nat) (dsts : List (Nat × VReg × Nat)) (ok : VReg × Nat → Bool) : M Unit :=
  match dsts.find? fun d => !ok d.2 with
  | some d => trap cause (capTval d.1 0)
  | none => pure ()

/-- The cap checks of R112 in their order. `dsts` gives each destination with the width that it must have. -/
def capChecksAll (vd : Nat) (srcs : List Operand) (inf : Inferred) (dsts : List (Nat × VReg × Nat)) : M Unit := do
  let t ← getT
  let regs (k : Nat) : Nat := if k = 0 then vd else ((srcs.find? (·.slot == k)).map (·.reg)).getD 0
  raiseCap cCAPCHECK regs ((srcs.find? fun o => !capPasses o.bits).map (·.slot))
  raiseCap cDISCARD regs ((srcs.find? fun o => o.cap.discard).map (·.slot))
  raiseCap cMISMATCH regs inf.mismatch
  raiseCap cSHAPE regs (lowSlot inf.shape (shapeError inf.shapes))
  raiseCap cUNSUPPORTED regs inf.unsupported
  check inf.word.isNone cUNSUPPORTED (inf.word.getD 0)
  checkDsts cNARROW dsts fun d => decide (d.2 ≤ d.1.width)
  checkDsts cROWRITE dsts fun d => !d.1.c.ro
  raiseCap cPOISON regs (if t.tptrap then (srcs.find? fun o => o.cap.poison).map (·.slot) else none)

/-- The cap checks of an instruction with one destination, or none. -/
def capChecks (vd : Nat) (srcs : List Operand) (inf : Inferred) (dst : Option (VReg × Nat)) : M Unit :=
  capChecksAll vd srcs inf (dst.toList.map fun d => (vd, d))

/-- The overlap check of R275: the destination names a source that is read without a modifier, not in place. -/
def overlapCheck (i : Instr) (vd : Nat) (srcs : List (Nat × Modifier × Bool)) : M Unit :=
  check (!(srcs.any fun s => s.1 == vd && s.2.1 == .none && !s.2.2)) cOVERLAP (iword i)

/-! ## Source modifiers (R223, R276) -/

/-- The modifiers of a word. -/
def modsOf (m : Option Mods) : Mods := m.getD ⟨.none, .none, .none⟩

/-- Passes that stage a modified source of width `w` (R276). -/
def stagePasses (m : Modifier) (w : Nat) : Nat :=
  match m with
  | .none => 0
  | .sh d => if d.toInt.natAbs ≤ 16 then w * d.toInt.natAbs else 0
  | .grp k _ => w * (k + 1)

/-- Scratch columns that a modified source takes (DEDUCED, log 58). -/
def stageWidth (m : Modifier) (w : Nat) : Nat := if m = .none then 0 else w

/-- The scratch-room check of R276 as the slot that CAP.UNSUPPORTED reports. -/
def scratchOver (staged : List (Modifier × Nat)) (own : Nat) : Option Nat :=
  if 40 < (staged.map fun p => stageWidth p.1 p.2).sum + own then some 0 else none

/-- The columns of a register as a source. -/
def VReg.readCols (r : VReg) : List Nat :=
  let w := r.c.f.width
  let n := r.c.readWidth
  (List.range n).map fun k => r.base + (w - n) + k

/-! ## Running a comb instruction -/

/-- What a sequence leaves in the tags and the scratch columns (R277): what its stated passes write; g0 alone stated; or
nothing stated. -/
inductive Leaves where
  | stated | g0 | free
deriving DecidableEq, Repr

/-- A comb instruction as the sequencer runs it: its lanes; what it checks and captures at issue; the columns it reads, each
with the boundary after the pass that reads it where the spec states that pass; the columns it writes; whether the spec gives its effect pass by
pass, and then the effect of one pass, with the sum it feeds; what it leaves in tags and scratch; its effect at
completion; the cells that it writes; what its passes up to a boundary have found (R324); and what it loads before its passes, with
the element at which that ends part-way and how (R298); whether it never stops part-way; and what it does outside the task when it is
complete. -/
structure Comb where
  lanes : Lanes
  prep : Task → M Resume
  reads : Resume → Task → List (Nat × Option Nat)
  writes : Task → List Nat
  stepped : Resume → Bool
  pass : Resume → Nat → Task → Task × Option (Nat × Word)
  leaves : Resume → Leaves
  finish : Resume → Task → Task
  cells : Resume → Task → Nat := fun r _ => r.active
  found : Resume → Nat → Task → List Nat := fun _ _ _ => []
  load : Resume → Task → M (Resume × Option (Nat × Stop)) := fun r _ => pure (r, none)
  whole : Bool := false
  outside : Resume → Task → State → State := fun _ _ s => s

/-- What every comb instruction captures at issue (R274), before its own. -/
def capture (i : Instr) (p : Pred) (t : Task) : Resume :=
  { instr := i, pc := t.pc, total := 0, stage := 0, vl := t.vl, strip := t.strip.toNat, active := activeCells p t,
    sfill := t.sfill, rngb := t.rngb, key := 0, mask := 0, caps := [], result := 0, sum := none, order := [], exchanges := 0, due := none, saved := [] }

/-- The cap captured for a slot's place in the list. -/
def Resume.cap (r : Resume) (k : Nat) : Cap := Cap.of (r.caps.getD k 0)

/-- The active cells of a captured instruction. -/
def Resume.cells (r : Resume) : List Nat := cellsOf r.active r.vl

/-- A held record for the instruction at pc (R187) (DEDUCED, log 51). -/
def Task.held (t : Task) (i : Instr) : Option Resume :=
  match t.resume with
  | some r => if r.instr = i ∧ r.pc = t.pc ∧ t.vstart ≠ 0 then some r else none
  | none => none

/-- Runs a word that a held record may continue: one that continues looks for no active lanes anew (R208). -/
def runHeld (l : Lanes) (p : Pred) (i : Instr) (s : State) (body : Task → M Unit) : Host.Outcome State Fault Refusal :=
  match s.curTask with
  | none => .fault .noTask
  | some t =>
    if (t.held i).isSome || laneActive l p t then
      match body t s with
      | .error e => .next (s.deliver t i e)
      | .ok (_, s') => .next s'
    else .next (s.setTask (t.retire i))

/-- Flat index of a captured cell (R301). -/
def Resume.flat (r : Resume) (t : Task) (e : Nat) : Nat := r.strip * t.vlmax + e

/-- The captured active cells whose tile element is below a count, from one cell on (R274, R301). -/
def Resume.tileCells (r : Resume) (t : Task) (n from_ : Nat) : List Nat :=
  r.cells.filter fun e => decide (r.flat t e < n) && decide (from_ ≤ e)

/-- The count-tree sum on its way reaches its register (R26, R283). -/
def Task.takeSum (t : Task) : Task :=
  match t.resume with
  | some r =>
    match r.sum with
    | some (n, v) => { t.ws n v with resume := some { r with sum := none } }
    | none => t
  | none => t

/-- Passes `k` to `k + n - 1` of an instruction. -/
def runPasses (f : Resume → Nat → Task → Task × Option (Nat × Word)) (r : Resume) : Nat → Nat → Task → Task
  | _, 0, t => t
  | k, n + 1, t =>
    let (t, sum) := f r k t
    runPasses f r (k + 1) n (match sum with | some (d, v) => t.ws d v | none => t)

/-- The passes of an instruction from `k` up to `stop`, where the spec gives them. -/
def Comb.runTo (c : Comb) (r : Resume) (k stop : Nat) (t : Task) : Task :=
  if c.stepped r then runPasses c.pass r k (stop - k) t else t

/-- What a standard sequence leaves in g0, g1 and the scratch columns has no stated value (R277): free values. -/
def Task.scrub (t : Task) (n : Nat) (g0 : Bool) : Task :=
  let g := if g0 then t.tags.getD 0 0 else Config.freeColumn n % 2 ^ t.vlmax
  let t := { t with tags := g :: Config.freeColumn (n + 1) % 2 ^ t.vlmax :: t.tags.drop 2 }
  (List.range 40).foldl (fun t k => t.setCol (216 + k) (Config.freeColumn (n + 2 + k) % 2 ^ t.vlmax)) t

/-- The registers that hold some columns are written as destinations (R292). -/
def Task.clearMarks (t : Task) (cols : List Nat) : Task :=
  (List.range 32).foldl (fun u n =>
    match t.vreg n with
    | some r => if cols.any fun c => decide (r.base ≤ c) && decide (c < r.base + r.width) then u.clearMark (some n) else u
    | none => u) t

/-- At pass boundary `k` of an instruction whose passes are not stated, the columns that it writes hold free values in the
cells that it writes, and so do g0, g1 and scratch (R277, R324); the record keeps what the columns held at issue, and what the passes
have found (DESIGN CHOICE, log 33). The registers written lose the mark of VDISC (R292). -/
def Comb.blur (c : Comb) (r : Resume) (k : Nat) (s : State) (t : Task) : Resume × State × Task :=
  if c.stepped r then (r, s, t)
  else
    let w := c.writes t
    let r := if r.saved.isEmpty then { r with saved := w.map fun k => (k, t.col k) } else r
    let r := { r with work := c.found r k t }
    let t := w.zipIdx.foldl (fun t x => t.writeCol x.1 (c.cells r t) (Config.freeColumn (s.fresh + x.2))) (t.clearMarks w)
    (r, { s with fresh := s.fresh + w.length + 42 }, t.scrub (s.fresh + w.length) false)

/-- The columns as they were at issue, in the cells that the instruction writes. -/
def Comb.unblur (c : Comb) (r : Resume) (t : Task) : Task :=
  r.saved.foldl (fun t x => t.writeCol x.1 (c.cells r t) x.2) t

/-- What follows an instruction's completion: the next word, or at once the fault that its reading brings (R200). -/
def afterComb (r : Resume) (s : State) (t : Task) : State :=
  match r.due with
  | some (c, v) => s.takeTrap t c v t.pc
  | none => s.setTask (t.retire r.instr)

/-- An instruction completes: its effect, vstart zero, the record gone, tags and scratch. -/
def combDone (c : Comb) (r : Resume) (s : State) (t : Task) : State :=
  let t := { (c.finish r (c.unblur r t)).awake with vstart := 0, resume := none }
  let s := c.outside r t s
  match c.leaves r with
  | .stated => afterComb r s t
  | l => afterComb r { s with fresh := s.fresh + 42 } (t.scrub s.fresh (decide (l = Leaves.g0)))

/-- The parity failure that passes `k` and up of an instruction meet: its boundary where it is stated, the failing groups, and tval.
Where the passes that read a column are not stated, a group is met once. -/
def Comb.parityError (c : Comb) (r : Resume) (k : Nat) (t : Task) : Option (Option Nat × List Nat × Nat) :=
  let reads := (c.reads r t).filter fun x => match x.2 with
    | some b => decide (k < b)
    | none => decide (k < r.total) && !r.failed.contains (x.1 / 32)
  let bad := t.parityFails (reads.map (·.1))
  if bad.isEmpty then none
  else
    let hit := reads.filter fun x => bad.any fun b => b.1 == x.1 / 32
    let at? := (hit.filterMap (·.2)).min?
    let gs : List (Nat × Nat) := match at? with
      | some k => bad.filter fun b => hit.any fun x => x.2 == some k && x.1 / 32 == b.1
      | none => bad
    some (at?, gs.map (·.1), ((gs.map (·.2)).min?).getD 0)

/-- INTEG.COMBPAR at a pass boundary (R199), met by an instruction that has run to boundary `k`: its passes up to the failure's,
POISON, the held record, and the trap. Where the boundary is not stated it is a free value above `k`, up to the pass count. -/
def combParity (c : Comb) (r : Resume) (k : Nat) (s : State) (t : Task) (e : Option Nat × List Nat × Nat) : State :=
  let stop := e.1.getD (k + 1 + (Config.freeWord s.fresh).toNat % max 1 (r.total - k))
  let (r, s, t) := c.blur { r with failed := r.failed ++ e.2.1 } stop { s with fresh := s.fresh + 1 } (c.runTo r k stop t)
  let t := e.2.1.foldl Task.poisonGroup t
  s.takeTrap { t with vstart := BitVec.ofNat 32 stop, resume := some r } cCOMBPAR (w64 e.2.2) t.pc

/-- Row exchanges of an instruction whose source cap it captured (R323). -/
def exchangesOf (r : Resume) : Nat :=
  let w := (r.cap 0).readWidth
  match r.instr with
  | .vtopk .. | .vbotk .. | .vnear .. => 1
  | .vsort .. => w
  | .vperm .. => 2
  | .vuniq .. => w + 1
  | _ => 0

/-- The matrix unit reads the operands of the task's running MXMAC: the VLC is not ready for passes (R341, R25). -/
def Task.mxReading (t : Task) : Bool :=
  match t.mx.queue with
  | [] => false
  | o :: _ =>
    match o.kind with
    | .mac m => o.armed.isNone && o.paused.isNone && decide (0 < o.step) && decide (o.step < m.kcnt)
    | _ => false

/-- The combs of a task are not ready for passes: a lease holds them in linear mode (R142), or the matrix unit reads them. -/
def Task.combsTaken (t : Task) : Bool := t.lease.isSome || t.mxReading

/-- How a comb instruction comes to its passes: from pass `k` on, or to an early end. -/
inductive CombStart where
  | ready (r : Resume) (k : Nat) (t : Task) (s : State)
  | early (s : State)
deriving DecidableEq, Repr

/-- A load that ends part-way: at element 0 nothing is held; else the record is, at its element, in linear mode (R289). -/
def stopLoad (i : Instr) (r : Resume) (e : Nat) (x : Stop) (s : State) (t : Task) : State :=
  if e = 0 then s.deliver t i x
  else
    let t := { t with vstart := BitVec.ofNat 32 e, resume := some r, linear := true, heldSwitch := false }
    (s.setTask t).deliver t i x

/-- Starts or resumes a comb instruction of the current task: checks and captures, where no record is held (R187), and loads. A sum
that a record holds is taken before its next pass. -/
def Comb.start (c : Comb) (i : Instr) (s : State) (t : Task) : CombStart :=
  match t.held i with
  | some r =>
    match c.load r t s with
    | .error e => .early (s.deliver t i e)
    | .ok ((r', some (e, x)), s) => .early (stopLoad i r' e x s t)
    | .ok ((r', none), s) => .ready { r' with sum := none } (if r.loading then 0 else t.vstart.toNat) t.takeSum s
  | none =>
    match c.prep t s with
    | .error e => .early (s.deliver t i e)
    | .ok (r, s) =>
      if s.columnsBusy t ((c.reads r t).map (·.1)) (c.writes t) then .early (s.deliver t i (.stall (.condition none)))
      else match c.load r t s with
        | .error e => .early (s.deliver t i e)
        | .ok ((r, some (e, x)), s) => .early (stopLoad i r e x s t)
        | .ok ((r, none), s) => .ready r 0 t s

/-- Runs a comb instruction of the current task to its end: resumed where its record is held, without looking for active lanes
anew (R208), else issued afresh. -/
def runComb (p : Pred) (i : Instr) (c : Comb) (s : State) : Host.Outcome State Fault Refusal :=
  match s.curTask with
  | none => .fault .noTask
  | some t =>
    if (t.held i).isNone && !laneActive c.lanes p t then .next (s.setTask (t.retire i))
    else if t.combsTaken then .next (s.deliver { t with heldSwitch := t.linear } i (.stall (.condition none)))
    else match c.start i s t with
      | .early s => .next s
      | .ready r k t s =>
        let t := { t with linear := false }
        match c.parityError r k t with
        | some e => .next (combParity c r k s t e)
        | none => .next (combDone c r s (c.runTo r k r.total t))

/-- Pass `k` of a comb instruction: the last completes it, once no sum is on its way and its row exchanges are made (R322). -/
def Comb.onePass (c : Comb) (r : Resume) (k : Nat) (s : State) (t : Task) : State :=
  let (t, sum) := if c.stepped r && decide (k < r.total) then c.pass r k t else (t, none)
  if (r.total ≤ k + 1 ∨ c.whole) ∧ sum.isNone then combDone c r s t
  else
    let (r, s, t) := c.blur r (k + 1) s t
    s.setTask { t with vstart := BitVec.ofNat 32 (k + 1), resume := some { r with sum := sum } }

/-- The held instruction of a task waits before its next pass: for a sum, or before its last for its row exchanges. -/
def Task.passWaits (t : Task) (i : Instr) : Bool :=
  match t.held i with
  | some r => r.sum.isSome || (decide (r.total ≤ t.vstart.toNat + 1) && decide (r.exchanges < exchangesOf r))
  | none => false

/-- One pass of a comb instruction (R25, R283); the first issues it. A stall leaves the state as it was. -/
def stepComb (p : Pred) (i : Instr) (c : Comb) (s : State) (t : Task) : State :=
  if t.combsTaken || t.passWaits i || ((t.held i).isNone && !laneActive c.lanes p t) then s
  else match c.start i { s with cur := some t.id } t with
    | .early s' => { s' with cur := s.cur }
    | .ready r k t s' =>
      let s' := { s' with cur := s.cur }
      let t := { t with linear := false }
      match c.parityError r k t with
      | some e => combParity c r k s' t e
      | none => c.onePass r k s' t

end Sys2Proof.Machine
end

