-- ==== Sys2Proof/Machine/Tile.lean ====
section
/-! DEFINITION. Tiles in memory: the preamble and its checks (R77, R78), where the elements, scales and metadata lie (R79, R90,
R92 to R100), and the value of an element (R95, R96). -/

namespace Sys2Proof.Machine

/-! ## Sizes (R78, R79, R90, R92 to R94, R97, R98, R100) -/

/-- Bytes of `n` elements packed as R79 packs them. -/
def packedSize (f : Fmt) (n : Nat) : Nat := ceilDiv (n * f.container) 8

/-- Bytes of one plane of `n` elements (R90). -/
def planeStride (n : Nat) : Nat := ceilDiv (ceilDiv n 8) 64 * 64

/-- Bytes of a handle's space that count as HBM traffic (R184). -/
def hbmPart (h : Handle) (n : Nat) : Nat := if h.space = .hbm then n else 0

/-- Payload bytes of a dense tile (R79): all eight planes for BPS and BPZ (R90). -/
def denseSize (f : Fmt) (n : Nat) : Nat := if f.isPlane then 8 * planeStride n else packedSize f n

/-- Rows of a tile (R92). -/
def Cap.rows (c : Cap) : Nat := c.ext 1 * c.ext 2 * c.ext 3

/-- Blocks of a row under SCL 4 (R92). -/
def Cap.rowBlocks (c : Cap) : Nat := ceilDiv (c.ext 0) (2 ^ c.sclb)

/-- Number of scales (R92). -/
def Cap.scales (c : Cap) : Nat :=
  match c.scl with
  | 0 => 0
  | 1 => 1
  | 2 => c.rows
  | 3 => c.ext 0
  | _ => c.rowBlocks * c.rows

/-- Scale index of flat element `f` (R92). -/
def Cap.scaleIndex (c : Cap) (f : Nat) : Nat :=
  let i0 := f % c.ext 0
  let row := f / c.ext 0
  match c.scl with
  | 2 => row
  | 3 => i0
  | 4 => row * c.rowBlocks + i0 / 2 ^ c.sclb
  | _ => 0

/-- Bytes of a scale (R94). -/
def Cap.scaleSize (c : Cap) : Nat := if c.sfmt = 0 then 4 else if c.sfmt = 1 then 2 else 1

/-- The value of a scale (R94). -/
def Cap.scaleVal (c : Cap) (x : Nat) : Val :=
  match c.sfmt with
  | 0 => fp32.val x
  | 1 => bf16.val x
  | _ => if x = 255 then .nan false else .fin false 1 ((x : Int) - 127) false

/-- Bytes of the metadata (R78). -/
def Cap.metaSize (c : Cap) : Nat :=
  match c.spr with
  | 0 => 0
  | 1 => 4 * (ceilDiv c.count 128 + 1)
  | 4 => ceilDiv (ceilDiv c.count 64) 8
  | _ => ceilDiv (c.count / 4) 2

/-! ## The preamble -/

/-- A tile named through its preamble at an offset of a handle. -/
structure MemTile where
  h : Handle
  o : Nat
  cap : Cap
  bits : BitVec 128
  poff : Nat
  soff : Nat
  moff : Nat
  plen : Nat
deriving DecidableEq, Repr

/-- The tile that 64 preamble bytes describe (R77). -/
def MemTile.of (h : Handle) (o : Nat) (b : List Byte) : MemTile :=
  let g (i n : Nat) := leNat ((b.drop i).take n)
  let c := BitVec.ofNat 128 (g 0 16)
  { h := h, o := o, cap := Cap.of c, bits := c, poff := g 16 4, soff := g 20 4, moff := g 24 4, plen := g 28 5 }

/-- The preamble's 64 bytes (R77), CHK computed. -/
def preambleBytes (c : Cap) (poff soff moff plen : Nat) : List Byte :=
  leBytes 16 c.bits.toNat ++ leBytes 4 poff ++ leBytes 4 soff ++ leBytes 4 moff ++ leBytes 5 plen ++ List.replicate 31 0

/-- The tile's regions in the order payload, scales, metadata, preamble: first byte and length. -/
def MemTile.regions (m : MemTile) : List (Nat × Nat) :=
  [(m.poff, m.plen), (m.soff, m.cap.scales * m.cap.scaleSize), (m.moff, m.cap.metaSize), (0, 64)]

/-- Some two of the regions overlap. -/
def regionsMeet : List (Nat × Nat) → Bool
  | [] => false
  | (a, n) :: r => (r.any fun p => n != 0 && p.2 != 0 && decide (a < p.1 + p.2) && decide (p.1 < a + n)) || regionsMeet r

/-- The checks of R78 that need only the preamble. -/
def MemTile.headOk (m : MemTile) (b : List Byte) : Bool :=
  capPasses m.bits &&
    m.poff % 64 == 0 && decide (64 ≤ m.poff) &&
    m.soff % 64 == 0 && ((m.soff == 0) == (m.cap.scl == 0)) &&
    m.moff % 64 == 0 && ((m.moff == 0) == (m.cap.spr == 0)) &&
    (match m.cap.spr with
     | 0 => decide (denseSize m.cap.f m.cap.count ≤ m.plen)
     | 2 | 3 => decide (packedSize m.cap.f (m.cap.count / 2) ≤ m.plen)
     | _ => true) &&
    !regionsMeet m.regions && (b.drop 33).all (· == 0)

/-- Bytes read, the uncorrectable ones holding a free value (R200, log 15). -/
def freeBytes : List (Byte × Bool) → M (List Byte)
  | [] => pure []
  | (b, u) :: r => do
    let b ← if u then (do let w ← freshWord; pure (w.setWidth 8)) else pure b
    let bs ← freeBytes r
    pure (b :: bs)

/-- The fault that uncorrectable bytes bring to their reader: cause and address of the first (R200). -/
def badDue (h : Handle) (a : Nat) (l : List (Byte × Bool)) : Option (Nat × Word) :=
  if anyBad l then some (if h.space = .honey then cHONEYECC else cHBMUE, w64 ((a + l.findIdx (·.2)) % 2 ^ 56)) else none

/-- The first of two faults to deliver. -/
def firstDue (a b : Option (Nat × Word)) : Option (Nat × Word) :=
  match a with
  | some x => some x
  | none => b

/-- Adds faults to those that an operation delivers: the first of each cause (R199, R200). -/
def addDues (l d : List (Nat × Word)) : List (Nat × Word) := d.foldl (fun l x => if l.any (·.1 == x.1) then l else l ++ [x]) l

/-- Reads bytes of a tile at address `a`. -/
def readTileBytes (h : Handle) (a n : Nat) : M (List (Byte × Bool)) := readWhole h false a n

/-- Stage 1 of R275: the preamble's access checks, and its bytes; with its address and what its read delivers. -/
def readPreamble (h : Handle) (o : Nat) : M (MemTile × List Byte × Nat × Option (Nat × Word)) := do
  let a ← checkAccess h o 64 .read 64
  let l ← readTileBytes h a 64
  let b ← freeBytes l
  pure (MemTile.of h o b, b, a, badDue h a l)

/-! ## Metadata (R97 to R100) -/

/-- Byte `k` of metadata. -/
def metaByte (md : List Byte) (k : Nat) : Nat := (md.getD k 0).toNat

/-- Offset of chunk `k`'s record from POFF (R97). -/
def chunkAt (md : List Byte) (k : Nat) : Nat := leNat ((md.drop (4 * k)).take 4)

/-- Whether block `b` is present (R100). -/
def blockPresent (md : List Byte) (b : Nat) : Bool := bitOf (metaByte md (b / 8)) (b % 8)

/-- Present blocks below `b`. -/
def blocksBelow (md : List Byte) : Nat → Nat
  | 0 => 0
  | b + 1 => blocksBelow md b + b2n (blockPresent md b)

/-- The nibble of group `g` (R98): the positions of its two kept values. -/
def groupPos (md : List Byte) (g : Nat) : Nat × Nat :=
  let n := metaByte md (g / 2) / 16 ^ (g % 2)
  (n % 4, n / 4 % 4)

/-- Bytes of block `b` of a tile of `n` elements, packed as R79 packs them (R78, R100). -/
def blockSize (f : Fmt) (n b : Nat) : Nat := packedSize f (min 64 (n - 64 * b))

/-- Bytes of the present blocks (R78). -/
def presentSize (f : Fmt) (n : Nat) (md : List Byte) : Nat → Nat
  | 0 => 0
  | b + 1 => presentSize f n md b + if blockPresent md b then blockSize f n b else 0

/-- Set bits among the low `n` bits of a number. -/
def popBelow (x : Nat) : Nat → Nat
  | 0 => 0
  | n + 1 => popBelow x n + b2n (bitOf x n)

/-- Bytes of a record with `p` present values (R97). -/
def recordSize (f : Fmt) (p : Nat) : Nat := ceilDiv (16 + packedSize f p) 16 * 16

/-- What an instruction holds of a tile's metadata: its bytes, and for SPR 1 the presence bitmaps. -/
structure TileMeta where
  bytes : List Byte
  maps : List Nat
deriving DecidableEq, Repr

/-- Each record's length agrees with its population count, and no bit stands beyond the last element (R97). -/
def recordsOk (f : Fmt) (n : Nat) (md : List Byte) (maps : List Nat) : Bool :=
  maps.zipIdx.all fun p =>
    chunkAt md (p.2 + 1) == chunkAt md p.2 + recordSize f (popBelow p.1 128) &&
      p.1 / 2 ^ min 128 (n - 128 * p.2) == 0

/-- The checks of R78 and R97 to R100 that read the metadata. The column rule of R99 is checked by the units that use it. -/
def MemTile.metaOk (m : MemTile) (md : List Byte) : Bool :=
  let n := m.cap.count
  match m.cap.spr with
  | 1 =>
    let c := ceilDiv n 128
    chunkAt md c == m.plen && (List.range c).all fun k => decide (chunkAt md k ≤ chunkAt md (k + 1))
  | 2 | 3 => (List.range (n / 4)).all fun g => decide ((groupPos md g).1 < (groupPos md g).2)
  | 4 => decide (presentSize m.cap.f n md (ceilDiv n 64) ≤ m.plen)
  | _ => true

/-- Reads the presence bitmaps of the records at some offsets from POFF (R97). -/
def readMaps (m : MemTile) : List Nat → M (List Nat × Option (Nat × Word))
  | [] => pure ([], none)
  | k :: r => do
    let a ← checkAccess m.h (m.o + m.poff + k) 16 .read 1
    let l ← readTileBytes m.h a 16
    let b ← freeBytes l
    let (xs, due) ← readMaps m r
    pure (leNat b :: xs, firstDue (badDue m.h a l) due)

/-- Stage 3 of R275: the metadata's access checks, its bytes, and its own checks; `pre` is the preamble's address. -/
def readMeta (m : MemTile) (pre : Nat) : M (TileMeta × Option (Nat × Word)) := do
  if m.cap.spr = 0 then pure (⟨[], []⟩, none)
  else
    let a ← checkAccess m.h (m.o + m.moff) m.cap.metaSize .read 1
    let l ← readTileBytes m.h a m.cap.metaSize
    let md ← freeBytes l
    check (m.metaOk md) cCAPCHECK (w64 pre)
    let due := badDue m.h a l
    if m.cap.spr = 1 then
      let (maps, due') ← readMaps m ((List.range (ceilDiv m.cap.count 128)).map (chunkAt md))
      check (recordsOk m.cap.f m.cap.count md maps) cCAPCHECK (w64 pre)
      pure (⟨md, maps⟩, firstDue due due')
    else pure (⟨md, []⟩, due)

/-! ## Elements -/

/-- Where the bits of a stored element lie: byte offset from the payload's start, bytes, first bit there, first bit of the
element, bits. -/
structure Piece where
  off : Nat
  bytes : Nat
  bit : Nat
  lo : Nat
  n : Nat
deriving DecidableEq, Repr

/-- The pieces of the element that is `f`-th in a dense payload of `n` elements, `planes` of them for a bit-plane format
(R79, R90). -/
def pieces (f : Fmt) (planes n k : Nat) : List Piece :=
  if f.isPlane then
    (List.range (if planes = 0 then 8 else planes)).map fun p => ⟨p * planeStride n + k / 8, 1, k % 8, 7 - p, 1⟩
  else
    let cb := f.container
    [⟨k * cb / 8, max 1 (cb / 8), k * cb % 8, 0, f.width⟩]

/-- Where element `f` of a tile is stored: its pieces; nothing when the encoding leaves it out (R96 to R100). -/
def MemTile.pieces (m : MemTile) (d : TileMeta) (f : Nat) : Option (List Piece) :=
  let g := m.cap.f
  let md := d.bytes
  match m.cap.spr with
  | 0 => some (Machine.pieces g m.cap.planes m.cap.count f)
  | 1 =>
    let x := d.maps.getD (f / 128) 0
    if bitOf x (f % 128) then
      some ((Machine.pieces g 0 128 (popBelow x (f % 128))).map fun p => { p with off := p.off + chunkAt md (f / 128) + 16 })
    else none
  | 4 =>
    let b := f / 64
    if blockPresent md b then
      some ((Machine.pieces g 0 64 (f % 64)).map fun p => { p with off := p.off + blocksBelow md b * packedSize g 64 })
    else none
  | _ =>
    let (x, y) := groupPos md (f / 4)
    if f % 4 = x then some (Machine.pieces g 0 m.cap.count (2 * (f / 4)))
    else if f % 4 = y then some (Machine.pieces g 0 m.cap.count (2 * (f / 4) + 1))
    else none

/-- Reads the pieces of an element, each after its access checks: its bits, zero when a container byte is uncorrectable
(R200). -/
def readPieces (h : Handle) (base al : Nat) : List Piece → M (Nat × Option (Nat × Word))
  | [] => pure (0, none)
  | p :: r => do
    let a ← checkAccess h (base + p.off) p.bytes .read al
    let l ← readTileBytes h a p.bytes
    let x := fld (leNat (bytesOf l)) p.bit p.n * 2 ^ p.lo
    let (y, due) ← readPieces h base al r
    let due := firstDue (badDue h a l) due
    pure (if due.isSome then 0 else x + y, due)

/-- Alignment of an element's container (R135). -/
def Fmt.align (f : Fmt) : Nat := max 1 (f.container / 8)

/-- Reads the stored bits of an element that is present. -/
def MemTile.readElem (m : MemTile) (ps : List Piece) : M (Nat × Option (Nat × Word)) :=
  readPieces m.h (m.o + m.poff) m.cap.f.align ps

/-- Reads the scale of an element (R92 to R94). -/
def MemTile.readScale (m : MemTile) (f : Nat) : M (Nat × Option (Nat × Word)) := do
  let n := m.cap.scaleSize
  let a ← checkAccess m.h (m.o + m.soff + m.cap.scaleIndex f * n) n .read 1
  let l ← readTileBytes m.h a n
  pure (leNat (bytesOf l), badDue m.h a l)

/-- The scaled value of a stored element, and the flags of a NaN that its scale makes (R95) (DEDUCED, log 53). An infinite scale gives an
infinity of the element's sign. -/
def scaledVal (c : Cap) (q : Nat) (s : Val) : Val × Flags :=
  let v := match c.f with
    | .fp g => g.val q
    | f => .ofInt (f.intVal c.planes q - c.zpVal)
  match s with
  | .nan _ => (.nan true, NV)
  | .inf _ => if v.isNan then (v.mul s, 0) else if v.isZero then (.nan true, NV) else (.inf v.neg, 0)
  | _ => (v.mul s, 0)

/-- An element converted into a format (R124, R125): its bits, flags and SATSEEN, and what its read delivers. The invalid flag of a NaN
that a scale makes is raised into BIT too (DEDUCED, log 103). -/
def MemTile.convertElem (m : MemTile) (md : TileMeta) (f : Nat) (t : Fmt) (rm : Rm) :
    M ((Nat × Flags × Bool) × Option (Nat × Word)) := do
  match m.pieces md f with
  | none => pure (convertVal t rm (.fin false 0 0 false), none)
  | some ps =>
    let (q, due) ← m.readElem ps
    if m.cap.scl = 0 then
      pure (if due.isSome then (0, 0, false) else convert m.cap.f t m.cap.planes rm q, due)
    else
      let (s, due') ← m.readScale f
      let due := firstDue due due'
      if due.isSome then pure ((0, 0, false), due)
      else
        let (v, fl) := scaledVal m.cap q (m.cap.scaleVal s)
        let (b, fl', sat) := convertVal t rm v
        pure ((b, fl ||| fl', sat), due)

/-- Runs an operation on elements in order until one fails: the results so far, and the failure with its element. -/
def untilFails {α : Type} (f : Nat → M α) : List Nat → M (List (Nat × α) × Option (Nat × Stop))
  | [] => pure ([], none)
  | e :: es => do
    match ← attempt (f e) with
    | .error x => pure ([], some (e, x))
    | .ok v =>
      let (r, x) ← untilFails f es
      pure ((e, v) :: r, x)

end Sys2Proof.Machine
end

