-- ==== Sys2Proof/Machine/Arith.lean ====
section
/-! DEFINITION. The element arithmetic of the comb instructions (R117 to R124, R293, R294, R297, R299) and their pass counts
(R286 to R288). -/

namespace Sys2Proof.Machine

/-- One element's result: its bits, its flags, and whether it saturated. -/
abbrev EVal := Nat × Flags × Bool

/-- The operations of OPC 0x41 on two sources. -/
inductive Op2 where
  | add | sub | mul | div | min | max
deriving DecidableEq, Repr

/-- The same operation for inference (R104). -/
def Op2.arith : Op2 → Arith
  | .add => .add
  | .sub => .sub
  | .mul => .mul
  | .div => .div
  | .min => .min
  | .max => .max

/-- Rounds an exact value into a floating-point format. -/
def roundElem (f : Fp) (rm : Rm) (v : Val) : EVal := let (b, fl) := f.round rm v; (b, fl, false)

/-- Finite nonzero by zero (R120): an infinity, the canonical NaN in E4M3, ±6 in E2M1; divide-by-zero. -/
def divideByZero (f : Fp) (neg : Bool) : EVal :=
  (match f.kind with
   | .ieee => f.signed neg f.infMag
   | .e4m3 => f.canon
   | .e2m1 => f.signed neg f.maxMag, DZ, false)

/-- Whether a value is finite and not zero. -/
def Val.finiteNonzero : Val → Bool
  | .fin _ m _ st => m != 0 || st
  | _ => false

/-- Floating-point division (R117, R120). -/
def fpDiv (f : Fp) (rm : Rm) (a b : Val) : EVal :=
  if a.finiteNonzero && b.isZero then divideByZero f (a.neg != b.neg) else roundElem f rm (a.div b)

/-- VMIN and VMAX of floating-point values (R121): a NaN gives the canonical NaN; −0 lies below +0. -/
def fpMinMax (f : Fp) (rm : Rm) (mx : Bool) (a b : Val) : EVal :=
  if a.isNan || b.isNan then roundElem f rm (nanOf a b)
  else
    let lt := match a.cmp b with
      | .lt => true
      | .gt => false
      | .eq => a.neg && !b.neg
    roundElem f rm (if lt != mx then a else b)

/-- Two floating-point values (R117 to R121). -/
def fpOp (op : Op2) (f : Fp) (rm : Rm) (a b : Val) : EVal :=
  match op with
  | .add => roundElem f rm (a.add rm b)
  | .sub => roundElem f rm (a.add rm b.negate)
  | .mul => roundElem f rm (a.mul b)
  | .div => fpDiv f rm a b
  | .min => fpMinMax f rm false a b
  | .max => fpMinMax f rm true a b

/-- An exact integer narrowed into a format (R122). -/
def narrowElem (f : Fmt) (sat : Bool) (x : Int) : EVal := let (b, s) := f.narrow sat x; (b, 0, s)

/-- Two integers (R122, R123). -/
def intOp (op : Op2) (f : Fmt) (sat : Bool) (a b : Int) : EVal :=
  match op with
  | .add => narrowElem f sat (a + b)
  | .sub => narrowElem f sat (a - b)
  | .mul => narrowElem f sat (a * b)
  | .div => if b = 0 then (2 ^ f.width - 1, DZ, false) else narrowElem f sat (a.tdiv b)
  | .min => narrowElem f sat (if a < b then a else b)
  | .max => narrowElem f sat (if a < b then b else a)

/-- An operation of OPC 0x41 on two elements under their caps, into a format. -/
def op2Elem (op : Op2) (f : Fmt) (rm : Rm) (sat : Bool) (a b : Cap) (x y : Nat) : EVal :=
  match f with
  | .fp g => fpOp op g rm (a.f.val a.planes x) (b.f.val b.planes y)
  | f => intOp op f sat (a.f.intVal a.planes x) (b.f.intVal b.planes y)

/-- VFMA and VMAC (R105) (DEDUCED, log 54). -/
def fmaElem (rm : Rm) (sat : Bool) (d a b : Cap) (v x y : Nat) : EVal :=
  match d.f with
  | .fp g => roundElem g rm (((a.f.val 0 x).mul (b.f.val 0 y)).add rm (g.val v))
  | f => narrowElem f sat (d.f.intVal 0 v + a.f.intVal 0 x * b.f.intVal 0 y)

/-- The operations of OPC 0x41 on one source. -/
inductive Op1 where
  | rcp | rsq | exp | abs | neg
deriving DecidableEq, Repr

/-- An operation of OPC 0x41 on one element (R117, R120, R122). -/
def op1Elem (op : Op1) (f : Fmt) (rm : Rm) (sat : Bool) (x : Nat) : EVal :=
  match f with
  | .fp g =>
    let a := g.val x
    match op with
    | .rcp => fpDiv g rm (.fin false 1 0 false) a
    | .rsq => if a.isZero then divideByZero g a.neg else roundElem g rm a.rsqrt
    | .exp => roundElem g rm a.exp
    | .abs => roundElem g rm a.abs
    | .neg => roundElem g rm a.negate
  | f =>
    let a := f.intVal 0 x
    match op with
    | .neg => narrowElem f sat (-a)
    | _ => narrowElem f sat (a.natAbs : Int)

/-- A relation of VCMP on an ordering. -/
def relHolds (r : Rel) (o : Ordering) : Bool :=
  match r with
  | .eq => o == .eq
  | .ne => o != .eq
  | .lt => o == .lt
  | .le => o != .gt
  | .gt => o == .gt
  | .ge => o != .lt

/-- VCMP of two elements (R121, R297): with a NaN only NE holds; invalid only for a signalling NaN. -/
def cmpElem (rel : Rel) (a b : Cap) (x y : Nat) : EVal :=
  let u := a.f.val a.planes x
  let v := b.f.val b.planes y
  if u.isNan || v.isNan then (b2n (rel == .ne), if u.isSnan || v.isSnan then NV else 0, false)
  else (b2n (relHolds rel (u.cmp v)), 0, false)

/-- The shifts of OPC 0x42. -/
inductive OpS where
  | shl | shr | sra
deriving DecidableEq, Repr

/-- A shift of a `w`-bit pattern by any amount (R106); VSRA of a BIT shifts in zeros (DESIGN CHOICE, log 84). -/
def shiftElem (op : OpS) (f : Fmt) (x amount : Nat) : Nat :=
  let w := f.width
  match op with
  | .shl => if w ≤ amount then 0 else x * 2 ^ amount % 2 ^ w
  | .shr => if w ≤ amount then 0 else x / 2 ^ amount
  | .sra =>
    match f with
    | .sint _ => ofInt w (toSigned w x / 2 ^ (min amount w))
    | _ => if w ≤ amount then 0 else x / 2 ^ amount

/-- The operations of OPC 0x42 on bit patterns. -/
inductive OpL where
  | and | or | xor
deriving DecidableEq, Repr

/-- A bitwise operation on `w`-bit patterns. -/
def OpL.apply (op : OpL) (x y : Nat) : Nat :=
  match op with
  | .and => x &&& y
  | .or => x ||| y
  | .xor => x ^^^ y

/-- VRAND's value for a counter (R299). -/
def randMix (key ctr : Word) : Word :=
  let z := key + (ctr + 1) * 0x9E3779B97F4A7C15
  let z := (z ^^^ (z >>> 30)) * 0xBF58476D1CE4E5B9
  let z := (z ^^^ (z >>> 27)) * 0x94D049BB133111EB
  z ^^^ (z >>> 31)

/-! ## Pass counts -/

/-- Columns of the table of R288. -/
inductive FpCost where
  | add | mul | fma | div | rcp | rsq | exp | min | cmp
deriving DecidableEq, Repr

/-- Passes of a floating-point sequence (R288). -/
def FpCost.of (c : FpCost) (f : Fp) : Nat :=
  let row : List Nat :=
    if f = fp32 then [208, 402, 629, 1210, 1150, 1290, 1480, 66, 34]
    else if f = bf16 then [97, 135, 221, 310, 290, 330, 420, 34, 18]
    else if f = fp16 then [110, 163, 246, 372, 350, 396, 470, 34, 18]
    else if f = e5m2 then [52, 47, 104, 120, 110, 128, 150, 18, 10]
    else if f = e4m3 then [58, 61, 118, 140, 128, 146, 170, 18, 10]
    else [22, 18, 41, 48, 40, 46, 54, 10, 6]
  row.getD (match c with
    | .add => 0 | .mul => 1 | .fma => 2 | .div => 3 | .rcp => 4 | .rsq => 5 | .exp => 6 | .min => 7 | .cmp => 8) 0

/-- Scratch columns of a floating-point sequence (R288). -/
def FpCost.scratch (c : FpCost) (f : Fp) : Nat :=
  if f = fp32 then (if c = .div ∨ c = .rcp ∨ c = .rsq ∨ c = .exp then 40 else 32)
  else if f = bf16 ∨ f = fp16 then 16
  else if f = e2m1 then 4
  else 8

/-- The column of R288 for an operation. -/
def Op2.cost : Op2 → FpCost
  | .add | .sub => .add
  | .mul => .mul
  | .div => .div
  | .min | .max => .min

/-- Passes and scratch of an operation on two sources into a format (R287, R288). -/
def op2Cost (op : Op2) (wf : WF) (f : Fmt) (a b : Cap) : Nat × Nat :=
  match f with
  | .fp g => (op.cost.of g + (if a.f = b.f then 0 else 8), op.cost.scratch g)
  | f =>
    let w := f.width
    let sat := wf = .sat
    match op with
    | .add | .sub => (if sat then 2 * w + 3 else w + 1, 0)
    | .mul => (b.readWidth * (a.readWidth + 1) + 1 + (if sat then w + 2 else 0), 0)
    | .div => (w * (2 * w + 1) + 1, w)
    | .min | .max => (2 * w + 1, 0)

/-- Passes and scratch of VFMA and VMAC (R287, R288); the scratch of a widening VFMA is that of its result's format (DESIGN CHOICE,
log 94). -/
def fmaCost (sat : Bool) (d a b : Cap) : Nat × Nat :=
  match d.f, a.f with
  | .fp g, .fp h =>
    if g = h then (FpCost.fma.of g, FpCost.fma.scratch g)
    else (if h = bf16 ∨ h = fp16 then 455
          else if h = e2m1 then (if g = bf16 then 80 else if g = fp16 then 88 else 300)
          else if g = bf16 then 160 else if g = fp16 then 172 else 380, FpCost.fma.scratch g)
  | f, _ =>
    let k := f.width
    (b.readWidth * (a.readWidth + 1) + 1 + k + 1 + (if sat then k + 2 else 0), 0)

/-- Passes and scratch of an operation on one source (R287, R288); VABS and VNEG take no scratch (DESIGN CHOICE, log 94). -/
def op1Cost (op : Op1) (sat : Bool) (f : Fmt) : Nat × Nat :=
  match f with
  | .fp g =>
    match op with
    | .rcp => (FpCost.rcp.of g, FpCost.rcp.scratch g)
    | .rsq => (FpCost.rsq.of g, FpCost.rsq.scratch g)
    | .exp => (FpCost.exp.of g, FpCost.exp.scratch g)
    | _ => (g.width + 2, 0)
  | f => ((if op = .neg then f.width + 1 else f.width + 2) + (if sat then 2 else 0), 0)

/-- ⌈log₂ n⌉ for a positive n. -/
def clog2 (n : Nat) : Nat := if n ≤ 1 then 0 else (n - 1).log2 + 1

/-- Passes of VCVT between registers (R287, R288); it takes no scratch (DESIGN CHOICE, log 94). -/
def cvtPasses (s : Cap) (f : Fmt) : Nat :=
  if s.f.isFp || f.isFp then 2 * (s.readWidth + f.width) + 12
  else if f = .bit then s.readWidth
  else if s.f = .bit then f.width
  else f.width + 2

end Sys2Proof.Machine
end

