-- ==== Sys2Proof/Machine/Vector.lean ====
section
/-! DEFINITION. Configuration, caps and the elementwise instructions: OPC 0x40 to 0x43 (R290 to R299), but for the memory
form of VCVT. -/

namespace Sys2Proof.Machine

/-! ## OPC 0x40 (R290 to R292) -/

/-- A whole-task word that changes its task's registers, after the mode switch that a pass needs. -/
def execVcfg (p : Pred) (vd sb : Nat) (m : Option Mods) (s : State) : Host.Outcome State Fault Refusal :=
  let i : Instr := .vcfg p vd sb m
  runWord .whole p i s fun t => do
    let x := (t.rs sb).toNat
    let base := fld x 0 8
    let width := fld x 8 6 + 1
    check (decide (x < 2 ^ 15)) cILLFN (iword i)
    if bitOf x 14 then
      awaitColumns [] (t.regCols vd)
      setT (t.setVreg vd none)
    else
      check (decide (8 ≤ base) && decide (base + width ≤ 216)) cILLFN (iword i)
      check ((List.range width).all fun k => t.live.getLsbD ((base + k) / 8)) cILLFN (iword i)
      check (!((List.range 32).any fun n => n != vd &&
        (match t.vreg n with
         | some r => decide (r.base < base + width) && decide (base < r.base + r.width)
         | none => false))) cOVERLAP (iword i)
      awaitColumns [] (t.regCols vd ++ (List.range width).map (base + ·))
      setT { t.setVreg vd (some ⟨base, width, Cap.blank.bits, false⟩) with vstart := 0, resume := none }

/-- VSETVL (R292). -/
def execVsetvl (p : Pred) (sb : Nat) (m : Option Mods) (s : State) : Host.Outcome State Fault Refusal :=
  let i : Instr := .vsetvl p sb m
  runWord .whole p i s fun t => do
    check (decide ((t.rs sb).toNat < 2 ^ 40)) cILLFN (iword i)
    setT { t with avl := (t.rs sb).setWidth 40, strip := 0, vstart := 0, resume := none }

/-- VSETCAP (R292, R83): the cap as given, after its check. It is no write of the register as a destination: the mark of VDISC stays (DESIGN
CHOICE, log 87). -/
def execVsetcap (p : Pred) (vd sb : Nat) (m : Option Mods) (s : State) : Host.Outcome State Fault Refusal :=
  let i : Instr := .vsetcap p vd sb m
  runWord .whole p i s fun t => do
    check (sb % 2 == 0) cILLFN (iword i)
    let r ← regOf i vd
    let c : BitVec 128 := t.rs (sb + 1) ++ t.rs sb
    let k := Cap.of c
    check (capPasses c) cCAPCHECK (capTval vd 0)
    check (k.scl == 0 && k.spr == 0) cUNSUPPORTED (capTval vd 0)
    check (decide (k.f.width ≤ r.width)) cNARROW (capTval vd 0)
    setT (t.setVreg vd (some { r with cap := c }))

/-- VGETCAP (R292). -/
def execVgetcap (p : Pred) (sb va : Nat) (m : Option Mods) (s : State) : Host.Outcome State Fault Refusal :=
  let i : Instr := .vgetcap p sb va m
  runWord .whole p i s fun t => do
    check (sb % 2 == 0) cILLFN (iword i)
    let r ← regOf i va
    setT ((t.ws sb (r.cap.setWidth 64)).ws (sb + 1) ((r.cap >>> 64).setWidth 64))

/-- VDISC (R292). -/
def execVdisc (p : Pred) (va : Nat) (m : Option Mods) (s : State) : Host.Outcome State Fault Refusal :=
  let i : Instr := .vdisc p va m
  runWord .whole p i s fun t => do
    let r ← regOf i va
    setT (t.setVreg va (some { r with discard := true }))

/-! ## The elementwise frame (R275, R296) -/

/-- A source of an elementwise instruction: a register with its modifier, or a scalar register. -/
inductive ESrc where
  | vec (reg : Nat) (m : Modifier)
  | scal (sb : Nat)
deriving DecidableEq, Repr

/-- The B slot of a word. -/
def bSrc (s : Src2) (m : Option Mods) : ESrc :=
  match s with
  | .vec vb => .vec vb (modsOf m).b
  | .scal sb => .scal sb

/-- The A slot of a word. -/
def aSrc (va : Nat) (m : Option Mods) : ESrc := .vec va (modsOf m).a

/-- What an elementwise instruction infers from its source caps: the checks, the cap it writes, its own scratch columns and
passes. -/
structure Plan where
  inf : Inferred
  cap : Cap
  passes : Nat
  own : Nat
deriving DecidableEq, Repr

/-- What an elementwise instruction writes. -/
inductive EDst where
  | reg (vd : Nat)                 -- a register, replaced
  | acc (vd : Nat)                 -- a register that is a source too, its cap kept (R105)
  | mask (md : Nat)                -- a mask column (R297)
deriving DecidableEq, Repr

/-- An elementwise instruction. -/
structure EOp where
  dst : EDst
  srcs : List ESrc
  inPlace : Cap → Bool
  values : Task → Bool
  plan : List Cap → Plan
  key : Task → Word
  elem : Resume → Cap → Nat → List Nat → EVal      -- result cap, cell, the sources' elements, d last

/-- The cap of a scalar source: VA's format, one element (R293). -/
def scalarCap (a : Cap) : Cap := { Cap.blank with fmt := a.fmt }

/-- The registers of the vector sources, with their slots. -/
def vecSrcs (l : List ESrc) : List (Nat × Nat × Modifier) :=
  l.zipIdx.filterMap fun p => match p.1 with
    | .vec r m => some (p.2 + 1, r, m)
    | .scal _ => none

/-- The descriptors of registers, or INSN.ILLFN for one that is unallocated (R272, R275). -/
def namedRegs (i : Instr) : List (Nat × Nat × Modifier) → M (List (Nat × Nat × Modifier × VReg))
  | [] => pure []
  | (k, n, m) :: r => do
    let v ← regOf i n
    let vs ← namedRegs i r
    pure ((k, n, m, v) :: vs)

/-- The register that an instruction writes. -/
def EDst.vd : EDst → Option Nat
  | .reg vd | .acc vd => some vd
  | .mask _ => none

/-- The issue of an elementwise instruction: the checks of R275 in order, and the capture. -/
def EOp.prep (o : EOp) (i : Instr) (p : Pred) (t : Task) : M Resume := do
  let vs ← namedRegs i (vecSrcs o.srcs)
  let d ← match o.dst.vd with
    | some vd => do let r ← regOf i vd; pure (some (vd, r))
    | none => pure none
  check (o.values t) cILLFN (iword i)
  match o.dst with
  | .reg vd => overlapCheck i vd (vs.map fun x => (x.2.1, x.2.2.1, o.inPlace x.2.2.2.c))
  | .acc vd => check (!(vs.any fun x => x.2.1 == vd)) cOVERLAP (iword i)
  | .mask _ => pure ()
  let first := (vs.head?.map (·.2.2.2.c)).getD Cap.blank
  let caps := o.srcs.zipIdx.map fun x => match x.1 with
    | .vec _ _ => ((vs.find? (·.1 == x.2 + 1)).map (·.2.2.2.c)).getD Cap.blank
    | .scal _ => scalarCap first
  let caps := match o.dst, d with
    | .acc _, some (_, r) => caps ++ [r.c]
    | _, _ => caps
  let pl := o.plan caps
  let ops := vs.map fun x => x.2.2.2.operand x.1 x.2.1
  let ops := match o.dst, d with
    | .acc vd, some (_, r) => r.operand 0 vd :: ops
    | _, _ => ops
  let staged := vs.map fun x => (x.2.2.1, x.2.2.2.c.readWidth)
  let room := scratchOver staged pl.own
  let vd := (d.map (·.1)).getD 0
  capChecks vd ops { pl.inf with unsupported := lowSlot room pl.inf.unsupported } (d.map fun x => (x.2, pl.inf.fmt.width))
  let stage := (staged.map fun x => stagePasses x.1 x.2).sum
  pure { capture i p t with
    total := stage + pl.passes, stage := stage, key := o.key t, caps := caps.map Cap.bits, result := pl.cap.bits
    -- the top column of each source, which a read above its width repeats (R278)
    order := vs.map fun x => t.col (x.2.2.2.base + x.2.2.2.c.f.width - 1) }

/-- The element of source `k` in a cell. -/
def EOp.srcAt (r : Resume) (t : Task) (x : ESrc × Nat) (e : Nat) : Nat :=
  match x.1 with
  | .vec n m => t.srcElem (t.reg! n).base (r.cap x.2) m r.vl r.sfill e
  | .scal _ => r.key.toNat % 2 ^ (r.cap x.2).f.width

/-- The sources' elements in a cell, d last. -/
def EOp.elems (o : EOp) (r : Resume) (t : Task) (e : Nat) : List Nat :=
  o.srcs.zipIdx.map (fun x => EOp.srcAt r t x e) ++
    (match o.dst with
     | .acc vd => [t.elem (t.reg! vd).base (r.cap o.srcs.length) e]
     | _ => [])

/-- The results of the active cells. -/
def EOp.results (o : EOp) (r : Resume) (t : Task) : List (Nat × EVal) :=
  r.cells.map fun e => (e, o.elem r (Cap.of r.result) e (o.elems r t e))

/-- The flags of some results. -/
def orElemFlags (l : List (Nat × EVal)) : Flags := l.foldl (fun f x => f ||| x.2.2.1) 0

/-- Completion (R107, R115, R131, R296): the elements, the held cap with SATSEEN, the flags. -/
def EOp.finish (o : EOp) (r : Resume) (t : Task) : Task :=
  let res := o.results r t
  let vals := res.map fun x => (x.1, x.2.1)
  let c := Cap.of r.result
  let t := t.orFlags (orElemFlags res)
  match o.dst with
  | .mask md => t.writeCol md r.active (columnOf 0 vals)
  | .reg vd | .acc vd =>
    (t.writeElems vd r.active c.f vals).writeCap vd { c with satseen := c.satseen || res.any (·.2.2.2) }.bits

/-- The columns that an elementwise instruction reads; the pass that reads each is not stated (R199). -/
def EOp.reads (o : EOp) (_ : Resume) (t : Task) : List (Nat × Option Nat) :=
  ((vecSrcs o.srcs).flatMap fun x => (t.reg! x.2.1).readCols.map fun c => (c, none)) ++
    (match o.dst with
     | .acc vd => (t.reg! vd).readCols.map fun c => (c, none)
     | _ => [])

/-- The columns that an elementwise instruction writes. -/
def EOp.writes (o : EOp) (t : Task) : List Nat :=
  match o.dst with
  | .reg vd | .acc vd => t.regCols vd
  | .mask md => [md]

/-- An elementwise instruction as the sequencer runs it. -/
def EOp.comb (o : EOp) (i : Instr) (p : Pred) : Comb where
  lanes := .cell
  prep := o.prep i p
  reads := o.reads
  writes := o.writes
  stepped := fun _ => false
  pass := fun _ _ t => (t, none)
  leaves := fun _ => .free
  finish := o.finish

/-! ## What the instructions infer (R102 to R107) -/

/-- A source that arithmetic accepts: an integer or floating-point format, ZP 0 (R102). -/
def Cap.arith (c : Cap) : Bool := (c.f.isInt || c.f.isFp) && c.zp == 0

/-- The lowest slot whose cap fails a test, counting from `k`. -/
def badSlot (ok : Cap → Bool) (k : Nat) (l : List Cap) : Option Nat := (l.findIdx? fun c => !ok c).map (· + k)

/-- The slots of caps, counting from 1. -/
def slots1 (l : List Cap) : List (Nat × Cap) := l.zipIdx.map fun x => (x.2 + 1, x.1)

/-- Two sources of arithmetic (R102 to R104). -/
def planOp2 (op : Op2) (wf : WF) (caps : List Cap) : Plan :=
  let a := caps.getD 0 Cap.blank
  let b := caps.getD 1 Cap.blank
  let r := infer2 op.arith wf a.f b.f
  let f := match r with | .ok f => f | .error _ => .none
  let cost := op2Cost op wf f a b
  { inf := {
      mismatch := if failsWith r .mismatch then some 1 else none
      shapes := slots1 caps
      unsupported := lowSlot (badSlot Cap.arith 1 caps) (if failsWith r .unsupported then some 1 else none)
      fmt := f }
    cap := inferredCap f (refShape (slots1 caps)) 0 0 caps
    passes := cost.1, own := cost.2 }

/-- VCMP (R104, R287): a pair that VADD accepts, into BIT. -/
def planCmp (caps : List Cap) : Plan :=
  let p := planOp2 .add .plain caps
  let a := caps.getD 0 Cap.blank
  let b := caps.getD 1 Cap.blank
  { p with
    inf := { p.inf with fmt := .bit }
    cap := { p.cap with fmt := Fmt.bit.code }
    passes := match p.inf.fmt with
      | .fp g => FpCost.cmp.of g + (if a.f = b.f then 0 else 8)
      | f => f.width + 1
    own := match p.inf.fmt with
      | .fp g => FpCost.cmp.scratch g
      | _ => 0 }

/-- VFMA and VMAC: sources a, b and then d (R105). -/
def planFma (mac sat : Bool) (caps : List Cap) : Plan :=
  let a := caps.getD 0 Cap.blank
  let b := caps.getD 1 Cap.blank
  let d := caps.getD 2 Cap.blank
  let r := inferFma mac a.f b.f d.f
  let shapes := [(0, d), (1, a), (2, b)]
  let cost := fmaCost sat d a b
  { inf := {
      mismatch := if failsWith r .mismatch then some 0 else none
      shapes := shapes
      unsupported := lowSlot (badSlot Cap.arith 0 [d, a, b]) (if failsWith r .unsupported then some 0 else none)
      fmt := d.f }
    cap := { d with poison := caps.any (·.poison), satseen := caps.any (·.satseen), discard := false }
    passes := cost.1, own := cost.2 }

/-- One source, the same format (R106). -/
def planOp1 (op : Op1) (sat : Bool) (caps : List Cap) : Plan :=
  let a := caps.getD 0 Cap.blank
  let ok := match op with
    | .abs | .neg => a.arith && !(sat && a.f.isFp)
    | _ => a.arith && a.f.isFp
  let cost := op1Cost op sat a.f
  { inf := { mismatch := none, shapes := [], unsupported := if ok then none else some 1, fmt := a.f }
    cap := inferredCap a.f a 0 0 caps
    passes := cost.1, own := cost.2 }

/-- VAND, VOR and VXOR: equal formats (R106). -/
def planLogic (caps : List Cap) : Plan :=
  let a := caps.getD 0 Cap.blank
  let b := caps.getD 1 Cap.blank
  { inf := { mismatch := if a.f = b.f then none else some 1, shapes := slots1 caps,
             unsupported := badSlot (fun c => c.f ≠ .none) 1 caps, fmt := a.f }
    cap := inferredCap a.f (refShape (slots1 caps)) a.zp a.planes caps
    passes := a.readWidth, own := 0 }

/-- One source copied, with its ZP and PLANES (R106): VNOT, VMOV, VSHIFT. -/
def planCopy (passes : Cap → Nat) (caps : List Cap) : Plan :=
  let a := caps.getD 0 Cap.blank
  { inf := { mismatch := none, shapes := [], unsupported := badSlot (fun c => c.f ≠ .none) 1 caps, fmt := a.f }
    cap := inferredCap a.f a a.zp a.planes caps
    passes := passes a, own := 0 }

/-- A shift's value and, if it is a register, its amount (R102, R106, R294). -/
def planShift (vector : Bool) (caps : List Cap) : Plan :=
  let a := caps.getD 0 Cap.blank
  let b := caps.getD 1 Cap.blank
  let okA := (a.f.isInt || a.f == .bit) && a.zp == 0
  let okB := match b.f with | .uint _ => true | _ => false
  let w := a.f.width
  { inf := { mismatch := none, shapes := slots1 caps,
             unsupported := if !okA then some 1 else if vector && !okB then some 2 else none, fmt := a.f }
    cap := inferredCap a.f (refShape (slots1 caps)) 0 0 caps
    passes := if vector then min b.f.width (clog2 w + 1) * (w + 1) else w
    own := if vector then w else 0 }

/-- VSEL: equal formats and zero points (R106). -/
def planSel (caps : List Cap) : Plan :=
  let a := caps.getD 0 Cap.blank
  let b := caps.getD 1 Cap.blank
  { inf := { mismatch := if a.f = b.f ∧ a.zp = b.zp then none else some 1, shapes := slots1 caps,
             unsupported := badSlot (fun c => c.f ≠ .none) 1 caps, fmt := a.f }
    cap := inferredCap a.f (refShape (slots1 caps)) a.zp 0 caps
    passes := a.readWidth + 1, own := 0 }

/-- No vector source: the target format, one element (R106, R297, R299). -/
def planNew (f : Fmt) (passes : Nat) : Plan :=
  { inf := { mismatch := none, shapes := [], unsupported := none, fmt := f }
    cap := inferredCap f Cap.blank 0 0 [], passes := passes, own := 0 }

/-- VCVT of a register (R106): the target format, the source's rank and extents. -/
def planCvt (f : Fmt) (caps : List Cap) : Plan :=
  let a := caps.getD 0 Cap.blank
  { inf := { mismatch := none, shapes := [], unsupported := badSlot (fun c => c.f ≠ .none) 1 caps, fmt := f }
    cap := inferredCap f a 0 0 caps
    passes := cvtPasses a f, own := 0 }

/-! ## OPC 0x41 (R293) -/

/-- In place holds for integer and BIT sources (R293). -/
def inPlaceInt (c : Cap) : Bool := c.f.isInt || c.f == .bit

/-- An instruction on two sources. -/
def eop2 (op : Op2) (inPlace : Cap → Bool) (rm : Rm) (wf : WF) (vd va : Nat) (src : Src2) (m : Option Mods) : EOp where
  dst := .reg vd
  srcs := [aSrc va m, bSrc src m]
  inPlace := inPlace
  values := fun _ => true
  plan := planOp2 op wf
  key := fun t => match src with | .scal sb => t.rs sb | .vec _ => 0
  elem := fun r c _ xs => op2Elem op c.f rm (wf = .sat) (r.cap 0) (r.cap 1) (xs.getD 0 0) (xs.getD 1 0)

/-! The expansion of R286: the integer forms of VADD and VSUB, plain and .w. -/

/-- Whether an add or subtract expands as R286 states. -/
def stepsAdd (wf : WF) (r : Resume) : Bool := (Cap.of r.result).f.isInt && decide (wf ≠ .sat)

/-- First scratch column of the staged copy of source `k` (R276). -/
def stageCol (o : EOp) (r : Resume) (k : Nat) : Nat :=
  216 + ((o.srcs.take k).zipIdx.map fun x => match x.1 with
    | .vec _ m => stageWidth m (r.cap x.2).readWidth
    | .scal _ => 0).sum

/-- The staging of modified sources takes effect with the operation's first pass. -/
def stageAll (o : EOp) (r : Resume) (t : Task) : Task :=
  o.srcs.zipIdx.foldl (fun t x => match x.1 with
    | .vec _ m =>
      if m = .none then t
      else t.writeCols (stageCol o r x.2) (2 ^ r.vl - 1)
        ((List.range r.vl).map fun e => (e, EOp.srcAt r t x e)) (r.cap x.2).readWidth
    | .scal _ => t) t

/-- Bit `j` of source `k` as a column, as R286's passes read it; above a SINT source's width it is the top column as it was at
issue, also where the destination is that source and an earlier pass has written the column (DESIGN CHOICE, log 93). -/
def bitColumn (o : EOp) (r : Resume) (t : Task) (k j : Nat) : Nat :=
  let c := r.cap k
  let w := c.f.width
  match o.srcs[k]? with
  | some (.vec n m) =>
    let col (j : Nat) : Nat := if m = .none then t.col ((t.reg! n).base + j) else t.col (stageCol o r k + j)
    if j < w then col j
    else match c.f with
      | .sint _ => if m = .none then r.order.getD k 0 else col (w - 1)
      | _ => 0
  | some (.scal _) => if extBit c.f (r.key.toNat % 2 ^ w) j then r.active else 0
  | none => 0

/-- Pass `k` of R286, after the staging; the mark of VDISC goes with the first column written (R292). -/
def passAdd (o : EOp) (sub : Bool) (r : Resume) (k : Nat) (t : Task) : Task × Option (Nat × Word) :=
  if k < r.stage then (t, none)
  else
    let set (g v : Nat) : Nat := (g ^^^ (g &&& r.active)) ||| (v &&& r.active)
    let g0 := t.tags.getD 0 0
    if k = r.stage then
      let t := stageAll o r t
      ({ t with tags := t.tags.set 0 (set g0 (if sub then r.active else 0)) }, none)
    else
      let j := k - r.stage - 1
      let a := bitColumn o r t 0 j
      let b := bitColumn o r t 1 j
      let b := if sub then r.active ^^^ (b &&& r.active) else b
      let f := (Cap.of r.result).f
      let sum := a ^^^ b ^^^ g0
      let carry := (a &&& b) ||| (a &&& g0) ||| (b &&& g0)
      match o.dst.vd with
      | none => (t, none)
      | some vd =>
        let v := t.reg! vd
        let t := t.writeCol (v.base + j) r.active sum
        let t := if j + 1 = f.width then
            let up := match f with | .sint _ => sum | _ => 0
            (List.range (v.width - f.width)).foldl (fun t i => t.writeCol (v.base + f.width + i) r.active up) t
          else t
        ({ t.clearMark (some vd) with tags := t.tags.set 0 (set g0 carry) }, none)

/-- Columns that R286's passes read, with their boundaries. -/
def readsAdd (o : EOp) (wf : WF) (r : Resume) (t : Task) : List (Nat × Option Nat) :=
  if stepsAdd wf r then
    (vecSrcs o.srcs).flatMap fun x => (t.reg! x.2.1).readCols.map fun c => (c, some (r.stage + (c - (t.reg! x.2.1).base) + 2))
  else o.reads r t

/-- VADD and VSUB as the sequencer runs them. -/
def addComb (sub : Bool) (o : EOp) (wf : WF) (i : Instr) (p : Pred) : Comb where
  lanes := .cell
  prep := o.prep i p
  reads := readsAdd o wf
  writes := o.writes
  stepped := stepsAdd wf
  pass := passAdd o sub
  leaves := fun r =>
    if !stepsAdd wf r then .free
    else if (vecSrcs o.srcs).all fun x => x.2.2 == .none then .stated else .g0
  finish := fun r t =>
    if stepsAdd wf r then (match o.dst.vd with | some vd => t.writeCap vd r.result | none => t) else o.finish r t

/-- VADD (R293). -/
def combVadd (p : Pred) (rm : Rm) (wf : WF) (vd va : Nat) (src : Src2) (m : Option Mods) : Comb :=
  let i : Instr := .vadd p rm wf vd va src m
  addComb false (eop2 .add inPlaceInt rm wf vd va src m) wf i p

/-- VADD, run from issue to completion. -/
def execVadd (p : Pred) (rm : Rm) (wf : WF) (vd va : Nat) (src : Src2) (m : Option Mods) (s : State) :
    Host.Outcome State Fault Refusal :=
  runComb p (.vadd p rm wf vd va src m) (combVadd p rm wf vd va src m) s

/-- VSUB (R293). -/
def combVsub (p : Pred) (rm : Rm) (wf : WF) (vd va : Nat) (src : Src2) (m : Option Mods) : Comb :=
  let i : Instr := .vsub p rm wf vd va src m
  addComb true (eop2 .sub inPlaceInt rm wf vd va src m) wf i p

/-- VSUB, run from issue to completion. -/
def execVsub (p : Pred) (rm : Rm) (wf : WF) (vd va : Nat) (src : Src2) (m : Option Mods) (s : State) :
    Host.Outcome State Fault Refusal :=
  runComb p (.vsub p rm wf vd va src m) (combVsub p rm wf vd va src m) s

/-- VMUL (R293). -/
def combVmul (p : Pred) (rm : Rm) (wf : WF) (vd va : Nat) (src : Src2) (m : Option Mods) : Comb :=
  let i : Instr := .vmul p rm wf vd va src m
  (eop2 .mul (fun _ => false) rm wf vd va src m).comb i p

/-- VMUL, run from issue to completion. -/
def execVmul (p : Pred) (rm : Rm) (wf : WF) (vd va : Nat) (src : Src2) (m : Option Mods) (s : State) :
    Host.Outcome State Fault Refusal :=
  runComb p (.vmul p rm wf vd va src m) (combVmul p rm wf vd va src m) s

/-- VDIV (R293). -/
def combVdiv (p : Pred) (rm : Rm) (wf : WF) (vd va : Nat) (src : Src2) (m : Option Mods) : Comb :=
  let i : Instr := .vdiv p rm wf vd va src m
  (eop2 .div (fun _ => false) rm wf vd va src m).comb i p

/-- VDIV, run from issue to completion. -/
def execVdiv (p : Pred) (rm : Rm) (wf : WF) (vd va : Nat) (src : Src2) (m : Option Mods) (s : State) :
    Host.Outcome State Fault Refusal :=
  runComb p (.vdiv p rm wf vd va src m) (combVdiv p rm wf vd va src m) s

/-- VMIN (R293). -/
def combVmin (p : Pred) (rm : Rm) (wide : Bool) (vd va : Nat) (src : Src2) (m : Option Mods) : Comb :=
  let i : Instr := .vmin p rm wide vd va src m
  (eop2 .min inPlaceInt rm (if wide then .wide else .plain) vd va src m).comb i p

/-- VMIN, run from issue to completion. -/
def execVmin (p : Pred) (rm : Rm) (wide : Bool) (vd va : Nat) (src : Src2) (m : Option Mods) (s : State) :
    Host.Outcome State Fault Refusal :=
  runComb p (.vmin p rm wide vd va src m) (combVmin p rm wide vd va src m) s

/-- VMAX (R293). -/
def combVmax (p : Pred) (rm : Rm) (wide : Bool) (vd va : Nat) (src : Src2) (m : Option Mods) : Comb :=
  let i : Instr := .vmax p rm wide vd va src m
  (eop2 .max inPlaceInt rm (if wide then .wide else .plain) vd va src m).comb i p

/-- VMAX, run from issue to completion. -/
def execVmax (p : Pred) (rm : Rm) (wide : Bool) (vd va : Nat) (src : Src2) (m : Option Mods) (s : State) :
    Host.Outcome State Fault Refusal :=
  runComb p (.vmax p rm wide vd va src m) (combVmax p rm wide vd va src m) s

/-- VFMA and VMAC: d is a source and the destination. -/
def eopFma (mac sat : Bool) (rm : Rm) (vd va : Nat) (src : Src2) (m : Option Mods) : EOp where
  dst := .acc vd
  srcs := [aSrc va m, bSrc src m]
  inPlace := fun _ => false
  values := fun _ => true
  plan := planFma mac sat
  key := fun t => match src with | .scal sb => t.rs sb | .vec _ => 0
  elem := fun r c _ xs => fmaElem rm sat c (r.cap 0) (r.cap 1) (xs.getD 2 0) (xs.getD 0 0) (xs.getD 1 0)

/-- VMAC (R105). -/
def combVmac (p : Pred) (rm : Rm) (sat : Bool) (vd va : Nat) (src : Src2) (m : Option Mods) : Comb :=
  let i : Instr := .vmac p rm sat vd va src m
  (eopFma true sat rm vd va src m).comb i p

/-- VMAC, run from issue to completion. -/
def execVmac (p : Pred) (rm : Rm) (sat : Bool) (vd va : Nat) (src : Src2) (m : Option Mods) (s : State) :
    Host.Outcome State Fault Refusal :=
  runComb p (.vmac p rm sat vd va src m) (combVmac p rm sat vd va src m) s

/-- VFMA (R105). -/
def combVfma (p : Pred) (rm : Rm) (vd va : Nat) (src : Src2) (m : Option Mods) : Comb :=
  let i : Instr := .vfma p rm vd va src m
  (eopFma false false rm vd va src m).comb i p

/-- VFMA, run from issue to completion. -/
def execVfma (p : Pred) (rm : Rm) (vd va : Nat) (src : Src2) (m : Option Mods) (s : State) :
    Host.Outcome State Fault Refusal :=
  runComb p (.vfma p rm vd va src m) (combVfma p rm vd va src m) s

/-- An instruction on one source. -/
def eop1 (op : Op1) (inPlace : Cap → Bool) (rm : Rm) (sat : Bool) (vd va : Nat) (m : Option Mods) : EOp where
  dst := .reg vd
  srcs := [aSrc va m]
  inPlace := inPlace
  values := fun _ => true
  plan := planOp1 op sat
  key := fun _ => 0
  elem := fun _ c _ xs => op1Elem op c.f rm sat (xs.getD 0 0)

/-- VRCP (R293). -/
def combVrcp (p : Pred) (rm : Rm) (vd va : Nat) (m : Option Mods) : Comb :=
  let i : Instr := .vrcp p rm vd va m
  (eop1 .rcp (fun _ => false) rm false vd va m).comb i p

/-- VRCP, run from issue to completion. -/
def execVrcp (p : Pred) (rm : Rm) (vd va : Nat) (m : Option Mods) (s : State) : Host.Outcome State Fault Refusal :=
  runComb p (.vrcp p rm vd va m) (combVrcp p rm vd va m) s

/-- VRSQ (R293). -/
def combVrsq (p : Pred) (rm : Rm) (vd va : Nat) (m : Option Mods) : Comb :=
  let i : Instr := .vrsq p rm vd va m
  (eop1 .rsq (fun _ => false) rm false vd va m).comb i p

/-- VRSQ, run from issue to completion. -/
def execVrsq (p : Pred) (rm : Rm) (vd va : Nat) (m : Option Mods) (s : State) : Host.Outcome State Fault Refusal :=
  runComb p (.vrsq p rm vd va m) (combVrsq p rm vd va m) s

/-- VEXP (R293). -/
def combVexp (p : Pred) (rm : Rm) (vd va : Nat) (m : Option Mods) : Comb :=
  let i : Instr := .vexp p rm vd va m
  (eop1 .exp (fun _ => false) rm false vd va m).comb i p

/-- VEXP, run from issue to completion. -/
def execVexp (p : Pred) (rm : Rm) (vd va : Nat) (m : Option Mods) (s : State) : Host.Outcome State Fault Refusal :=
  runComb p (.vexp p rm vd va m) (combVexp p rm vd va m) s

/-- VABS (R293). -/
def combVabs (p : Pred) (rm : Rm) (sat : Bool) (vd va : Nat) (m : Option Mods) : Comb :=
  let i : Instr := .vabs p rm sat vd va m
  (eop1 .abs inPlaceInt rm sat vd va m).comb i p

/-- VABS, run from issue to completion. -/
def execVabs (p : Pred) (rm : Rm) (sat : Bool) (vd va : Nat) (m : Option Mods) (s : State) :
    Host.Outcome State Fault Refusal :=
  runComb p (.vabs p rm sat vd va m) (combVabs p rm sat vd va m) s

/-- VNEG (R293). -/
def combVneg (p : Pred) (rm : Rm) (sat : Bool) (vd va : Nat) (m : Option Mods) : Comb :=
  let i : Instr := .vneg p rm sat vd va m
  (eop1 .neg inPlaceInt rm sat vd va m).comb i p

/-- VNEG, run from issue to completion. -/
def execVneg (p : Pred) (rm : Rm) (sat : Bool) (vd va : Nat) (m : Option Mods) (s : State) :
    Host.Outcome State Fault Refusal :=
  runComb p (.vneg p rm sat vd va m) (combVneg p rm sat vd va m) s

/-! ## OPC 0x42 (R294) -/

/-- A bitwise instruction on two sources. -/
def eopLogic (op : OpL) (vd va : Nat) (src : Src2) (m : Option Mods) : EOp where
  dst := .reg vd
  srcs := [aSrc va m, bSrc src m]
  inPlace := fun _ => true
  values := fun _ => true
  plan := planLogic
  key := fun t => match src with | .scal sb => t.rs sb | .vec _ => 0
  elem := fun _ _ _ xs => (op.apply (xs.getD 0 0) (xs.getD 1 0), 0, false)

/-- VAND (R294). -/
def combVand (p : Pred) (vd va : Nat) (src : Src2) (m : Option Mods) : Comb :=
  let i : Instr := .vand p vd va src m
  (eopLogic .and vd va src m).comb i p

/-- VAND, run from issue to completion. -/
def execVand (p : Pred) (vd va : Nat) (src : Src2) (m : Option Mods) (s : State) : Host.Outcome State Fault Refusal :=
  runComb p (.vand p vd va src m) (combVand p vd va src m) s

/-- VOR (R294). -/
def combVor (p : Pred) (vd va : Nat) (src : Src2) (m : Option Mods) : Comb :=
  let i : Instr := .vor p vd va src m
  (eopLogic .or vd va src m).comb i p

/-- VOR, run from issue to completion. -/
def execVor (p : Pred) (vd va : Nat) (src : Src2) (m : Option Mods) (s : State) : Host.Outcome State Fault Refusal :=
  runComb p (.vor p vd va src m) (combVor p vd va src m) s

/-- VXOR (R294). -/
def combVxor (p : Pred) (vd va : Nat) (src : Src2) (m : Option Mods) : Comb :=
  let i : Instr := .vxor p vd va src m
  (eopLogic .xor vd va src m).comb i p

/-- VXOR, run from issue to completion. -/
def execVxor (p : Pred) (vd va : Nat) (src : Src2) (m : Option Mods) (s : State) : Host.Outcome State Fault Refusal :=
  runComb p (.vxor p vd va src m) (combVxor p vd va src m) s

/-- VNOT (R294). -/
def combVnot (p : Pred) (vd va : Nat) (m : Option Mods) : Comb :=
  let i : Instr := .vnot p vd va m
  let o : EOp :=
    { dst := .reg vd, srcs := [aSrc va m], inPlace := fun _ => true, values := fun _ => true,
      plan := planCopy Cap.readWidth, key := fun _ => 0,
      elem := fun _ c _ xs => (2 ^ c.f.width - 1 - xs.getD 0 0, 0, false) }
  o.comb i p

/-- VNOT, run from issue to completion. -/
def execVnot (p : Pred) (vd va : Nat) (m : Option Mods) (s : State) : Host.Outcome State Fault Refusal :=
  runComb p (.vnot p vd va m) (combVnot p vd va m) s

/-- A shift: a scalar amount is the whole of s(SB); a vector amount is VB (R294). -/
def eopShift (op : OpS) (vd va : Nat) (src : Src2) (m : Option Mods) : EOp where
  dst := .reg vd
  srcs := match src with
    | .vec vb => [aSrc va m, .vec vb (modsOf m).b]
    | .scal _ => [aSrc va m]
  inPlace := fun _ => match src with | .scal _ => true | .vec _ => false
  values := fun _ => true
  plan := planShift (match src with | .vec _ => true | .scal _ => false)
  key := fun t => match src with | .scal sb => t.rs sb | .vec _ => 0
  elem := fun r c _ xs =>
    (shiftElem op c.f (xs.getD 0 0) (match src with | .vec _ => xs.getD 1 0 | .scal _ => r.key.toNat), 0, false)

/-- VSHL (R294). -/
def combVshl (p : Pred) (vd va : Nat) (src : Src2) (m : Option Mods) : Comb :=
  let i : Instr := .vshl p vd va src m
  (eopShift .shl vd va src m).comb i p

/-- VSHL, run from issue to completion. -/
def execVshl (p : Pred) (vd va : Nat) (src : Src2) (m : Option Mods) (s : State) : Host.Outcome State Fault Refusal :=
  runComb p (.vshl p vd va src m) (combVshl p vd va src m) s

/-- VSHR (R294). -/
def combVshr (p : Pred) (vd va : Nat) (src : Src2) (m : Option Mods) : Comb :=
  let i : Instr := .vshr p vd va src m
  (eopShift .shr vd va src m).comb i p

/-- VSHR, run from issue to completion. -/
def execVshr (p : Pred) (vd va : Nat) (src : Src2) (m : Option Mods) (s : State) : Host.Outcome State Fault Refusal :=
  runComb p (.vshr p vd va src m) (combVshr p vd va src m) s

/-- VSRA (R294). -/
def combVsra (p : Pred) (vd va : Nat) (src : Src2) (m : Option Mods) : Comb :=
  let i : Instr := .vsra p vd va src m
  (eopShift .sra vd va src m).comb i p

/-- VSRA, run from issue to completion. -/
def execVsra (p : Pred) (vd va : Nat) (src : Src2) (m : Option Mods) (s : State) : Host.Outcome State Fault Refusal :=
  runComb p (.vsra p vd va src m) (combVsra p vd va src m) s

/-! ## OPC 0x43 (R295, R297, R299) -/

/-- VCMP (R297): a BIT register, or with MDST a mask. -/
def combVcmp (p : Pred) (rel : Rel) (mdst : Bool) (vd va : Nat) (src : Src2) (m : Option Mods) : Comb :=
  let i : Instr := .vcmp p rel mdst vd va src m
  let o : EOp :=
    { dst := if mdst then .mask vd else .reg vd, srcs := [aSrc va m, bSrc src m], inPlace := fun _ => false,
      values := fun _ => !mdst || (decide (1 ≤ vd) && decide (vd ≤ 7)),
      plan := planCmp, key := fun t => match src with | .scal sb => t.rs sb | .vec _ => 0,
      elem := fun r _ _ xs => cmpElem rel (r.cap 0) (r.cap 1) (xs.getD 0 0) (xs.getD 1 0) }
  o.comb i p

/-- VCMP, run from issue to completion. -/
def execVcmp (p : Pred) (rel : Rel) (mdst : Bool) (vd va : Nat) (src : Src2) (m : Option Mods) (s : State) :
    Host.Outcome State Fault Refusal :=
  runComb p (.vcmp p rel mdst vd va src m) (combVcmp p rel mdst vd va src m) s

/-- VSEL (R297): by the stored column of a mask. -/
def combVsel (p : Pred) (vd va vb mc : Nat) (m : Option Mods) : Comb :=
  let i : Instr := .vsel p vd va vb mc m
  let o : EOp :=
    { dst := .reg vd, srcs := [aSrc va m, .vec vb (modsOf m).b], inPlace := fun _ => true,
      values := fun _ => decide (mc ≤ 7), plan := planSel, key := fun _ => 0,
      elem := fun r _ e xs => (if bitOf (r.order.getLastD 0) e then xs.getD 0 0 else xs.getD 1 0, 0, false) }
  let c := o.comb i p
  { c with
    prep := fun t => do
      let r ← c.prep t
      pure { r with order := r.order ++ [t.col mc] }
    reads := fun r t => (mc, none) :: c.reads r t }

/-- VSEL, run from issue to completion. -/
def execVsel (p : Pred) (vd va vb mc : Nat) (m : Option Mods) (s : State) : Host.Outcome State Fault Refusal :=
  runComb p (.vsel p vd va vb mc m) (combVsel p vd va vb mc m) s

/-- VMOV (R297). -/
def combVmov (p : Pred) (vd va : Nat) (m : Option Mods) : Comb :=
  let i : Instr := .vmov p vd va m
  let o : EOp :=
    { dst := .reg vd, srcs := [aSrc va m], inPlace := fun _ => true, values := fun _ => true,
      plan := planCopy Cap.readWidth, key := fun _ => 0, elem := fun _ _ _ xs => (xs.getD 0 0, 0, false) }
  o.comb i p

/-- VMOV, run from issue to completion. -/
def execVmov (p : Pred) (vd va : Nat) (m : Option Mods) (s : State) : Host.Outcome State Fault Refusal :=
  runComb p (.vmov p vd va m) (combVmov p vd va m) s

/-- The target format of a word; NONE for a code that the decoder has refused (R295). -/
def targetOf (fmt : BitVec 8) : Fmt := (Fmt.of fmt.toNat).getD .none

/-- VBCAST (R297). -/
def combVbcast (p : Pred) (vd sb : Nat) (fmt : BitVec 8) (m : Option Mods) : Comb :=
  let i : Instr := .vbcast p vd sb fmt m
  let f := targetOf fmt
  let o : EOp :=
    { dst := .reg vd, srcs := [], inPlace := fun _ => false, values := fun _ => true, plan := fun _ => planNew f f.width,
      key := fun t => t.rs sb, elem := fun r c _ _ => (r.key.toNat % 2 ^ c.f.width, 0, false) }
  o.comb i p

/-- VBCAST, run from issue to completion. -/
def execVbcast (p : Pred) (vd sb : Nat) (fmt : BitVec 8) (m : Option Mods) (s : State) : Host.Outcome State Fault Refusal :=
  runComb p (.vbcast p vd sb fmt m) (combVbcast p vd sb fmt m) s

/-- VCVT of a register (R124, R298). -/
def combVcvt (p : Pred) (rm : Rm) (vd va : Nat) (fmt : BitVec 8) (m : Option Mods) : Comb :=
  let i : Instr := .vcvt p rm vd va fmt m
  let o : EOp :=
    { dst := .reg vd, srcs := [aSrc va m], inPlace := fun _ => false, values := fun _ => true,
      plan := planCvt (targetOf fmt), key := fun _ => 0,
      elem := fun r c _ xs => convert (r.cap 0).f c.f (r.cap 0).planes rm (xs.getD 0 0) }
  o.comb i p

/-- VCVT, run from issue to completion. -/
def execVcvt (p : Pred) (rm : Rm) (vd va : Nat) (fmt : BitVec 8) (m : Option Mods) (s : State) :
    Host.Outcome State Fault Refusal :=
  runComb p (.vcvt p rm vd va fmt m) (combVcvt p rm vd va fmt m) s

/-- VSHIFT (R297): the element at index `c − δ` of VA, for a signed δ in s(SB). -/
def combVshift (p : Pred) (vd va sb : Nat) (m : Option Mods) : Comb :=
  let i : Instr := .vshift p vd va sb m
  let o : EOp :=
    { dst := .reg vd, srcs := [aSrc va m], inPlace := fun _ => true,
      values := fun t => decide ((t.rs sb).toInt.natAbs ≤ 262143), plan := planCopy Cap.readWidth, key := fun t => t.rs sb,
      elem := fun _ _ _ xs => (xs.getD 0 0, 0, false) }
  let c := o.comb i p
  { c with
    prep := fun t => do
      let r ← c.prep t
      let d := (t.rs sb).toInt.natAbs
      pure { r with total := r.total + (if d ≤ 16 then (r.cap 0).readWidth * d else 0) }
    finish := fun r t =>
      let f := (r.cap 0).f
      let at? (e : Nat) : Nat :=
        let k : Int := e - r.key.toInt
        if 0 ≤ k ∧ k < r.vl then EOp.srcAt r t (aSrc va m, 0) k.toNat else r.sfill.toNat % 2 ^ f.width
      (t.writeElems vd r.active f (r.cells.map fun e => (e, at? e))).writeCap vd r.result }

/-- VSHIFT, run from issue to completion. -/
def execVshift (p : Pred) (vd va sb : Nat) (m : Option Mods) (s : State) : Host.Outcome State Fault Refusal :=
  runComb p (.vshift p vd va sb m) (combVshift p vd va sb m) s

/-- VRAND (R299). -/
def combVrand (p : Pred) (vd sb : Nat) (fmt : BitVec 8) (m : Option Mods) : Comb :=
  let i : Instr := .vrand p vd sb fmt m
  let f := targetOf fmt
  let o : EOp :=
    { dst := .reg vd, srcs := [], inPlace := fun _ => false, values := fun _ => true,
      plan := fun _ => planNew f (520 + f.width), key := fun t => t.rs sb + BitVec.ofNat 64 (t.strip.toNat * t.vlmax),
      elem := fun r c e _ => ((randMix r.rngb (r.key + BitVec.ofNat 64 e)).toNat % 2 ^ c.f.width, 0, false) }
  o.comb i p

/-- VRAND, run from issue to completion. -/
def execVrand (p : Pred) (vd sb : Nat) (fmt : BitVec 8) (m : Option Mods) (s : State) : Host.Outcome State Fault Refusal :=
  runComb p (.vrand p vd sb fmt m) (combVrand p vd sb fmt m) s

end Sys2Proof.Machine
end

