-- ==== Sys2Proof/Machine/VMem.lean ====
section
/-! DEFINITION. Vector memory: OPC 0x44 (R300 to R303), and the memory form of VCVT (R125, R298). A load or store moves its
elements in its step and stays counted in ocld or ocst until it completes (R165). -/

namespace Sys2Proof.Machine

/-- The offset of a vector access (R300). -/
def vecOffset (t : Task) (sb : Nat) (disp : Option Word) : Nat := (t.rs sb + disp.getD 0).toNat

/-- A set of cells as bits. -/
def cellSet (l : List Nat) : Nat := l.foldl (fun a e => a ||| 2 ^ e) 0

/-- The held record of an element-wise access stopped at cell `e` (R185, R301). -/
def holdAt (i : Instr) (r : Resume) (e : Nat) (x : Stop) : M Unit := do
  modT fun t => { t with vstart := BitVec.ofNat 32 e, resume := some r }
  let t ← getT
  modS fun s => s.deliver t i x

/-! ## VLD and VLDFF (R301, R303) -/

/-- Whether an element lies on a page that is unmapped or has LEAF.NS = 1; nothing when its access fails for another cause. -/
def pieceShort (h : Handle) (base al : Nat) (p : Piece) : M (Option Bool) := do
  match ← attempt (checkAccess h (base + p.off) p.bytes .read al) with
  | .error (.page _ _) => pure (some true)
  | .error _ => pure none
  | .ok a =>
    let t ← getT
    let pt ← getP
    let s ← getS
    match h.space with
    | .hbm =>
      match s.leafFor (t.ctx pt) (h.policy ≤ 1) a with
      | .ok (l, s) => do setS s; pure (some l.ns)
      | .error _ => pure none
    | .pool | .host =>
      match s.translate (t.ctx pt) a (some h.space) with
      | .ok (e, s) => do setS s; pure (some e.leaf.ns)
      | .error _ => pure none
    | _ => pure (some false)

/-- The same over an element's pieces. -/
def elemShort (h : Handle) (base al : Nat) : List Piece → M (Option Bool)
  | [] => pure (some false)
  | p :: r => do
    match ← pieceShort h base al p with
    | some false => elemShort h base al r
    | x => pure x

/-- e′ of R303: the first cell of a list whose element makes VLDFF short. -/
def firstShort (f : Nat → M (Option Bool)) : List Nat → M (Option Nat)
  | [] => pure none
  | e :: es => do
    match ← f e with
    | some true => pure (some e)
    | some false => firstShort f es
    | none => pure none

/-- The loading phase: elements in ascending order into VD, from cell `from_` on. A translation fault holds the load at its
element; any other fault leaves everything as it was. `done` is what else the instruction does once it is complete (DESIGN CHOICE, log 34). -/
def loadElems (i : Instr) (vd : Nat) (r : Resume) (m : MemTile) (from_ : Nat) (upTo : Option Nat) (done : Task → Task) :
    M Unit := do
  let t ← getT
  let cells := (r.tileCells t m.cap.count from_).filter fun e => (match upTo with | some k => decide (e < k) | none => true)
  let (got, stopped) ← untilFails
    (fun e => m.readElem (pieces m.cap.f m.cap.planes m.cap.count (r.flat t e))) cells
  let vals := got.map fun x => (x.1, x.2.1)
  let due := firstDue r.due ((got.findSome? fun x => x.2.2))
  let cap := { m.cap with discard := false, poison := m.cap.poison || due.isSome }
  let write (u : Task) : Task := (u.writeElems vd (cellSet (got.map (·.1))) m.cap.f vals).writeCap vd cap.bits
  match stopped with
  | some (e, .page c a) =>
    if e = 0 then stopWith (.page c a)
    else do
      modT write
      holdAt i { r with due := due } e (.page c a)
  | some (_, x) => stopWith x
  | none =>
    modT fun u =>
      let u := write u
      let u := match upTo with
        | some k => { u with avl := BitVec.ofNat 40 (r.flat u k) }
        | none => u
      { u with ocld := u.ocld + 1, vld := u.vld ++ [⟨due, hbmPart m.h (packedSize m.cap.f cells.length)⟩], vstart := 0, resume := none }
    finishWord i done

/-- VLD, and VLDFF when `ff` holds. The record of a held load keeps the preamble's fields. A tile of FMT NONE is loaded (DESIGN CHOICE, log
86). -/
def vectorLoad (ff : Bool) (p : Pred) (i : Instr) (vd h sb : Nat) (disp : Option Word) (s : State) :
    Host.Outcome State Fault Refusal :=
  runHeld .cell p i s fun t => do
    match t.held i with
    | some r => do
      let hd ← useHandle h
      sidePort [] (t.regCols vd)
      let c := r.cap 0
      loadElems i vd r
        { h := hd, o := r.key.toNat, cap := c, bits := c.bits, poff := r.total, soff := 0, moff := 0, plen := 0 } t.vstart.toNat none id
    | none => do
      let v ← regOf i vd
      let o := vecOffset t sb disp
      if 65535 ≤ t.ocld then stall
      else do
        let hd ← useHandle h
        let (m, b, a, due) ← readPreamble hd o
        check (m.headOk b) cCAPCHECK (w64 a)
        check (m.cap.scl == 0 && m.cap.spr == 0) cUNSUPPORTED (w64 a)
        check (decide (m.cap.f.width ≤ v.width)) cNARROW (capTval vd 0)
        check (!v.c.ro) cROWRITE (capTval vd 0)
        check (!(t.tptrap && m.cap.poison)) cPOISON (w64 a)
        sidePort [] (t.regCols vd)
        let r := { capture i p t with key := w64 o, total := m.poff, caps := [m.cap.bits], due := due }
        let short ← if ff then
            firstShort (fun e => elemShort hd (o + m.poff) m.cap.f.align
              (pieces m.cap.f m.cap.planes m.cap.count (r.flat t e))) (r.tileCells t m.cap.count 0)
          else pure none
        loadElems i vd r m 0 (if short = some 0 then none else short) id

/-- VLD (R301). -/
def execVld (p : Pred) (vd h sb : Nat) (disp : Option Word) (s : State) : Host.Outcome State Fault Refusal :=
  vectorLoad false p (.vld p vd h sb disp) vd h sb disp s

/-- VLDFF (R303) (DEDUCED, log 67). -/
def execVldff (p : Pred) (vd h sb : Nat) (disp : Option Word) (s : State) : Host.Outcome State Fault Refusal :=
  vectorLoad true p (.vldff p vd h sb disp) vd h sb disp s

/-! ## VST (R302) -/

/-- The bits that an element's container takes: extended by R79. -/
def containerBits (f : Fmt) (x : Nat) : Nat := fieldBits f f.container x

/-- Writes one piece of an element: whole bytes, or a masked part of one byte. -/
def writePiece (h : Handle) (base al : Nat) (f : Fmt) (x : Nat) (p : Piece) : M Unit := do
  let a ← checkAccess h (base + p.off) p.bytes .write al
  if h.space = .comblin then sidePort [] (combByteCols a p.bytes)
  if 8 ≤ f.container && !f.isPlane then writeBytes h false false .write a (leBytes p.bytes (containerBits f x))
  else do
    let (b, _) ← readByte h false false .write a
    let v := x / 2 ^ p.lo % 2 ^ p.n
    let old := b.toNat
    writeByte h false false .write a (BitVec.ofNat 8 (old - fld old p.bit p.n * 2 ^ p.bit + v * 2 ^ p.bit))

/-- Writes the pieces of an element. -/
def writePieces (h : Handle) (base al : Nat) (f : Fmt) (x : Nat) : List Piece → M Unit
  | [] => pure ()
  | p :: r => do
    writePiece h base al f x p
    writePieces h base al f x r

/-- The access checks of an element's pieces. -/
def checkPieces (h : Handle) (base al : Nat) : List Piece → M Unit
  | [] => pure ()
  | p :: r => do
    let _ ← checkAccess h (base + p.off) p.bytes .write al
    checkPieces h base al r

/-- All eight planes of an element, or its container. -/
def storePieces (c : Cap) (f : Nat) : List Piece := pieces c.f 0 c.count f

/-- The storing phase from cell `from_` on, and the preamble after it. A translation fault holds the store at its element. -/
def storeElems (i : Instr) (va : Nat) (r : Resume) (h : Handle) (from_ : Nat) : M Unit := do
  let t ← getT
  let c := r.cap 0
  let o := r.key.toNat
  let v := t.reg! va
  let cells := r.tileCells t c.count from_
  let (_, first) ← untilFails (fun e => checkPieces h (o + 64) c.f.align (storePieces c (r.flat t e))) cells
  match first with
  | some (_, .page _ _) | none => pure ()
  | some (_, x) => stopWith x
  let cells := match first with
    | some (e, _) => cells.takeWhile fun k => decide (k < e)
    | none => cells
  let (_, failed) ← untilFails
    (fun e => writePieces h (o + 64) c.f.align c.f (t.elem v.base c e) (storePieces c (r.flat t e))) cells
  match firstDueStop failed first with
  | some (e, x) => if e = 0 then stopWith x else holdAt i r e x
  | none => do
    match ← attempt (writeBytes h false false .write (h.addr o) (preambleBytes c 64 0 0 (denseSize c.f c.count))) with
    | .error x => holdAt i r (max 1 r.vl) x
    | .ok _ => do
      modT fun u =>
        { u with ocst := u.ocst + 1, vst := u.vst ++ [hbmPart h (packedSize c.f cells.length)], vstart := 0, resume := none }
      finishWord i id
where
  firstDueStop (a b : Option (Nat × Stop)) : Option (Nat × Stop) :=
    match a with
    | some x => some x
    | none => b

/-- VST (R302). -/
def execVst (p : Pred) (va h sb : Nat) (disp : Option Word) (s : State) : Host.Outcome State Fault Refusal :=
  let i : Instr := .vst p va h sb disp
  runHeld .cell p i s fun t => do
    match t.held i with
    | some r => do
      let hd ← useHandle h
      sidePort (t.reg! va).readCols []
      storeElems i va r hd t.vstart.toNat
    | none => do
      let v ← regOf i va
      let o := vecOffset t sb disp
      capChecks 0 [v.operand 1 va]
        { mismatch := none, shapes := [], unsupported := if v.c.f = .none then some 1 else none, fmt := v.c.f } none
      if 65535 ≤ t.ocst then stall
      else do
        let hd ← useHandle h
        let a ← checkAccess hd o 64 .write 64
        let l ← readBytes hd false false .write a 64
        let b ← freeBytes l
        let old := MemTile.of hd o b
        check (!(capPasses old.bits && old.cap.ro)) cROWRITE (w64 a)
        sidePort v.readCols (if hd.space = .comblin then combByteCols 0 32 else [])
        storeElems i va { capture i p t with key := w64 o, caps := [v.cap] } hd 0

/-! ## Completion (R165) -/

/-- A vector load or store of a task completes: its counter falls, and a load's fault is due at a WAIT (R200), one of class 7 being logged (R198). -/
def execVectorAccessComplete (t : Nat) (store : Bool) (s : State) : Host.Outcome State Fault Refusal :=
  match s.task? t with
  | none => .next s
  | some u =>
    if store then
      match u.vst with
      | [] => .next s
      | _ :: r => .next (s.setTask { u with vst := r, ocst := u.ocst - 1 })
    else match u.vld with
      | [] => .next s
      | d :: r => .next ((s.setTask { u with vld := r, ocld := u.ocld - 1, dues := u.dues ++ d.due.toList }).logDues d.due.toList)

/-! ## VCVT from memory (R125, R298) -/

/-- The issue of the memory form: its checks in the order of R275, and where its tile lies; its elements are still to be loaded
(DEDUCED, log 52). -/
def vcvtPrep (p : Pred) (i : Instr) (vd sb : Nat) (f : Fmt) (t : Task) : M Resume := do
  let v ← regOf i vd
  check (decide ((t.rs (sb + 1)).toNat < 256)) cILLFN (iword i)
  let hn := (t.rs (sb + 1)).toNat
  let hd ← useHandle hn
  let (m, b, a, due) ← readPreamble hd (t.rs sb).toNat
  check (m.headOk b) cCAPCHECK (w64 a)
  check (m.cap.f ≠ .none) cUNSUPPORTED (w64 a)
  check (decide (f.width ≤ v.width)) cNARROW (capTval vd 0)
  check (!v.c.ro) cROWRITE (capTval vd 0)
  check (!(t.tptrap && m.cap.poison)) cPOISON (w64 a)
  pure { capture i p t with
    total := cvtPasses m.cap f, key := t.rs sb, caps := [m.bits], due := due, loading := true
    result := (inferredCap f m.cap 0 0 [m.cap]).bits, work := [hn, m.poff, m.soff, m.moff, m.plen] }

/-- The load phase of the memory form (R298): the elements from the one that it has reached, converted. The record's list holds each
cell and its bits, `mask` the flags; a translation fault ends it at its element, with what it has loaded. -/
def vcvtLoad (rm : Rm) (f : Fmt) (r : Resume) (t : Task) : M (Resume × Option (Nat × Stop)) := do
  if !r.loading then pure (r, none)
  else
    let hd ← useHandle (r.work.getD 0 0)
    let m : MemTile :=
      { h := hd, o := r.key.toNat, cap := r.cap 0, bits := r.caps.getD 0 0, poff := r.work.getD 1 0, soff := r.work.getD 2 0
        moff := r.work.getD 3 0, plen := r.work.getD 4 0 }
    let (md, due) ← readMeta m (hd.addr r.key.toNat)
    let (got, stopped) ← untilFails (fun e => m.convertElem md (r.flat t e) f rm)
      (r.tileCells t m.cap.count (if r.order.isEmpty then 0 else t.vstart.toNat))
    let due := firstDue (firstDue r.due due) (got.findSome? fun x => x.2.2)
    let c := Cap.of r.result
    let r := { r with
      result := { c with poison := c.poison || due.isSome, satseen := c.satseen || got.any fun x => x.2.1.2.2 }.bits
      order := r.order ++ got.flatMap fun x => [x.1, x.2.1.1]
      mask := r.mask ||| ((got.foldl (fun f x => f ||| x.2.1.2.1) (0 : Flags)).setWidth 64)
      due := due }
    match stopped with
    | some (e, .page c a) => pure (r, some (if r.order.isEmpty then 0 else e, .page c a))
    | some (_, x) => stopWith x
    | none => pure ({ r with loading := false, work := [] }, none)

/-- The pairs that a list holds. -/
def pairsOf : List Nat → List (Nat × Nat)
  | a :: b :: r => (a, b) :: pairsOf r
  | _ => []

/-- VCVT of a tile in memory. An uncorrectable error is raised at once, when the elements are written (R200). -/
def combVcvtMem (p : Pred) (rm : Rm) (vd sb : Nat) (fmt : BitVec 8) (m : Option Mods) : Comb :=
  let i : Instr := .vcvtMem p rm vd sb fmt m
  { lanes := .cell, prep := vcvtPrep p i vd sb (targetOf fmt), reads := fun _ _ => [], writes := fun t => t.regCols vd,
    stepped := fun _ => false, pass := fun _ _ t => (t, none), leaves := fun _ => .free,
    load := vcvtLoad rm (targetOf fmt)
    finish := fun r t =>
      let vals := pairsOf r.order
      ((t.orFlags (r.mask.setWidth 5)).writeElems vd (cellSet (vals.map (·.1))) (Cap.of r.result).f vals).writeCap vd r.result }

/-- VCVTMEM, run from issue to completion. -/
def execVcvtMem (p : Pred) (rm : Rm) (vd sb : Nat) (fmt : BitVec 8) (m : Option Mods) (s : State) :
    Host.Outcome State Fault Refusal :=
  runComb p (.vcvtMem p rm vd sb fmt m) (combVcvtMem p rm vd sb fmt m) s

end Sys2Proof.Machine
end

