-- ==== Sys2Proof/Machine/Engine.lean ====
section
/-! DEFINITION. What engine jobs and matrix operations share: arming (R72), static access checks (R361), footprints (R169 to
R171), the order of side-port accesses (R140), pauses (R152, R362) and completion (R165, R69, R191). -/

namespace Sys2Proof.Machine

/-! ## Arming (R72) -/

/-- The check of arming on a term: the task owns it, and its target is the engine. -/
def armCheck (i : Instr) (tgt : Nat) (term : Option Nat) : M Unit := do
  match term with
  | none => pure ()
  | some n => do
    let t ← getT
    let s ← getS
    let e := (s.hive t.hive).term n
    check (decide (e.owner = some t.id) && e.tgt == tgt) cILLFN (iword i)

/-- The effect of arming: with a pulse pending the job starts at once. The term on which it is armed from then on. -/
def armTake (term : Option Nat) : M (Option Nat) := do
  match term with
  | none => pure none
  | some n => do
    let t ← getT
    let s ← getS
    let h := s.hive t.hive
    let e := h.term n
    if 0 < e.pend then do
      setS (s.setHive { h with terms := h.terms.set n { e with pend := e.pend - 1 } })
      pure none
    else pure (some n)

/-- Both. -/
def armTrigger (i : Instr) (tgt : Nat) (term : Option Nat) : M (Option Nat) := do
  armCheck i tgt term
  armTake term

/-! ## Checks at issue -/

/-- Checks 2 to 6 of R134. -/
def checkStatic (h : Handle) (o n : Nat) (acc : Acc) (al : Nat) : M Nat := do
  let a := h.addr o
  checkBound h o n
  if acc = .read then honeyUsable h o
  checkPerm h acc a
  check (a % al == 0) cALIGN (w64 a)
  if acc = .write ∨ acc = .atomic then checkWritable h a n
  pure a

/-- Runs checks over a list of elements, the first failure being raised. -/
def checkEach {α : Type} (f : α → M Unit) : List α → M Unit
  | [] => pure ()
  | x :: xs => do f x; checkEach f xs

/-! ## Footprints (R169, R170) -/

/-- The words of a region entry: offset, length, handle, reserved byte (R169). -/
def regionFields (b : List Byte) : Nat × Nat × Nat × Nat :=
  (leNat (b.take 8), leNat ((b.drop 8).take 6), leNat ((b.drop 14).take 1), leNat ((b.drop 15).take 1))

/-- The regions of a set's entries from entry `k` on, resolved through the task's handles. -/
def readRegions (setNo : Nat) (b : List Byte) : Nat → Nat → M (List Region)
  | _, 0 => pure []
  | k, n + 1 => do
    let (o, len, hn, rsv) := regionFields ((b.drop (16 * k)).take 16)
    check (rsv == 0 && decide (o < 2 ^ 56)) cFOOT (w64 setNo)
    let rest ← readRegions setNo b (k + 1) n
    if len = 0 then pure rest
    else do
      let t ← getT
      let p ← getP
      let s ← getS
      match s.handle? (t.ctx p) p hn with
      | (none, _) => trap cFOOT (w64 setNo)
      | (some h, s) => do
        setS s
        pure (⟨h.space, t.id, h.addr o, len, decide (8 ≤ k)⟩ :: rest)

/-- The footprint set of a job, read at issue (R169). -/
def footprintSet (setNo : Nat) : M (List Region) := do
  let p ← getP
  let l ← getL
  check (decide (setNo < l.fpcnt)) cFOOT (w64 setNo)
  let s ← getS
  match State.devRead p (l.fptab + 256 * setNo) 256 s with
  | .error _ => trap cFOOT (w64 setNo)
  | .ok (b, s) => do
    setS s
    check (!anyBad b) cHBMUE (w64 ((l.fptab + 256 * setNo + b.findIdx (·.2)) % 2 ^ 56))
    readRegions setNo (bytesOf b) 0 16

/-- A job may make its accesses: it is not armed, and no earlier job holds it (R72, R170). -/
def State.jobFree (s : State) (j : Job) : Bool := j.armed.isNone && !(s.jobs.any fun k => j.waitsFor k)

/-- Whether an engine may read a byte: it lies in a region of the set; HSRD and KVAPP have no set (R171). -/
def Job.mayRead (j : Job) (sp : Space) (a : Nat) : Bool := !j.tracked || j.regions.any fun r => r.holds sp j.task a

/-- Whether an engine may write a byte: it lies in a write region (R171). -/
def Job.mayWrite (j : Job) (sp : Space) (a : Nat) : Bool := !j.tracked || j.regions.any fun r => r.write && r.holds sp j.task a

/-- The first of `n` bytes that fails a test. -/
def firstOutside (ok : Nat → Bool) (a : Nat) : Nat → Option Nat
  | 0 => none
  | n + 1 => if ok (a % 2 ^ 56) then firstOutside ok (a + 1) n else some (a % 2 ^ 56)

/-- What a job captures at issue of an object at which it is to arrive (R172, R173): MEM.PROT where an object cannot lie, and BGEN by a
strong load at PKG scope. An object in a window of HOST, HONEY or COMBLIN space is refused (DEDUCED, log 50). -/
def captureArrival : Option (Handle × Nat) → M (Option Arrival)
  | none => pure none
  | some (h, o) => do
    let a := h.addr o
    check (h.bar && a % 64 == 0 && decide (o + 64 ≤ h.bound) && (h.space == .hbm || h.space == .pool)) cPROT (w64 a)
    let a ← barrierAccess h o true
    let ph ← physOf h a
    let l ← readBytes h true false .read a 8
    raiseBad h a l
    pure (some { handle := h, addr := a, phys := ph.getD a, gen := leNat (bytesOf l) })

/-- Issues a job (R362, R170, R165): counted in its class, tracked by its stack; it stalls where one of the two is full. `obj` is the
object at which it is to arrive, a handle and an offset (DEDUCED, log 50). -/
def issueJob (kind : JobKind) (cls : Class) (input armed : Option Nat) (regions : List Region) (promise : Option Nat)
    (dues : List (Nat × Word)) (obj : Option (Handle × Nat) := none) : M Nat := do
  let arrival ← captureArrival obj
  let t ← getT
  let s ← getS
  let j : Job :=
    { id := s.nextJob, task := t.id, vf := t.vf, launch := t.launch, stack := dieOf t.hive, hive := t.hive, kind := kind, cls := cls,
      input := input, armed := armed, regions := regions, promise := promise, rebased := none, paused := none, pausedAt := 0,
      progress := 0, dues := dues, flags := 0, arrival := arrival }
  let others := s.jobs.filter fun k => k.tracked && k.stack == j.stack
  if j.tracked && decide (Config.jobsPerStack ≤ others.length) then stallFor others
  else if 65535 ≤ t.counter cls then stallFor (s.jobs.filter fun k => k.task == t.id && k.cls == cls)
  else do
    setS { s with jobs := s.jobs ++ [j], nextJob := s.nextJob + 1 }
    modT fun u => u.count cls
    pure j.id

/-! ## Side-port accesses of engines in program order (R140) -/

/-- A matrix operation's columns are free of the accesses of jobs issued before it. -/
def State.mxColumnsFree (s : State) (t : Task) (o : MxOp) : Bool :=
  let earlier := s.jobs.filter fun j => j.task == t.id && decide (j.id < o.since)
  let w := earlier.flatMap fun j => j.kind.writesCols t
  !(meets (o.kind.readsCols t) w || meets (o.kind.writesCols t) w ||
    meets (o.kind.writesCols t) (earlier.flatMap fun j => j.kind.readsCols))

/-- A job's columns are free of the accesses of earlier jobs and matrix operations. -/
def State.jobColumnsFree (s : State) (t : Task) (j : Job) : Bool :=
  let earlier := s.jobs.filter fun k => k.task == t.id && decide (k.id < j.id)
  let ops := t.mx.queue.filter fun o => decide (o.since ≤ j.id)
  let w := (earlier.flatMap fun k => k.kind.writesCols t) ++ ops.flatMap fun o => o.kind.writesCols t
  !(meets j.kind.readsCols w || meets (j.kind.writesCols t) w ||
    meets (j.kind.writesCols t) ((earlier.flatMap fun k => k.kind.readsCols) ++ ops.flatMap fun o => o.kind.readsCols t))

/-! ## Pauses (R152, R362) -/

/-- The cause that a paused engine's notice carries: MEM.LPF for a read, MEM.SPF for a write (R362); nothing when the end is
not one that pauses. -/
def Stop.pauses (acc : Acc) : Stop → Option (Nat × Nat)
  | .page _ a => some (if acc = .read then cLPF else cSPF, a)
  | .trap c v => if c = cPROT then some (if acc = .read then cLPF else cSPF, v.toNat) else none
  | _ => none

/-- A read or write of an engine ends in a pause, which its notice reports as the given access. -/
def asAcc {α : Type} (acc : Acc) (m : M α) : M α := fun s =>
  match m s with
  | .error e => .error (match e.pauses acc with | some (c, a) => .page c a | none => e)
  | .ok r => .ok r

/-- The notice of a paused engine (R362), which concerns its task (R197). -/
def Task.engineNotice (t : Task) (cause addr : Nat) : Notice :=
  { t.notice cause 0xFFFFFFFF (w64 addr) with engine := true, task := some t.id }

/-- A job pauses, and its notice is raised. -/
def State.pauseJob (s : State) (j : Job) (cause addr : Nat) : State :=
  let s := s.setJob { j with paused := some (cause, addr), pausedAt := s.cycle.toNat }
  match s.task? j.task with
  | some t => s.raiseNotice t.vf (t.engineNotice cause addr)
  | none => s

/-- Runs an engine's accesses for a task. -/
def engineRun {α : Type} (s : State) (t : Task) (m : M α) : Except Stop (α × State) :=
  match m { s with cur := some t.id } with
  | .error e => .error e
  | .ok (v, s') => .ok (v, { s' with cur := s.cur })

/-- A task is ending: what it issued runs to completion (R204, R426), and then its notices are written. -/
def Task.isEnding (t : Task) : Bool :=
  match t.wait with
  | some (.ending ..) => true
  | some .leaving => true
  | _ => false

/-- What a task's operations complete is applied at once: the task is in its VLC, or it ends where it is. -/
def Task.present (t : Task) : Bool := decide (t.place = .vlc) || t.isEnding

/-- The engines of a task work: it is in its VLC, or it is ending, and no stop is asked for (R185, R426). -/
def Task.working (t : Task) : Bool := t.present && t.stop.isNone

/-! ## Completion (R165, R69, R191) -/

/-- A pulse of a task's completed operation: applied in its hive, or, while the task is swapped out, kept for the restore. -/
def State.pulseFor (s : State) (t : Task) (input : Nat) : State :=
  if t.present then s.pulse t.hive t.id input else s.setTask { t with latePulses := t.latePulses ++ [input] }

/-- The number under which a class is kept for the restore. -/
def Class.code : Class → Nat
  | .ld => 0 | .st => 1 | .cp => 2 | .mx => 3

/-- A task's operation of a class completes: its counter falls, its flags and faults become due, those of class 7 are logged (R198), and
its pulse is applied; of a task that is swapped out, counter and pulse wait for the restore (R191). -/
def State.completeFor (s : State) (t : Task) (cls : Class) (input : Option Nat) (flags : Flags) (dues : List (Nat × Word)) :
    State :=
  let t := { t with dueFlags := t.dueFlags ||| flags, dues := t.dues ++ dues }
  let t := if t.present then t.uncount cls else { t with lateDone := t.lateDone ++ [cls.code] }
  let s := (s.setTask t).logDues dues
  match input with
  | some n => s.pulseFor t n
  | none => s

/-- A job leaves the machine. -/
def State.dropJob (s : State) (id : Nat) : State := { s with jobs := s.jobs.filter (·.id != id) }

/-- The accesses of a job are made, and its arrival is all that is left of it. -/
def Job.arriving (j : Job) : Bool := match j.arrival with | some a => a.stage != .before | none => false

/-- A job with an identity that still has accesses to make. -/
def State.workJob? (s : State) (id : Nat) : Option Job := (s.job? id).filter fun j => !j.arriving

/-- The tag of a job's BAREVT: no task has it, so that its answer completes no instruction. -/
def Job.tag (j : Job) : Nat := 2 ^ 32 + j.id

/-- The event of an arrival at the object's home slice (R173); at a corrupt object SYNC.BARCORRUPT, due at a WAIT (R199). -/
def arriveFor (a : Arrival) : M (List (Nat × Word)) := do
  let l ← asAcc .write (readBytes a.handle true false .atomic a.addr 64)
  match badDue a.handle a.addr l with
  | some d => pure [d]
  | none =>
    match barrierApply (bytesOf l) (.arrive a.gen) with
    | none => pure [(cBARCORRUPT, w64 a.addr)]
    | some (b, st) => do
      asAcc .write (writeBytes a.handle true false .atomic a.addr b)
      let s ← getS
      setS (s.releaseWaiters a.phys (.arrive a.gen) st s.tasks)
      pure []

/-- A job is complete (R165). -/
def State.endJob (s : State) (j : Job) : State :=
  match s.task? j.task with
  | none => s.dropJob j.id
  | some t => (s.dropJob j.id).completeFor t j.cls j.input j.flags j.dues

/-- A job whose accesses are made arrives (R173): in POOL space as a BAREVT whose answer it awaits (R419), else at once; a translation fault
of the arrival pauses the job, which then has only the arrival left. -/
def State.arriveJob (s : State) (t : Task) (j : Job) (a : Arrival) : State :=
  if a.handle.space = .pool then
    (s.sendBarevt a.phys (s.launchGen t) (0, a.gen) j.tag).setJob { j with arrival := some { a with stage := .sent } }
  else
    let j := { j with arrival := some { a with stage := .due } }
    match engineRun s t (arriveFor a) with
    | .error (.page c x) => s.pauseJob j c x
    | .error _ => s.setJob j
    | .ok (d, s) => s.endJob { j with dues := addDues j.dues d }

/-- A job whose accesses are made is complete (R165), once its arrival is made. -/
def State.finishJob (s : State) (j : Job) : State :=
  match j.arrival, s.task? j.task with
  | some a, some t => if a.stage = .sent then s else s.arriveJob t j a
  | _, _ => s.endJob j

/-! ## Tiles as engines read them -/

/-- A memory tile as an operation keeps it. -/
def MemTile.ref (m : MemTile) (d : TileMeta) : TileRef :=
  { h := m.h, o := m.o, cap := m.bits, poff := m.poff, soff := m.soff, moff := m.moff, md := d.bytes, maps := d.maps }

/-- The kept tile as a memory tile. -/
def TileRef.tile (r : TileRef) : MemTile :=
  { h := r.h, o := r.o, cap := Cap.of r.cap, bits := r.cap, poff := r.poff, soff := r.soff, moff := r.moff, plen := 0 }

/-- The metadata kept with a tile. -/
def TileRef.data (r : TileRef) : TileMeta := ⟨r.md, r.maps⟩

/-- A read of COMBLIN space by an engine goes through the side ports: in linear mode (R141), with parity checked (R168). -/
def sideRead (h : Handle) (a n : Nat) : M Unit :=
  if h.space = .comblin then modT fun t => { t with linear := true, heldSwitch := false }.sideParity (combByteCols a n) else pure ()

/-- A write of COMBLIN space by an engine goes through the side ports, in linear mode (R141). -/
def sideWrite (h : Handle) : M Unit :=
  if h.space = .comblin then modT fun t => { t with linear := true, heldSwitch := false } else pure ()

/-- Reads bytes as an engine does: at their home point, with the side ports' parity in COMBLIN space (R354, R168), and from a
refreshing bank of the honey store only when the refresh has ended (R31). -/
def engineBytes (h : Handle) (a n : Nat) : M (List (Byte × Bool)) := do
  sideRead h a n
  let s ← getS
  if h.space = .honey && s.bankHeld a n then stall else asAcc .read (readBytes h true false .read a n)

/-- Writes bytes as an engine does: at their home point; in COMBLIN space through the side ports. -/
def engineWrite (h : Handle) (acc : Acc) (a : Nat) (b : List Byte) : M Unit := do
  sideWrite h
  asAcc .write (writeBytes h true false acc a b)

/-- The pieces of an element as an engine reads them: zero when a byte is uncorrectable (R200). -/
def enginePieces (h : Handle) (base : Nat) : List Piece → M (Nat × Option (Nat × Word))
  | [] => pure (0, none)
  | p :: r => do
    let a := h.addr (base + p.off)
    let l ← engineBytes h a p.bytes
    let x := fld (leNat (bytesOf l)) p.bit p.n * 2 ^ p.lo
    let (y, due) ← enginePieces h base r
    let due := firstDue (badDue h a l) due
    pure (if due.isSome then 0 else x + y, due)

/-- The value of an element of a kept tile (R95, R96), its flags, and the fault that its read brings; a failing operand
reads as zero (R200). ZP has a meaning only for a scaled one (R88). -/
def TileRef.elemVal (r : TileRef) (f : Nat) : M (Val × Flags × Option (Nat × Word)) := do
  let m := r.tile
  let c := m.cap
  match m.pieces r.data f with
  | none => pure (.fin false 0 0 false, 0, none)
  | some ps => do
    let (q, due) ← enginePieces r.h (r.o + r.poff) ps
    if c.scl = 0 then
      pure (if due.isSome then .fin false 0 0 false
        else match c.f with | .fp g => g.val q | g => .ofInt (g.intVal c.planes q), 0, due)
    else do
      let a := r.h.addr (r.o + r.soff + c.scaleIndex f * c.scaleSize)
      let l ← engineBytes r.h a c.scaleSize
      let due := firstDue due (badDue r.h a l)
      if due.isSome then pure (.fin false 0 0 false, 0, due)
      else
        let (v, fl) := scaledVal c q (c.scaleVal (leNat (bytesOf l)))
        pure (v, fl, none)

end Sys2Proof.Machine
end

