-- ==== Sys2Proof/Machine/Forager.lean ====
section
/-! DEFINITION. The forager: OPC 0x70 and 0x71 (R363 to R372), and the step of its accesses (R362). -/

namespace Sys2Proof.Machine

/-! ## Formats and elements (R363) -/

/-- A data format of the forager: integer or floating point, in a container of whole bytes. -/
def foragerFmt (f : Fmt) : Bool := (f.isInt || f.isFp) && decide (8 ≤ f.container)

/-- Bytes of a container. -/
def Fmt.bytes (f : Fmt) : Nat := f.container / 8

/-- An index register's format (R363). -/
def indexOk (c : Cap) : Bool := c.f.isInt && c.zp == 0

/-- The offset of element `e` (R363). -/
def indexOffset (t : Task) (vi : VReg) (lsc rbase e : Nat) : Nat :=
  ofInt 64 ((t.rs rbase).toNat + vi.c.f.intVal 0 (t.elem vi.base vi.c e) * 2 ^ lsc)

/-- The active cells of a word. -/
def Task.activeList (t : Task) (p : Pred) : List Nat := cellsOf (activeCells p t) t.vl

/-! ## FGATH, FSCAT, FSCATA at issue -/

/-- The second word of an instruction. -/
def iext (i : Instr) : Word := (encode i).getD 1 0

/-- FGATH (R364). -/
def execFgath (p : Pred) (trig : Trig) (vd vi h : Nat) (fset : BitVec 12) (gfmt : BitVec 8) (lsc rbase : Nat) (s : State) :
    Host.Outcome State Fault Refusal :=
  let i : Instr := .fgath p trig vd vi h fset gfmt lsc rbase
  runWord .cell p i s fun t => do
    armCheck i 1 trig.armed
    let d ← regOf i vd
    let x ← regOf i vi
    check (vd != vi) cOVERLAP (iword i)
    let f := (Fmt.of gfmt.toNat).getD .none
    capChecks vd [x.operand 1 vi]
      { mismatch := none, shapes := [], unsupported := if indexOk x.c then none else some 1, fmt := f,
        word := if foragerFmt f then none else some (iext i) } (some (d, f.width))
    let hd ← useHandle h
    let elems := (t.activeList p).map fun e => (⟨e, indexOffset t x lsc rbase e, 0⟩ : Elem)
    checkEach (fun e => do let _ ← checkStatic hd e.off f.bytes .read f.bytes; pure ()) elems
    let regions ← footprintSet fset.toNat
    sidePort x.readCols (t.regCols vd)
    let armed ← armTake trig.armed
    let _ ← issueJob (.gather vd gfmt hd elems) .ld (some (8 + trig.tag)) armed regions none []
    modT fun u => u.writeCap vd (inferredCap f x.c 0 0 [x.c]).bits

/-- The elements of a scatter: the cells' offsets and containers. -/
def scatterElems (t : Task) (p : Pred) (a x : VReg) (lsc rbase : Nat) : List Elem :=
  (t.activeList p).map fun e => ⟨e, indexOffset t x lsc rbase e, containerBits a.c.f (t.elem a.base a.c e)⟩

/-- Elements whose container a higher cell also writes are not written (R365). -/
def lastWriters : List Elem → List Elem
  | [] => []
  | e :: r => if r.any (·.off == e.off) then lastWriters r else e :: lastWriters r

/-- The checks of a scatter before those of memory. -/
def scatterChecks (i : Instr) (va vi : Nat) (ok : Fmt → Bool) : M (VReg × VReg) := do
  let a ← regOf i va
  let x ← regOf i vi
  check (va != vi) cOVERLAP (iword i)
  capChecks 0 [a.operand 1 va, x.operand 2 vi]
    { mismatch := none, shapes := [], unsupported := if !ok a.c.f then some 1 else if indexOk x.c then none else some 2, fmt := a.c.f } none
  pure (a, x)

/-- FSCAT (R365). -/
def execFscat (p : Pred) (trig : Trig) (va vi h : Nat) (fset : BitVec 12) (lsc rbase : Nat) (s : State) :
    Host.Outcome State Fault Refusal :=
  let i : Instr := .fscat p trig va vi h fset lsc rbase
  runWord .cell p i s fun t => do
    armCheck i 1 trig.armed
    let (a, x) ← scatterChecks i va vi foragerFmt
    let hd ← useHandle h
    let elems := scatterElems t p a x lsc rbase
    checkEach (fun e => do let _ ← checkStatic hd e.off a.c.f.bytes .write a.c.f.bytes; pure ()) elems
    let regions ← footprintSet fset.toNat
    sidePort (a.readCols ++ x.readCols) []
    let armed ← armTake trig.armed
    let _ ← issueJob (.scatter (BitVec.ofNat 8 a.c.fmt) hd (lastWriters elems)) .st (some (8 + trig.tag)) armed regions none []

/-- The formats that FSCATA adds (R366). -/
def scataFmt : Fmt → Bool
  | .fp f => f = fp32 || f = bf16 || f = fp16
  | .sint n | .uint n => n == 8 || n == 16 || n == 32 || n == 64
  | _ => false

/-- The checks of R134 and R366 for one element of FSCATA. -/
def scataAccess (h : Handle) (n : Nat) (e : Elem) : M Unit := do
  let a := h.addr e.off
  checkBound h e.off n
  check (h.space = .hbm && h.w && h.a) cPROT (w64 a)
  check (a % n == 0) cALIGN (w64 a)

/-- FSCATA (R366). -/
def execFscata (p : Pred) (rm : Rm) (trig : Trig) (va vi h : Nat) (fset : BitVec 12) (lsc rbase : Nat) (s : State) :
    Host.Outcome State Fault Refusal :=
  let i : Instr := .fscata p rm trig va vi h fset lsc rbase
  runWord .cell p i s fun t => do
    armCheck i 1 trig.armed
    let (a, x) ← scatterChecks i va vi scataFmt
    let hd ← useHandle h
    let elems := scatterElems t p a x lsc rbase
    checkEach (scataAccess hd a.c.f.bytes) elems
    let regions ← footprintSet fset.toNat
    sidePort (a.readCols ++ x.readCols) []
    let armed ← armTake trig.armed
    let _ ← issueJob (.scata (BitVec.ofNat 8 a.c.fmt) rm hd elems) .st (some (8 + trig.tag)) armed regions none []

/-! ## FSTRM (R367, R368) -/

/-- A queue of the forager. -/
def Task.queue (t : Task) (q : Nat) : FQueue :=
  t.fq.getD q { st := .idle, fmt := 0, elems := [], count := 0, moved := 0, written := 0, job := 0 }

/-- Replaces a queue. -/
def Task.setQueue (t : Task) (q : Nat) (x : FQueue) : Task := { t with fq := t.fq.set q x }

/-- A queue that its stream and its entries have left. -/
def FQueue.empty : FQueue := { st := .idle, fmt := 0, elems := [], count := 0, moved := 0, written := 0, job := 0 }

/-- The format of a queue's elements. -/
def FQueue.f (x : FQueue) : Fmt := (Fmt.of x.fmt.toNat).getD .none

/-- Elements that an entry packs (R367). -/
def FQueue.per (x : FQueue) : Nat := 64 / x.f.bytes

/-- The queue has room for its next element: its 64 entries are counted from the entry of the oldest element held. -/
def FQueue.room (x : FQueue) : Bool := decide (x.moved / x.per - (x.moved - x.elems.length) / x.per < 64)

/-- The offset of a stream's element, exact (R368). -/
def streamOff (first stride : Int) (k : Nat) : Int := first + k * stride

/-- The bound checks of a stream's element: an offset below 0 or beyond 64 bits is out of bounds (R368). -/
def streamBound (h : Handle) (o : Int) (n : Nat) : M Unit := do
  check (decide (0 ≤ o) && decide (o < 2 ^ 64)) cHBOUND (BitVec.ofInt 64 o)
  checkBound h o.toNat n

/-- The checks of a stream's elements from `k` on. -/
def streamElems (h : Handle) (first stride : Int) (n : Nat) (acc : Acc) (k : Nat) : Nat → M Unit
  | 0 => pure ()
  | m + 1 => do
    let o := streamOff first stride k
    streamBound h o n
    let _ ← checkStatic h o.toNat n acc n
    streamElems h first stride n acc (k + 1) m

/-- The first element of a stream whose offset leaves the handle's bound, if the first element does not. -/
def streamLeaves (first stride : Int) (bound n : Nat) : Option Nat :=
  if 0 < stride then some (((bound : Int) - n - first) / stride + 1).toNat
  else if stride < 0 then some (first / (-stride) + 1).toNat
  else none

/-- The checks of a stream at issue (R361, R368). In a translated space the elements between the first and the one that leaves
the bound differ from the first in nothing that is checked (DEDUCED, log 39). -/
def streamChecks (h : Handle) (first stride : Int) (count n : Nat) (acc : Acc) : M Unit := do
  let a := h.addr first.toNat
  if count = 0 then check (a % n == 0 && decide (stride % n = 0)) cALIGN (w64 a)
  else do
    streamElems h first stride n acc 0 1
    check (decide (stride % n = 0)) cALIGN (w64 a)
    if h.space = .honey ∨ h.space = .comblin then
      if stride = 0 then pure () else streamElems h first stride n acc 1 (count - 1)
    else match streamLeaves first stride h.bound n with
      | some k => if k < count then streamBound h (streamOff first stride k) n else pure ()
      | none => pure ()

/-- FSTRM (R368). -/
def execFstrm (p : Pred) (trig : Trig) (sd sa sb h : Nat) (fset : BitVec 12) (sfmt : BitVec 8) (dir : Bool) (q : Nat)
    (stride : BitVec 32) (s : State) : Host.Outcome State Fault Refusal :=
  let i : Instr := .fstrm p trig sd sa sb h fset sfmt dir q stride
  runWord .whole p i s fun t => do
    armCheck i 1 trig.armed
    let count := (t.rs sb).toNat
    check (decide (count < 2 ^ 40)) cILLFN (iword i)
    let f := (Fmt.of sfmt.toNat).getD .none
    check (foragerFmt f) cUNSUPPORTED (iext i)
    let hd ← useHandle h
    let first : Int := (t.rs sa).toNat
    let acc : Acc := if dir then .write else .read
    streamChecks hd first stride.toInt count f.bytes acc
    let regions ← footprintSet fset.toNat
    if (t.queue q).st ≠ .idle then modT fun u => u.ws sd 1
    else do
      let armed ← armTake trig.armed
      if count = 0 ∧ armed.isNone then do
        modS fun s => s.pulse t.hive t.id (8 + trig.tag)
        modT fun u => u.ws sd 0
      else do
        let j ← issueJob (.stream (!dir) q sfmt hd first stride.toInt count) (if dir then .st else .ld) (some (8 + trig.tag)) armed
          regions none []
        modT fun u => (u.setQueue q
          { st := if dir then .outbound else .inbound, fmt := sfmt, elems := [], count := count, moved := 0, written := 0,
            job := j }).ws sd 0

/-! ## The accesses (R362) -/

/-- A job whose accesses are all made, or that a footprint has stopped. -/
def Job.accessesDone (j : Job) (t : Task) : Bool :=
  match j.kind with
  | .gather _ _ _ l | .scatter _ _ l => decide (l.length ≤ j.progress)
  | .scata _ _ _ l => decide (((l.map (·.off)).eraseDups).length ≤ j.progress)
  | .stream inb q .. =>
    decide (0 < j.progress) || (let x := t.queue q; if inb then decide (x.count ≤ x.moved) else decide (x.count ≤ x.written))
  | _ => true

/-- A stream job with an access to make now (R368): a free entry, or an entry to write. -/
def Job.streamReady (j : Job) (t : Task) : Bool :=
  match j.kind with
  | .stream inb q .. =>
    let x := t.queue q
    if inb then x.room && decide (x.moved < x.count)
    else decide (x.written < x.moved) && (decide ((x.written / x.per + 1) * x.per ≤ x.moved) || x.moved == x.count)
  | _ => true

/-- The job of a stopped access: MEM.FOOT at the first byte outside the footprint (R171). -/
def Job.footStop (j : Job) (a total : Nat) : Job := { j with progress := total, dues := addDues j.dues [(cFOOT, w64 a)] }

/-- Adds the elements of FSCATA at one offset, in ascending cell order (R366): the word and the flags. -/
def scataSum (f : Fmt) (rm : Rm) (old : Nat) : List Elem → Nat × Flags
  | [] => (old, 0)
  | e :: r =>
    let (v, fl) := match f with
      | .fp g => g.round rm ((g.val old).add rm (g.val e.val))
      | f => ((old + e.val) % 2 ^ f.container, 0)
    let (w, fl') := scataSum f rm v r
    (w, fl ||| fl')

/-- What an access ends in: the job as it then stands. -/
def gatherAccess (j : Job) (vd : Nat) (f : Fmt) (h : Handle) (l : List Elem) : M Job := do
  match l[j.progress]? with
  | none => pure j
  | some e => do
    let a := h.addr e.off
    match firstOutside (j.mayRead h.space) a f.bytes with
    | some x => pure (j.footStop x l.length)
    | none => do
      let b ← engineBytes h a f.bytes
      let due := badDue h a b
      let v := if due.isSome then 0 else leNat (bytesOf b) % 2 ^ f.width
      modT fun u =>
        let u := { u.writeElems vd (2 ^ e.cell) f [(e.cell, v)] with linear := true, heldSwitch := false }
        if due.isSome then (match u.vreg vd with
          | some r => u.setVreg vd (some { r with cap := { r.c with poison := true }.bits })
          | none => u)
        else u
      pure { j with progress := j.progress + 1, dues := addDues j.dues due.toList }

/-- A store of a scatter. -/
def scatterAccess (j : Job) (f : Fmt) (h : Handle) (l : List Elem) : M Job := do
  match l[j.progress]? with
  | none => pure j
  | some e => do
    let a := h.addr e.off
    match firstOutside (j.mayWrite h.space) a f.bytes with
    | some x => pure (j.footStop x l.length)
    | none => do
      engineWrite h .write a (leBytes f.bytes e.val)
      pure { j with progress := j.progress + 1 }

/-- One atomic step of FSCATA: all elements at one offset. -/
def scataAccessStep (j : Job) (f : Fmt) (rm : Rm) (h : Handle) (l : List Elem) : M Job := do
  let offs := (l.map (·.off)).eraseDups
  match offs[j.progress]? with
  | none => pure j
  | some o => do
    let a := h.addr o
    match firstOutside (j.mayWrite h.space) a f.bytes with
    | some x => pure (j.footStop x offs.length)
    | none => do
      sideRead h a f.bytes
      let b ← asAcc .write (readBytes h true false .atomic a f.bytes)
      let (v, fl) := scataSum f rm (leNat (bytesOf b)) (l.filter (·.off == o))
      let due := badDue h a b
      let v ← if due.isSome then (do let w ← freshWord; pure w.toNat) else pure v
      engineWrite h .atomic a (leBytes f.bytes v)
      pure { j with progress := j.progress + 1, flags := j.flags ||| fl, dues := addDues j.dues due.toList }

/-- An element of a stream. A fault that the read of an inbound element meets stays with it until a VPOP takes it (R200). -/
def streamAccess (j : Job) (inb : Bool) (q : Nat) (h : Handle) (first stride : Int) : M Job := do
  let t ← getT
  let x := t.queue q
  let n := x.f.bytes
  let a := h.addr (streamOff first stride (if inb then x.moved else x.written)).toNat
  if inb then
    match firstOutside (j.mayRead h.space) a n with
    | some y => pure (j.footStop y 1)
    | none => do
      let b ← engineBytes h a n
      let due := badDue h a b
      let v := if due.isSome then 0 else leNat (bytesOf b) % 2 ^ x.f.width
      modT fun u => u.setQueue q { u.queue q with elems := (u.queue q).elems ++ [(v, due)], moved := x.moved + 1 }
      pure j
  else
    match x.elems with
    | [] => pure j
    | e :: r =>
      match firstOutside (j.mayWrite h.space) a n with
      | some y => pure (j.footStop y 1)
      | none => do
        engineWrite h .write a (leBytes n (containerBits x.f e.1))
        modT fun u => u.setQueue q { u.queue q with elems := r, written := x.written + 1 }
        pure j

/-- The next access of a forager job. -/
def foragerStep (j : Job) : M Job :=
  match j.kind with
  | .gather vd f h l => gatherAccess j vd ((Fmt.of f.toNat).getD .none) h l
  | .scatter f h l => scatterAccess j ((Fmt.of f.toNat).getD .none) h l
  | .scata f rm h l => scataAccessStep j ((Fmt.of f.toNat).getD .none) rm h l
  | .stream inb q _ h first stride _ => streamAccess j inb q h first stride
  | _ => pure j

/-- The next element of an inbound stream lies on a page that is NS or cannot be translated: no speculative access is made there (R148). -/
def State.pageHeld (s : State) (t : Task) (j : Job) : Bool :=
  match j.kind, s.part? t.vf with
  | .stream true q _ h first stride _, some p =>
    let a := h.addr (streamOff first stride (t.queue q).moved).toNat
    match h.space with
    | .hbm => (match s.leafFor (t.ctx p) false a with | .ok (l, _) => l.ns | .error _ => true)
    | .pool | .host => (match s.translate (t.ctx p) a (some h.space) with | .ok (e, _) => e.leaf.ns | .error _ => true)
    | _ => false
  | _, _ => false

/-- The incomplete inbound streams of a task whose next element lies on such a page. -/
def State.heldStreams (s : State) (t : Task) : Nat :=
  (s.jobs.filter fun j => j.task == t.id && !j.accessesDone t && s.pageHeld t j).length

/-- A job that is armed on a term which the pulse of another job feeds (R70, R72). -/
def State.startedBy (s : State) (k j : Job) : Bool :=
  match k.armed, s.task? k.task with
  | some n, some u => k.task == j.task && s.feedsTerm u ((s.hive u.hive).term n) j.input
  | _, _ => false

/-- The effect of an instruction that a task has issued needs a job of the task to go on: a later job waits for it by R170, or a job or
matrix operation is armed on a term that its pulse feeds (R148) (DESIGN CHOICE, log 88). -/
def State.laterNeeds (s : State) (t : Task) (j : Job) : Bool :=
  s.jobs.any (fun k => (k.armed.isNone && k.waitsFor j) || s.startedBy k j) ||
    t.mx.queue.any fun o => match o.armed with | some n => s.feedsTerm t ((s.hive t.hive).term n) j.input | none => false

/-- What a task waits in needs a job of its own to go on (R148): a VPOP on its empty queue, a WAIT or HALT that held streams alone can
end, a BARWAIT for its arrival, a WGWAIT for its pulse, an issue that stalls on it, or the end of the task (DESIGN CHOICE, log 88). -/
def State.waitNeeds (s : State) (t : Task) (j : Job) : Bool :=
  match t.wait with
  | some (.condition (some (.vpop _ _ _ q))) =>
    (match j.kind with | .stream true k .. => k == q && (t.queue q).elems.isEmpty | _ => false)
  | some (.condition (some (.wait _ w))) => decide (waitLimit w .ld < s.heldStreams t)
  | some (.condition (some (.halt _))) => true
  | some (.barrier _ _ ph _) => j.arrivesAt ph
  | some (.waggle _ _ n) => s.feedsTerm t ((s.hive t.hive).term n) j.input
  | some (.ending ..) => true
  | _ => false

/-- An issue of any task stalls until a job is complete (R165, R170, R375). -/
def State.issueNeeds (s : State) (j : Job) : Bool :=
  s.tasks.any fun u => match u.wait with | some (.jobs _ ids) => ids.contains j.id | _ => false

/-- The architectural effect of an instruction needs the next element of an inbound stream (R148). -/
def State.elementNeeded (s : State) (t : Task) (j : Job) : Bool := s.waitNeeds t j || s.issueNeeds j || s.laterNeeds t j

/-- An inbound stream holds back: its next element lies on such a page, and nothing needs it yet. -/
def State.aheadHeld (s : State) (t : Task) (j : Job) : Bool := s.pageHeld t j && !s.elementNeeded t j

/-- Whether a forager job can make an access now. -/
def State.foragerReady (s : State) (t : Task) (j : Job) : Bool :=
  (match j.kind with | .gather .. | .scatter .. | .scata .. | .stream .. => true | _ => false) &&
    t.working && j.paused.isNone && s.jobFree j && s.jobColumnsFree t j && !j.accessesDone t && j.streamReady t && !s.aheadHeld t j

/-- Makes the next access of a forager job, or pauses the job (R362). -/
def State.foragerAccess (s : State) (t : Task) (j : Job) : State :=
  match engineRun s t (foragerStep j) with
  | .ok (j, s) => s.setJob j
  | .error (.page c a) => s.pauseJob j c a
  | .error _ => s

/-- FORAGER_ACCESS: a forager performs its next element access (R362). -/
def execForagerAccess (j : Nat) (s : State) : Host.Outcome State Fault Refusal :=
  match s.job? j with
  | none => .next s
  | some x =>
    match s.task? x.task with
    | none => .next s
    | some t => .next (if s.foragerReady t x then s.foragerAccess t x else s)

/-! ## VPOP and VPUSH (R369 to R371) -/

/-- What VPOP takes at element `e` on: values for the active cells, the queue left, the count of elements popped, the faults that come
with them, and the element at which it waits. -/
def popFrom (active : Nat) (fill : Nat) (open_ : Bool) : List Nat → List (Nat × Option (Nat × Word)) →
    List (Nat × Nat) × List (Nat × Option (Nat × Word)) × Nat × List (Nat × Word) × Option Nat
  | [], q => ([], q, 0, [], none)
  | e :: es, [] =>
    if open_ then ([], [], 0, [], some e)
    else
      let (vals, q, n, ds, w) := popFrom active fill open_ es []
      (if bitOf active e then (e, fill) :: vals else vals, q, n, ds, w)
  | e :: es, (x, d) :: q =>
    let (vals, q, n, ds, w) := popFrom active fill open_ es q
    (if bitOf active e then (e, x) :: vals else vals, q, n + 1, d.toList ++ ds, w)

/-- The faults of elements that a VPOP has taken become due with their job, or, when that is complete, at the task's next WAIT (R200)
(DESIGN CHOICE, log 106). -/
def takeElemDues (job : Nat) (ds : List (Nat × Word)) : M Unit := do
  let s ← getS
  match s.job? job with
  | some j => setS (s.setJob { j with dues := addDues j.dues ds })
  | none => do
    modT fun u => { u with dues := u.dues ++ ds }
    modS fun s => s.logDues ds

/-- An inbound queue that is empty when its stream is complete is idle (R367). -/
def State.settleQueue (s : State) (t : Task) (q : Nat) : Task :=
  let x := t.queue q
  if x.st = .inbound ∧ x.elems = [] ∧ (s.job? x.job).isNone then t.setQueue q FQueue.empty else t

/-- VPOP from element `from_` on, with `n` elements popped before; a D0 that the field cannot hold is free (DESIGN CHOICE, log 80). -/
def vpopRun (i : Instr) (r : Resume) (sd vd q from_ n : Nat) (poison : Bool) : M Unit := do
  let s ← getS
  let t ← getT
  let x := t.queue q
  let f := (Fmt.of r.mask.toNat).getD .none
  let open_ := x.st = .inbound && (s.job? x.job).isSome
  let (vals, rest, k, ds, wait) := popFrom r.active (r.sfill.toNat % 2 ^ f.width) open_ ((List.range r.vl).drop from_) x.elems
  modT fun u =>
    let u := u.setQueue q { x with elems := rest }
    { u.writeElems vd (cellSet (vals.map (·.1))) f vals with linear := true, heldSwitch := false }
  takeElemDues x.job ds
  let po := !ds.isEmpty
  let u ← getT
  setT (s.settleQueue u q)
  match wait with
  | some e =>
    if e = 0 then stall
    else holdAt i { r with order := [n + k, b2n (poison || po)] } e (.stall (.condition none))
  | none => do
    let c := { inferredCap f { Cap.blank with d0 := slotExtent r.vl } 0 0 [] with poison := poison || po }
    modT fun u => { (u.writeCap vd c.bits).ws sd (w64 (n + k)) with vstart := 0, resume := none }
    finishWord i id

/-- VPOP (R369). -/
def execVpop (p : Pred) (sd vd q : Nat) (s : State) : Host.Outcome State Fault Refusal :=
  let i : Instr := .vpop p sd vd q
  runHeld .cell p i s fun t => do
    match t.held i with
    | some r => vpopRun i r sd vd q t.vstart.toNat (r.order.getD 0 0) (r.order.getD 1 0 == 1)
    | none => do
      let d ← regOf i vd
      let x := t.queue q
      check (x.st ≠ .outbound) cILLFN (iword i)
      let f := if x.st = .idle then d.c.f else x.f
      capChecks vd [] { mismatch := none, shapes := [], unsupported := if f = .none then some 0 else none, fmt := f } (some (d, f.width))
      sidePort [] (t.regCols vd)
      vpopRun i { capture i p t with mask := w64 f.code } sd vd q 0 0 false

/-- What VPUSH appends: the elements of the cells up to the stream's count and the queue's room; the cell at which it
waits. -/
def pushFrom (val : Nat → Nat) : List Nat → FQueue → FQueue × Option Nat
  | [], x => (x, none)
  | e :: es, x =>
    if x.count ≤ x.moved then (x, none)
    else if !x.room then (x, some e)
    else pushFrom val es { x with elems := x.elems ++ [(val e, none)], moved := x.moved + 1 }

/-- VPUSH from element `from_` on. -/
def vpushRun (i : Instr) (r : Resume) (sd va q from_ n : Nat) : M Unit := do
  let t ← getT
  let v := t.reg! va
  let c := r.cap 0
  let x := t.queue q
  let (y, wait) := pushFrom (t.elem v.base c) (r.cells.filter fun e => decide (from_ ≤ e)) x
  let k := y.moved - x.moved
  modT fun u => { u.setQueue q y with linear := true, heldSwitch := false }
  match wait with
  | some e =>
    if e = 0 then stall else holdAt i { r with order := [n + k] } e (.stall (.condition none))
  | none => do
    modT fun u => { u.ws sd (w64 (n + k)) with vstart := 0, resume := none }
    finishWord i id

/-- VPUSH (R370). -/
def execVpush (p : Pred) (sd va q : Nat) (s : State) : Host.Outcome State Fault Refusal :=
  let i : Instr := .vpush p sd va q
  runHeld .cell p i s fun t => do
    match t.held i with
    | some r => vpushRun i r sd va q t.vstart.toNat (r.order.getD 0 0)
    | none => do
      let a ← regOf i va
      let x := t.queue q
      check (x.st = .outbound) cILLFN (iword i)
      capChecks 0 [a.operand 1 va]
        { mismatch := if a.c.fmt = x.fmt.toNat then none else some 1, shapes := [], unsupported := none, fmt := a.c.f } none
      sidePort a.readCols []
      vpushRun i { capture i p t with caps := [a.cap] } sd va q 0 0

/-! ## FGSYNC (R372) -/

/-- The queues that a mask names. -/
def maskQueues (mask : BitVec 8) : List Nat := (List.range 8).filter fun q => mask.getLsbD q

/-- The streams of the outbound queues named end with the elements pushed. -/
def Task.endOutbound (t : Task) (qs : List Nat) : Task :=
  qs.foldl (fun t q => if (t.queue q).st = .outbound then t.setQueue q { t.queue q with count := (t.queue q).moved } else t) t

/-- Some outbound queue named has elements that are not written. -/
def Task.outboundLeft (t : Task) (qs : List Nat) : Bool :=
  qs.any fun q => (t.queue q).st = .outbound && decide ((t.queue q).written < (t.queue q).moved)

/-- A named queue's stream is complete, its job done, and the queue idle. A fault of an element that nothing consumed is only logged
(R200). -/
def State.syncQueue (s : State) (t q : Nat) : State :=
  match s.task? t with
  | none => s
  | some u =>
    let x := u.queue q
    if x.st = .idle then s
    else
      let s := s.logDues (x.elems.filterMap (·.2))
      let s := match s.job? x.job with | some j => s.finishJob j | none => s
      match s.task? t with
      | some u => s.setTask (u.setQueue q FQueue.empty)
      | none => s

/-- The streams of a task that ends, which only a VPUSH or a VPOP could carry on, end with what they have (R204) (DESIGN CHOICE, log 45). -/
def State.endStreams (s : State) (id : Nat) : State :=
  match s.task? id with
  | none => s
  | some t =>
    (List.range 8).foldl (fun s q =>
      let x := t.queue q
      if x.st = .inbound ∧ ¬x.room ∧ x.moved < x.count then s.syncQueue id q else s)
      (s.setTask (t.endOutbound (List.range 8)))

/-- FGSYNC (R372). -/
def execFgsync (p : Pred) (sd : Nat) (mask : BitVec 8) (s : State) : Host.Outcome State Fault Refusal :=
  let i : Instr := .fgsync p sd mask
  runFlow .whole p i s fun t => do
    let qs := maskQueues mask
    modT fun u => u.endOutbound qs
    if t.outboundLeft qs then
      modT fun u => { u with wait := some (.condition (some i)), stallSince := some (u.stallSince.getD s.cycle.toNat) }
    else do
      let n := (qs.map fun q => if (t.queue q).st = .inbound then (t.queue q).elems.length else 0).sum
      modS fun s => qs.foldl (fun s q => s.syncQueue t.id q) s
      finishWord i fun u => u.ws sd (w64 n)

end Sys2Proof.Machine
end

