-- ==== Sys2Proof/Machine/Copy.lean ====
section
/-! DEFINITION. The copy engine: OPC 0x72 (R373 to R375), and the honey store: OPC 0x73 (R376, R377). -/

namespace Sys2Proof.Machine

/-! ## Checks at issue (R361, R368, R373) -/

/-- The first of `n` bytes from an exact offset that fails checks 2 to 6 of R134: its index, cause and tval; `ready` is
READY.HONEY (R422) (DEDUCED, log 36). -/
def rangeFail (ready : Bool) (h : Handle) (t : Task) (o : Int) (n : Nat) (acc : Acc) : Option (Nat × Nat × Word) :=
  if n = 0 then none
  else if o < 0 then some (0, cHBOUND, BitVec.ofInt 64 o)
  else
    let a := h.addr o.toNat
    let room := match h.space with
      | .honey => if acc = .read ∧ !ready then 0 else Config.honeyEnd - a
      | .comblin => t.vlmax * 32 - a
      | _ => n
    let lim := min ((h.bound : Int) - o).toNat room
    let ok := match acc with | .read => h.r | _ => h.w
    if lim = 0 then some (0, cHBOUND, BitVec.ofInt 64 o)
    else if !ok then some (0, cPROT, w64 a)
    else if acc = .write ∧ h.space = .honey then some (0, cHONEYWR, w64 a)
    else
      match (if acc = .write ∧ h.space = .comblin then (List.range (min n lim)).find? (fun i => combReadOnly (a + i)) else none) with
      | some i => some (i, cROWRITE, w64 (a + i))
      | none => if lim < n then some (lim, cHBOUND, BitVec.ofInt 64 (o + lim)) else none

/-- The checks of one row of a copy: the lowest failing byte is reported, its read before its write. -/
def copyRowCheck (dst src : Handle) (doff soff : Int) (n : Nat) : M Unit := do
  let t ← getT
  let s ← getS
  let ready := s.everReady.getLsbD 25
  match rangeFail ready src t soff n .read, rangeFail ready dst t doff n .write with
  | none, none => pure ()
  | some (_, c, v), none => trap c v
  | none, some (_, c, v) => trap c v
  | some (i, c, v), some (k, c', v') => if k < i then trap c' v' else trap c v

/-- The checks of the rows of a copy from row `r` on. -/
def copyRowChecks (dst src : Handle) (doff soff dstride sstride : Int) (len : Nat) (r : Nat) : Nat → M Unit
  | 0 => pure ()
  | k + 1 => do
    copyRowCheck dst src (doff + r * dstride) (soff + r * sstride) len
    copyRowChecks dst src doff soff dstride sstride len (r + 1) k

/-! ## Promises (R375) -/

/-- The promise of a job as it stands, rebased or not. -/
def Job.promised (j : Job) : Option Nat :=
  match j.rebased with
  | some r => some r
  | none => j.promise

/-- The greatest of some promises and a cycle. -/
def latest (now : Nat) (l : List Job) : Nat := (l.filterMap Job.promised).foldl max now

/-- The jobs of a hive's copy engine: those counted in occp (R374). -/
def State.copyJobs (s : State) (hive : Nat) : List Job := s.jobs.filter fun j => j.hive == hive && j.cls == .cp

/-- The promise of a copy of duration `dur` issued now, with `extra` for honey-store bytes; a stall while the job would wait by
R170 for a job without a promise. -/
def promiseFor (regions : List Region) (dur extra : Nat) : M Nat := do
  let t ← getT
  let s ← getS
  let probe : Job :=
    { id := s.nextJob, task := t.id, vf := t.vf, launch := t.launch, stack := dieOf t.hive, hive := t.hive, kind := .contract, cls := .cp,
      input := none, armed := none, regions := regions, promise := none, rebased := none, paused := none, pausedAt := 0,
      progress := 0, dues := [], flags := 0, arrival := none }
  let before := s.jobs.filter fun k => probe.waitsFor k
  let unpromised := before.filter fun k => k.promised.isNone
  if !unpromised.isEmpty then stallFor unpromised
  else pure (latest s.cycle.toNat (s.copyJobs t.hive ++ before) + 300 + dur + extra)

/-! ## COPY and COPY2D -/

/-- A copy: `len` bytes in each of `rows` rows, `dur` its part of the promise. -/
def copyIssue (trig : Trig) (sd h sh fset : Nat) (doff soff : Int) (len rows dur : Nat) (dstride sstride : Int) : M Unit := do
  let hd ← useHandle h
  let hs ← useHandle sh
  copyRowChecks hd hs doff soff dstride sstride len 0 (if len = 0 then 0 else rows)
  let regions ← footprintSet fset
  let s ← getS
  let armed ← armTake trig.armed
  if len * rows = 0 ∧ armed.isNone then do
    let t ← getT
    modS fun s => s.pulse t.hive t.id trig.tag
    modT fun u => u.ws sd s.cycle
  else do
    let p ← if len * rows = 0 then pure s.cycle.toNat
      else promiseFor regions dur (if hs.space = .honey then 384 * (ceilDiv dur 1536 + 1) else 0)
    let _ ← issueJob (.copy hd hs doff soff len rows dstride sstride) .cp (some trig.tag) armed regions (some p) []
    modT fun u => u.ws sd (w64 p)

/-- COPY (R373) (DEDUCED, log 37). -/
def execCopy (p : Pred) (trig : Trig) (sd sa sb h : Nat) (fset : BitVec 12) (sh sor : Nat) (s : State) :
    Host.Outcome State Fault Refusal :=
  let i : Instr := .copy p trig sd sa sb h fset sh sor
  runWord .whole p i s fun t => do
    armCheck i 0 trig.armed
    let len := (t.rs sb).toNat
    check (decide (len ≤ 2 ^ 40)) cILLFN (iword i)
    copyIssue trig sd h sh fset.toNat (t.rs sa).toNat (t.rs sor).toNat len 1 (ceilDiv len 32) 0 0

/-- COPY2D (R373). -/
def execCopy2d (p : Pred) (trig : Trig) (sd sa sb h : Nat) (fset : BitVec 12) (sh sor : Nat) (s : State) :
    Host.Outcome State Fault Refusal :=
  let i : Instr := .copy2d p trig sd sa sb h fset sh sor
  runWord .whole p i s fun t => do
    armCheck i 0 trig.armed
    let len := (t.rs sb).toNat
    let rows := (t.rs (sb + 1)).toNat
    check (decide (len ≤ 2 ^ 32) && decide (rows ≤ 2 ^ 32) && decide (len * rows ≤ 2 ^ 40)) cILLFN (iword i)
    copyIssue trig sd h sh fset.toNat (t.rs sa).toNat (t.rs sor).toNat len rows (rows * (ceilDiv len 32 + 1))
      (t.rs (sb + 2)).toInt (t.rs (sb + 3)).toInt

/-! ## Moving bytes -/

/-- What a run of moves ends in. -/
inductive Moved where
  | done
  | outside (addr : Nat)
  | paused (cause addr : Nat)
  | held
deriving DecidableEq, Repr

/-- Moves one byte as an engine: an uncorrectable source byte leaves a free value (R200). -/
def moveByte (dst src : Handle) (da sa : Nat) : M (Option (Nat × Word)) := do
  let l ← engineBytes src sa 1
  let due := badDue src sa l
  let b ← if due.isSome then (do let w ← freshWord; pure (w.setWidth 8)) else pure ((bytesOf l).headD 0)
  sideWrite dst
  asAcc .write (writeByte dst true false .write da b)
  pure due

/-- Moves bytes `k` on, each under the job's footprint: the index reached, how it ended, and the fault found. -/
def moveBytes (j : Job) (dst src : Handle) (da sa : Nat → Nat) (k : Nat) : Nat → M (Nat × Moved × Option (Nat × Word))
  | 0 => pure (k, .done, none)
  | n + 1 => do
    let s := sa k
    let d := da k
    if !j.mayRead src.space s then pure (k, .outside s, none)
    else if !j.mayWrite dst.space d then pure (k, .outside d, none)
    else match ← attempt (moveByte dst src d s) with
      | .error (.page c a) => pure (k, .paused c a, none)
      | .error (.stall _) => pure (k, .held, none)
      | .error _ => pure (k, .outside s, none)
      | .ok due => do
        let (k', e, due') ← moveBytes j dst src da sa (k + 1) n
        pure (k', e, firstDue due due')

/-- Address of byte `k` of a strided range. -/
def stridedAddr (h : Handle) (off stride : Int) (len k : Nat) : Nat :=
  h.addr (ofInt 64 (off + (k / len : Nat) * stride + (k % len : Nat)))

/-- Runs a copy job from where it stands to its end, its pause, or the edge of its footprint (DESIGN CHOICE, log 38). -/
def State.runCopy (s : State) (t : Task) (j : Job) : State :=
  match j.kind with
  | .copy dst src doff soff len rows dstride sstride =>
    match engineRun s t (moveBytes j dst src (stridedAddr dst doff dstride len) (stridedAddr src soff sstride len) j.progress
        (len * rows - j.progress)) with
    | .error _ => s
    | .ok ((k, e, due), s) =>
      let j := { j with progress := k, dues := addDues j.dues due.toList }
      match e with
      | .done => s.finishJob j
      | .outside a => s.finishJob { j with dues := addDues j.dues [(cFOOT, w64 a)] }
      | .paused c a => s.pauseJob j c a
      | .held => s.setJob j
  | _ => s

/-- A copy job runs now: it is the oldest of its engine (R374), free and not paused, and the columns that it touches are free. -/
def State.copyReady (s : State) (t : Task) (j : Job) : Bool :=
  j.paused.isNone && s.jobFree j && s.jobColumnsFree t j && !((s.copyJobs j.hive).any fun k => decide (k.id < j.id))

/-! ## HSRD (R376) -/

/-- The checks of HSRD's preamble and elements: as VLD's, in HONEY space alone. -/
def hsrdAccess (h : Handle) (o n al : Nat) : M Nat := do
  checkBound h o n
  check (h.space = .honey) cPROT (w64 (h.addr o))
  checkAccess h o n .read al

/-- HSRD (R376): VLD's checks and cap at issue, past the hive cache; its elements come when the stream completes. -/
def execHsrd (p : Pred) (trig : Trig) (sa vd h : Nat) (s : State) : Host.Outcome State Fault Refusal :=
  let i : Instr := .hsrd p trig sa vd h
  runWord .cell p i s fun t => do
    armCheck i 1 trig.armed
    let v ← regOf i vd
    let hd ← useHandle h
    let o := (t.rs sa).toNat
    let a ← hsrdAccess hd o 64 64
    let l ← engineBytes hd a 64
    let b ← freeBytes l
    let m := MemTile.of hd o b
    check (m.headOk b) cCAPCHECK (w64 a)
    check (m.cap.scl == 0 && m.cap.spr == 0) cUNSUPPORTED (w64 a)
    check (decide (m.cap.f.width ≤ v.width)) cNARROW (capTval vd 0)
    check (!v.c.ro) cROWRITE (capTval vd 0)
    check (!(t.tptrap && m.cap.poison)) cPOISON (w64 a)
    let r := capture i p t
    let cells := (r.tileCells t m.cap.count 0).map fun e => (e, r.flat t e)
    checkEach (fun c => checkEach (fun (x : Piece) => do
      let _ ← hsrdAccess hd (o + m.poff + x.off) x.bytes m.cap.f.align
      pure ()) (pieces m.cap.f m.cap.planes m.cap.count c.2)) cells
    sidePort [] (t.regCols vd)
    let due := badDue hd a l
    let armed ← armTake trig.armed
    let _ ← issueJob (.hsrd vd (m.ref ⟨[], []⟩) cells) .ld (some (24 + trig.tag)) armed [] none due.toList
    modT fun u => u.writeCap vd { m.cap with discard := false, poison := m.cap.poison || due.isSome }.bits

/-- Reads the elements of an HSRD from the honey store itself. -/
def hsrdElems (r : TileRef) : List (Nat × Nat) → M (List (Nat × Nat) × Option (Nat × Word))
  | [] => pure ([], none)
  | (e, f) :: cs => do
    let m := r.tile
    let (x, due) ← enginePieces r.h (r.o + r.poff) (pieces m.cap.f m.cap.planes m.cap.count f)
    let (xs, due') ← hsrdElems r cs
    pure ((e, x) :: xs, firstDue due due')

/-- HSRD waits as a whole while a bank that holds its elements refreshes (R31, R376). -/
def State.hsrdHeld (s : State) (r : TileRef) (cells : List (Nat × Nat)) : Bool :=
  match s.refreshing with
  | none => false
  | some g =>
    let m := r.tile
    cells.any fun c => (pieces m.cap.f m.cap.planes m.cap.count c.2).any fun x => fld (r.h.addr (r.o + r.poff + x.off)) 12 4 == g

/-- The stream's elements reach the combs, and it completes. -/
def State.runHsrd (s : State) (t : Task) (j : Job) : State :=
  match j.kind with
  | .hsrd vd r cells =>
    if j.arriving then s else
    match engineRun s t (do
        let (vals, due) ← hsrdElems r cells
        modT fun u =>
          let u := { u.writeElems vd (cellSet (vals.map (·.1))) r.tile.cap.f vals with linear := true, heldSwitch := false }
          match u.vreg vd with
          | some v => if due.isSome then u.setVreg vd (some { v with cap := { v.c with poison := true }.bits }) else u
          | none => u
        pure due) with
    | .error _ => s
    | .ok (due, s) => s.finishJob { j with dues := addDues j.dues due.toList }
  | _ => s

/-! ## HSWR (R377) -/

/-- Whether some other task of the partition exists. -/
def State.otherTasks (s : State) (t : Task) : Bool := s.tasks.any fun u => u.vf == t.vf && u.id != t.id

/-- A die of the partition's stacks. -/
def Partition.ownsDie (p : Partition) (d : Nat) : Bool := decide (dieOf p.firstHive ≤ d) && decide (d ≤ dieOf (p.firstHive + p.nHives - 1))

/-- Writes honey-store bytes; a store that is ready no longer takes none (R432). -/
def State.honeyWrite (s : State) (a : Nat) (b : List Byte) : State :=
  if !s.ready.getLsbD 25 then s else
  { s with
    honey := memWriteN s.honey a b
    badHoney := s.badHoney.filter fun x => !(decide (a ≤ x) && decide (x < a + b.length))
    hiveLines := s.hiveLines.filter fun k => match k.2.key with
      | .honey n => decide (n * 128 + 128 ≤ a) || decide (a + b.length ≤ n * 128)
      | .virt .. => true }

/-- HSWR (R377): an own access of the task, complete before the next instruction; an uncorrectable source byte is raised at it,
its destination holding a free value (R200) (DEDUCED, log 62). It reads as a load of the control core does, which sees that core's queued
stores (R158) (DESIGN CHOICE, log 35). -/
def execHswr (p : Pred) (sa sb h sh sor : Nat) (s : State) : Host.Outcome State Fault Refusal :=
  let i : Instr := .hswr p sa sb h sh sor
  runFlow .whole p i s fun t => do
    check t.sup cPRIV (iword i)
    let n := (t.rs sb).toNat
    check (decide (n ≤ 2 ^ 34)) cILLFN (iword i)
    let hd ← useHandle h
    let hs ← useHandle sh
    let o := (t.rs sa).toNat
    let so := (t.rs sor).toNat
    let a := hd.addr o
    let b := hs.addr so
    checkBound hs so n
    checkBound hd o n
    honeyUsable hd o
    check (hs.space = .hbm) cPROT (w64 b)
    check (hd.space = .honey) cPROT (w64 a)
    checkPerm hs .read b
    checkPerm hd .write a
    check (a % 64 == 0 && n % 64 == 0) cALIGN (w64 a)
    let pt ← getP
    let s ← getS
    let dieOk := n = 0 || (pt.ownsDie (fld a 31 3) && pt.ownsDie (fld (a + n - 1) 31 3))
    check (dieOk && !s.otherTasks t) cHONEYWR (w64 a)
    if n = 0 then finishWord i id
    else if s.refreshing.any fun g => (List.range (n / 4096 + 2)).any fun k =>
        decide ((a / 4096 + k) * 4096 < a + n) && (a / 4096 + k) % 16 == g then
      stall
    else do
      probeAll hs .read (pageStarts b n)
      let l ← readBytes hs false false .read b n
      let bs ← freeBytes l
      let u ← getT
      modS fun s => s.honeyWrite a (u.overlay 0 hs.space b bs)
      match badDue hs b l with
      | none => finishWord i id
      | some (c, v) => modS fun s => match s.task? t.id with
        | some u => s.takeTrap u c v u.pc
        | none => s

end Sys2Proof.Machine
end

