-- ==== Sys2Proof/Machine/Matrix.lean ====
section
/-! DEFINITION. The matrix unit: OPC 0x68 to 0x6A (R335 to R359), the steps of its queue (R345), its K steps (R344), snapshots
(R349) and drains (R353). -/

namespace Sys2Proof.Machine

/-! ## Grants (R335, R338) -/

/-- The matrix unit of a task, counted over the package: four hives share one (R335). -/
def Task.unit (t : Task) : Nat := t.hive / 4

/-- The partner of the task's unit (R335). -/
def Task.partner (t : Task) : Nat := t.unit ^^^ 1

/-- Rows granted on the task's unit. -/
def Task.mxRows (t : Task) : Nat := 32 * t.mx.rows.length

/-- Rows granted on the partner. -/
def Task.mxProws (t : Task) : Nat := 32 * t.mx.prows.length

/-- The runs of 32 rows of a unit that are granted. -/
def State.runsTaken (s : State) (u : Nat) : List Nat :=
  s.tasks.flatMap fun t => (if t.unit = u then t.mx.rows else []) ++ (if t.partner = u then t.mx.prows else [])

/-- Runs of a unit that are reserved to tasks other than one and not granted (R58). -/
def State.runsReserved (s : State) (u except_ : Nat) : Nat :=
  (s.tasks.filter fun t => t.unit == u && t.mx.res && t.mx.rows.isEmpty && t.id != except_).length

/-- The runs that MXATT grants on a unit: the lowest free ones, up to a number, what is reserved to others apart (DESIGN CHOICE, log 63). -/
def State.grantRuns (s : State) (u want id : Nat) : List Nat :=
  let free := (List.range 4).filter fun r => !(s.runsTaken u).contains r
  free.take (min want (free.length - s.runsReserved u id))

/-- A tile of zeros with no format (R338). -/
def Tile.zero : Tile := { words := [], cap := Cap.blank.bits, bad := [] }

/-- A grant of rows on a unit and its partner (R338). -/
def Matrix.attach (m : Matrix) (rows prows : List Nat) : Matrix :=
  { m with
    rows := rows, prows := prows, steps := List.replicate 4 0, tiles := List.replicate 4 Tile.zero,
    ptiles := if prows.isEmpty then [] else List.replicate 4 Tile.zero, drain := List.replicate 128 (0x3F800000, 0) }

/-- MXATT (R338). -/
def execMxatt (p : Pred) (sa sb : Nat) (s : State) : Host.Outcome State Fault Refusal :=
  let i : Instr := .mxatt p sa sb
  runWord .whole p i s fun t => do
    let n := (t.rs sa).toNat
    let chain := (t.rs sb).toNat
    check (n == 32 || n == 64 || n == 96 || n == 128) cILLFN (iword i)
    check (decide (chain ≤ 1)) cILLFN (iword i)
    if t.mx.rows.isEmpty && t.mx.prows.isEmpty then do
      let s ← getS
      let rows := s.grantRuns t.unit (n / 32) t.id
      let prows := if chain = 1 then s.grantRuns t.partner (n / 32) t.id else []
      modT fun u => { u with mx := u.mx.attach rows prows }
    else pure ()

/-- MXDET (R338): waits for the queue, then releases every row. -/
def execMxdet (p : Pred) (s : State) : Host.Outcome State Fault Refusal :=
  runWord .whole p (.mxdet p) s fun t =>
    if t.mx.queue.isEmpty then modT fun u => { u with mx := { u.mx with rows := [], prows := [], tiles := [], ptiles := [] } }
    else stall

/-! ## Tiles -/

/-- A tile of the grant. -/
def Matrix.tile (m : Matrix) (k : Nat) : Tile := m.tiles.getD k Tile.zero

/-- Replaces a tile. -/
def Matrix.setTile (m : Matrix) (k : Nat) (v : Tile) : Matrix := { m with tiles := m.tiles.set k v }

/-- A tile becomes zero with no format, and its step count zero. -/
def Matrix.clearTile (m : Matrix) (k : Nat) : Matrix :=
  { m.setTile k Tile.zero with steps := m.steps.set k 0 }

/-- Replaces a tile and its step count. -/
def Matrix.putTile (m : Matrix) (k : Nat) (v : Tile) (steps : BitVec 16) : Matrix :=
  { m.setTile k v with steps := m.steps.set k steps }

/-- Replaces a tile of the task's grant and its step count. -/
def Task.putTile (t : Task) (k : Nat) (v : Tile) (steps : BitVec 16) : Task := { t with mx := t.mx.putTile k v steps }

/-- The element format of a tile. -/
def Tile.fmt (x : Tile) : Fmt := (Cap.of x.cap).f

/-- The accumulator format of R342. -/
def accFmt (fp : Bool) : Fmt := if fp then .fp fp32 else .sint 32

/-- The cap of a tile that a K step or a load leaves (R344, R350). -/
def tileCap (f : Fmt) (rows : Nat) (poison sat : Bool) : Cap :=
  { Cap.blank with fmt := f.code, rank := 1, d0 := 127, d1 := rows - 1, poison := poison, satseen := sat }

/-! ## Issue -/

/-- MX.NOGRANT (R358). -/
def needGrant (i : Instr) (t : Task) : M Unit := check (!t.mx.rows.isEmpty) cNOGRANT (iword i)

/-- An operation joins the queue (R345); counted in ocmx when it has a tag. -/
def mxEnqueue (kind : MxKind) (armed tag : Option Nat) (flags : Flags) (dues : List (Nat × Word)) : M Unit := do
  let t ← getT
  let s ← getS
  if tag.isSome && decide (65535 ≤ t.ocmx) then stall
  else
    let op : MxOp := { kind := kind, armed := armed, tag := tag, step := 0, paused := none, flags := flags, dues := dues,
                       since := s.nextJob, rows := [] }
    modT fun u => { u with
      mx := { u.mx with queue := u.mx.queue ++ [op] }, ocmx := if tag.isSome then u.ocmx + 1 else u.ocmx }

/-- MXZERO (R338): it joins the queue, uncounted. -/
def execMxzero (p : Pred) (ad : Nat) (s : State) : Host.Outcome State Fault Refusal :=
  let i : Instr := .mxzero p ad
  runWord .whole p i s fun t => do
    needGrant i t
    mxEnqueue (.zero ad) none none 0 []

/-! ## MXMAC at issue (R342, R343, R346, R347) -/

/-- An operand format that R342 has no row for, whatever the other is: FP32, BIT, NONE, or an integer wider than 8 bits. -/
def mxRefused : Fmt → Bool
  | .fp f => f = fp32
  | .none | .bit => true
  | .sint n | .uint n => decide (8 < n)
  | .bps | .bpz => false

/-- Both are E4M3 or E5M2. -/
def fp8Pair (x y : Fp) : Bool := (x == e4m3 || x == e5m2) && (y == e4m3 || y == e5m2)

/-- The depth of two operand formats (R342); nothing when they do not go together. -/
def mxDepth (a b : Fmt) : Option Nat :=
  match a, b with
  | .fp x, .fp y =>
    if x = y ∧ (x = bf16 ∨ x = fp16) then some 1
    else if fp8Pair x y then some 2
    else if x = e2m1 ∧ y = e2m1 then some 4
    else none
  | .fp _, _ => none
  | _, .fp _ => none
  | a, b => some (if a.isInt && b.isInt && decide (a.width ≤ 4) && decide (b.width ≤ 4) then 4 else 2)

/-- Two formats that do not pair: a floating-point with an integer format, or two floating-point formats in no row of R342. -/
def mxUnpaired (a b : Fmt) : Bool :=
  match a, b with
  | .none, _ | .bit, _ | _, .none | _, .bit => false
  | a, b => (mxDepth a b).isNone

/-- Whether the accumulator is FP32 (R342). -/
def mxFp (a b : Fmt) (scaled : Bool) : Bool := a.isFp || b.isFp || scaled

/-- What R342 infers from the caps of A and B: slots 1 and 2, the lower one reported where both fail (R112). `combB` says that B is in
comb registers. -/
def mxInfer (a b : Cap) (combB sat : Bool) : Inferred :=
  let fp := mxFp a.f b.f (!combB && b.scl != 0)
  { mismatch := if mxUnpaired a.f b.f then some 1 else none
    shapes := []
    unsupported :=
      if mxRefused a.f || a.zp != 0 || (sat && fp && !mxRefused b.f) then some 1
      else if mxRefused b.f || (combB && b.zp != 0) then some 2
      else none
    fmt := accFmt fp }

/-- The checks of the further registers of an operand: their caps, and that FMT and PLANES are those of the first (R347,
step 4). -/
def depthOperands (i : Instr) (slot r0 d : Nat) : M (List (Nat × Operand)) := do
  check (decide (r0 + d ≤ 32)) cILLFN (iword i)
  let t ← getT
  match (List.range (d - 1)).mapM (fun k => (t.vreg (r0 + 1 + k)).map fun v => (r0 + 1 + k, v.operand slot (r0 + 1 + k))) with
  | some l => pure l
  | none => trap cILLFN (iword i)

/-- A cap check over further registers, in ascending slot and register order. -/
def checkDepth (cause : Nat) (l : List (Nat × Operand)) (ok : Operand → Bool) : M Unit :=
  match l.find? fun x => !ok x.2 with
  | some (r, o) => trap cause (capTval r o.slot)
  | none => pure ()

/-- The cap checks of R112 on the depth registers. -/
def depthChecks (l : List (Nat × Operand)) (first : Nat → Cap) : M Unit := do
  let t ← getT
  checkDepth cCAPCHECK l fun o => capPasses o.bits
  checkDepth cDISCARD l fun o => !o.cap.discard
  checkDepth cMISMATCH l fun o => o.cap.fmt == (first o.slot).fmt && o.cap.planes == (first o.slot).planes
  checkDepth cUNSUPPORTED l fun o => o.cap.zp == 0
  checkDepth cPOISON l fun o => !(t.tptrap && o.cap.poison)

/-- Every byte of a range lies in the honey store of the task's die (R343). -/
def onOwnDie (h : Handle) (o n : Nat) : M Unit := do
  let t ← getT
  let a := h.addr o
  let off := decide (a / 2 ^ 31 ≠ dieOf t.hive) || decide ((a + max n 1 - 1) / 2 ^ 31 ≠ dieOf t.hive)
  check (!off) cPROT (w64 a)

/-- The access checks of a range of a honey-store operand tile, the die's included. -/
def honeyAccess (h : Handle) (o n al : Nat) : M Nat := do
  checkBound h o n
  check (h.space = .honey) cPROT (w64 (h.addr o))
  let a ← checkAccess h o n .read al
  onOwnDie h o n
  pure a

/-- The access checks of an element's container and scale in a honey-store operand tile. -/
def honeyElem (m : MemTile) (md : TileMeta) (f : Nat) : M Unit := do
  match m.pieces md f with
  | none => pure ()
  | some ps => checkEach (fun x => do let _ ← honeyAccess m.h (m.o + m.poff + x.off) x.bytes m.cap.f.align; pure ()) ps
  if m.cap.scl = 0 then pure ()
  else do
    let _ ← honeyAccess m.h (m.o + m.soff + m.cap.scaleIndex f * m.cap.scaleSize) m.cap.scaleSize 1
    pure ()

/-- MXMAC with B in comb registers, issued (R347). MXFMT looks at the format that the tile has now (DEDUCED, log 16). -/
def mxmacComb (i : Instr) (p : Pred) (rm : Rm) (sat : Bool) (trig : Trig) (ad va vb sa m n kcnt : Nat) (t : Task) : M Unit := do
  let armed ← armTrigger i 2 trig.armed
  let koff := (t.rs sa).toNat
  check (decide (koff < 65536)) cILLFN (iword i)
  let a ← regOf i va
  let b ← regOf i vb
  needGrant i t
  let inf := mxInfer a.c b.c true sat
  capChecks 0 [a.operand 1 va, b.operand 2 vb] inf none
  let d := (mxDepth a.c.f b.c.f).getD 1
  let la ← depthOperands i 1 va d
  let lb ← depthOperands i 2 vb d
  depthChecks (la ++ lb) (fun k => if k = 1 then a.c else b.c)
  check (decide (m ≤ t.mxRows) && decide (koff + kcnt ≤ 16 * t.combs)) cKRANGE (iword i)
  let f := (t.mx.tile ad).fmt
  check (f = .none || f = inf.fmt) cMXFMT (iword i)
  modT fun u => { u with linear := true, heldSwitch := false }
  mxEnqueue
    (.mac { t := ad, va := va, capsA := a.cap :: la.map (·.2.bits), b := .comb vb (b.cap :: lb.map (·.2.bits)), rm := rm,
            sat := sat, m := m, n := n, koff := koff, kcnt := kcnt, d := d, fp := inf.fmt.isFp, active := activeCells p t,
            vl := t.vl })
    armed (some trig.tag) 0 []

/-- MXMAC with B in the honey store, issued (R343, R347), in the order of R275. MXFMT looks at the format that the tile has now (DEDUCED,
log 16). -/
def mxmacHoney (i : Instr) (p : Pred) (rm : Rm) (sat : Bool) (trig : Trig) (ad va h sb sa m n kcnt : Nat) (t : Task) :
    M Unit := do
  let armed ← armTrigger i 2 trig.armed
  let koff := (t.rs sa).toNat
  check (decide (koff < 65536)) cILLFN (iword i)
  let a ← regOf i va
  needGrant i t
  let hd ← useHandle h
  let o := (t.rs sb).toNat
  let pre ← honeyAccess hd o 64 64
  let l ← readTileBytes hd pre 64
  let b ← freeBytes l
  let mt := MemTile.of hd o b
  let due := badDue hd pre l
  check (mt.headOk b) cCAPCHECK (w64 pre)
  raiseCap cCAPCHECK (fun _ => va) (if capPasses a.cap then none else some 1)
  raiseCap cDISCARD (fun _ => va) (if a.c.discard then some 1 else none)
  let inf := mxInfer a.c mt.cap false sat
  let tv (k : Nat) : Word := if k = 1 then capTval va 1 else w64 pre
  check inf.mismatch.isNone cMISMATCH (tv (inf.mismatch.getD 1))
  check (mt.cap.rank == 1) cSHAPE (w64 pre)
  check inf.unsupported.isNone cUNSUPPORTED (tv (inf.unsupported.getD 1))
  check (mt.cap.spr == 0 || mt.cap.spr == 2 || mt.cap.spr == 3) cUNSUPPORTED (w64 pre)
  check (mt.cap.zp == 0 || mt.cap.scl != 0) cUNSUPPORTED (w64 pre)
  check (!(t.tptrap && a.c.poison)) cPOISON (capTval va 1)
  check (!(t.tptrap && mt.cap.poison)) cPOISON (w64 pre)
  if mt.cap.spr ≠ 0 then do
    let _ ← honeyAccess hd (o + mt.moff) mt.cap.metaSize 1
    pure ()
  let (md, due') ← readMeta mt pre
  checkEach (honeyElem mt md) (List.range mt.cap.count)
  if mt.plen ≠ 0 then onOwnDie hd (o + mt.poff) mt.plen
  let d := (mxDepth a.c.f mt.cap.f).getD 1
  let la ← depthOperands i 1 va d
  depthChecks la (fun _ => a.c)
  check (decide (m ≤ t.mxRows) && decide (d * (koff + kcnt) ≤ mt.cap.ext 0) && decide (n ≤ mt.cap.ext 1) &&
    decide (koff + kcnt ≤ 16 * t.combs)) cKRANGE (iword i)
  let f := (t.mx.tile ad).fmt
  check (f = .none || f = inf.fmt) cMXFMT (iword i)
  modT fun u => { u with linear := true, heldSwitch := false }
  mxEnqueue
    (.mac { t := ad, va := va, capsA := a.cap :: la.map (·.2.bits), b := .honey (mt.ref md), rm := rm, sat := sat, m := m, n := n,
            koff := koff, kcnt := kcnt, d := d, fp := inf.fmt.isFp, active := activeCells p t, vl := t.vl })
    armed (some trig.tag) 0 (addDues due.toList due'.toList)

/-- MXMAC (R346 to R348). -/
def execMxmac (p : Pred) (rm : Rm) (sat : Bool) (trig : Trig) (ad va : Nat) (b : BSrc) (sa mm1 nm1 km1 : Nat) (s : State) :
    Host.Outcome State Fault Refusal :=
  let i : Instr := .mxmac p rm sat trig ad va b sa mm1 nm1 km1
  runWord .cell p i s fun t =>
    match b with
    | .comb vb => mxmacComb i p rm sat trig ad va vb sa (mm1 + 1) (nm1 + 1) (km1 + 1) t
    | .honey h sb => mxmacHoney i p rm sat trig ad va h sb sa (mm1 + 1) (nm1 + 1) (km1 + 1) t

/-! ## MXLD, MXRD, MXSCL, MXDRAIN at issue -/

/-- MXLD (R350). -/
def execMxld (p : Pred) (trig : Trig) (ad sa h : Nat) (s : State) : Host.Outcome State Fault Refusal :=
  let i : Instr := .mxld p trig ad sa h
  runWord .whole p i s fun t => do
    let armed ← armTrigger i 2 trig.armed
    needGrant i t
    let hd ← useHandle h
    let o := (t.rs sa).toNat
    let (m, b, a, due) ← readPreamble hd o
    check (m.headOk b) cCAPCHECK (w64 a)
    check ((m.cap.f = .fp fp32 || m.cap.f = .sint 32) && m.cap.scl == 0 && m.cap.spr == 0) cMXFMT (iword i)
    check (decide (m.cap.rank ≤ 1) && decide (m.cap.ext 0 ≤ 128) && decide (m.cap.ext 1 ≤ t.mxRows)) cKRANGE (iword i)
    check (!(t.tptrap && m.cap.poison)) cPOISON (w64 a)
    let _ ← checkStatic hd (o + m.poff) (4 * m.cap.count) .read 4
    mxEnqueue (.ld ad (m.ref ⟨[], []⟩)) armed (some trig.tag) 0 due.toList

/-- Check 6 of R134 for a tile written at address `a`: the existing preamble there, where its page is mapped, forbids the store (R111). -/
def targetRo (h : Handle) (a : Nat) : M Unit := do
  match ← attempt (readBytes h false false .look a 64) with
  | .error _ => pure ()
  | .ok l => do
    let b ← freeBytes l
    let old := MemTile.of h a b
    check (!(capPasses old.bits && old.cap.ro)) cROWRITE (w64 a)

/-- Check 8 of R134 on the pages of a range that are mapped: their leaf allows the access. An unmapped page pauses the operation later. -/
def checkLeaves (h : Handle) (acc : Acc) : List Nat → M Unit
  | [] => pure ()
  | a :: r => do
    match ← attempt (probe h acc (a % 2 ^ 56)) with
    | .error (.trap c v) => trap c v
    | _ => pure ()
    checkLeaves h acc r

/-- MXRD (R349), its areas checked in the order of R134; MXFMT looks at the format that the tile has now (DEDUCED, log 16). -/
def execMxrd (p : Pred) (trig : Trig) (ad sa sb h : Nat) (s : State) : Host.Outcome State Fault Refusal :=
  let i : Instr := .mxrd p trig ad sa sb h
  runWord .whole p i s fun t => do
    let armed ← armTrigger i 2 trig.armed
    needGrant i t
    check ((t.mx.tile ad).fmt ≠ .none) cMXFMT (iword i)
    let hd ← useHandle h
    let o := (t.rs sa).toNat
    let o2 := (t.rs sb).toNat
    let a ← checkStatic hd o (64 + 512 * t.mxRows) .write 64
    targetRo hd a
    checkLeaves hd .write (pageStarts a (64 + 512 * t.mxRows))
    let a2 ← checkStatic hd o2 8 .write 8
    checkLeaves hd .write [a2]
    mxEnqueue (.rd ad hd o o2) armed (some trig.tag) 0 []

/-- MXSCL (R351). -/
def execMxscl (p : Pred) (trig : Trig) (sa h : Nat) (s : State) : Host.Outcome State Fault Refusal :=
  let i : Instr := .mxscl p trig sa h
  runWord .whole p i s fun t => do
    let armed ← armTrigger i 2 trig.armed
    needGrant i t
    let hd ← useHandle h
    let o := (t.rs sa).toNat
    let _ ← checkStatic hd o 1024 .read 64
    mxEnqueue (.scl hd o) armed (some trig.tag) 0 []

/-- A target format of MXDRAIN (R352). -/
def drainTarget : Fmt → Bool
  | .sint n | .uint n => decide (n ≤ 32)
  | .fp _ => true
  | _ => false

/-- A row term of MXDRAIN (R353). -/
def rowTermOk (c : Cap) : Bool :=
  c.zp == 0 && (match c.f with
    | .sint n => decide (n ≤ 32)
    | .uint n => decide (n ≤ 31)
    | .fp f => f = fp32
    | _ => false)

/-- MXDRAIN (R352, R353). MXFMT looks at the format that the tile has now (DEDUCED, log 16). -/
def execMxdrain (p : Pred) (rm : Rm) (trig : Trig) (va ad vb sa mm1 nm1 : Nat) (tfmt ozp : BitVec 8) (usep rowt dclr : Bool)
    (s : State) : Host.Outcome State Fault Refusal :=
  let i : Instr := .mxdrain p rm trig va ad vb sa mm1 nm1 tfmt ozp usep rowt dclr
  runWord .cell p i s fun t => do
    let armed ← armTrigger i 2 trig.armed
    let v ← regOf i va
    let row ← if rowt then (do let r ← regOf i vb; pure (some r)) else pure none
    needGrant i t
    let m := mm1 + 1
    let n := nm1 + 1
    let e0 := (t.rs sa).toNat
    check (decide (m ≤ t.mxRows) && decide (e0 + nm1 + n * mm1 < t.vlmax)) cKRANGE (iword i)
    let f := (Fmt.of tfmt.toNat).getD .none
    check ((t.mx.tile ad).fmt ≠ .none && drainTarget f) cMXFMT (iword i)
    let tc := (t.mx.tile ad).cap
    let srcs : List Operand := ⟨1, ad, Cap.of tc, tc⟩ :: (match row with | some r => [r.operand 2 vb] | none => [])
    capChecks va srcs
      { mismatch := none, shapes := [], unsupported := (match row with | some r => if rowTermOk r.c then none else some 2 | none => none),
        fmt := f } (some (v, f.width))
    modT fun u => { u with linear := true, heldSwitch := false }
    mxEnqueue
      (.drain { t := ad, va := va, rm := rm, row := row.map fun r => (vb, r.cap), e0 := e0, m := m, n := n, tfmt := tfmt, ozp := ozp,
                usep := usep, dclr := dclr, active := activeCells p t })
      armed (some trig.tag) 0 []

/-! ## The K step (R339, R344) -/

/-- The cell that holds slot `q` of step `k` in a VLC of `n` combs (R339). -/
def slotCell (n q k : Nat) : Nat := 4096 * (q % n) + q / n + 256 / n * k

/-- A comb operand at a cell: zero at or above vl, or where the cell is inactive (R339). -/
def macCell (t : Task) (o : MacOp) (r : Nat) (cap : BitVec 128) (cell : Nat) : Val :=
  let c := Cap.of cap
  if decide (cell < o.vl) && bitOf o.active cell then c.f.val c.planes (t.elem (t.reg! r).base c cell) else .fin false 0 0 false

/-- A comb operand's values of a slot in a step, one for each of its registers. -/
def macSlot (t : Task) (o : MacOp) (r : Nat) (caps : List (BitVec 128)) (q k : Nat) : List Val :=
  caps.zipIdx.map fun c => macCell t o (r + c.2) c.1 (slotCell t.combs q k)

/-- The sum of products of a step (R344). -/
def dotVal (rm : Rm) : List (Val × Val) → Val
  | [] => .fin false 0 0 false
  | [(x, y)] => x.mul y
  | (x, y) :: r => (x.mul y).add rm (dotVal rm r)

/-- A value as an exact integer, when it is one. -/
def Val.asInt : Val → Int
  | .fin neg m e _ => scaledTo neg m e 0
  | _ => 0

/-- One accumulator word after a step: its bits, flags, and whether it clamped (R344). -/
def accStep (fp sat : Bool) (rm : Rm) (old : BitVec 32) (p : Val) : BitVec 32 × Flags × Bool :=
  if fp then
    let (b, fl) := fp32.round rm ((fp32.val old.toNat).add rm p)
    (BitVec.ofNat 32 b, fl, false)
  else
    let (b, out) := (Fmt.sint 32).narrow sat (old.toInt + p.asInt)
    (BitVec.ofNat 32 b, 0, out)

/-- What a step gathers: the words, flags, clamps, and the count of free values drawn. -/
structure AccRun where
  words : List (Nat × BitVec 32)
  flags : Flags
  clamped : Bool
  fresh : Nat
deriving DecidableEq, Repr

/-- Updates element (i, j); a word that fails SECDED leaves a free value (R356). -/
def accElem (fp sat : Bool) (rm : Rm) (bad : List Nat) (p : Val) (k : Nat) (a : AccRun) : AccRun :=
  let (w, fl, cl) := accStep fp sat rm (wordAt a.words k) p
  if bad.contains k then
    { words := setWordAt a.words k ((Config.freeWord a.fresh).setWidth 32), flags := a.flags ||| fl, clamped := a.clamped || cl,
      fresh := a.fresh + 1 }
  else { a with words := setWordAt a.words k w, flags := a.flags ||| fl, clamped := a.clamped || cl }

/-- The words of a tile below row `m` and column `n` that fail SECDED, in ascending row and column. -/
def Tile.badIn (x : Tile) (m n : Nat) : List Nat := sortNats (x.bad.filter fun k => decide (k / 128 < m) && decide (k % 128 < n))

/-- The value of R356 that names a word of tile `t`. -/
def accTval (t k : Nat) : Word := w64 (65536 * t + 256 * (k / 128) + k % 128)

/-- MX.ACCECC for the first failing word (R356). -/
def accDue (t : Nat) : List Nat → Option (Nat × Word)
  | [] => none
  | k :: _ => some (cACCECC, accTval t k)

/-- B's values of column `j` in a step from a honey-store tile (R343); what the reads bring. -/
def honeyColumn (r : TileRef) (d k j : Nat) : Nat → M (List Val × Flags × Option (Nat × Word))
  | 0 => pure ([], 0, none)
  | n + 1 => do
    let t := d - (n + 1)
    let (v, fl, due) ← r.elemVal (d * k + t + (Cap.of r.cap).ext 0 * j)
    let (vs, fl', due') ← honeyColumn r d k j n
    pure (v :: vs, fl ||| fl', firstDue due due')

/-- B's values of every column of a step. -/
def honeyColumns (r : TileRef) (d k : Nat) : List Nat → M (List (List Val) × Flags × Option (Nat × Word))
  | [] => pure ([], 0, none)
  | j :: js => do
    let (v, fl, due) ← honeyColumn r d k j d
    let (vs, fl', due') ← honeyColumns r d k js
    pure (v :: vs, fl ||| fl', firstDue due due')

/-- The columns of the combs that an operation's step reads. -/
def MacOp.cols (o : MacOp) (t : Task) : List Nat := MxKind.readsCols t (.mac o)

/-- The words of a tile that an operation reads, below row `m` and column `n`: those with one wrong bit are corrected, and logged in the
error log (R356). -/
def correctWords (k m n : Nat) : M Unit := do
  let t ← getT
  let x := t.mx.tile k
  let l := sortNats (x.weak.filter fun w => decide (w / 128 < m) && decide (w % 128 < n))
  setT (t.putTile k { x with weak := x.weak.filter fun w => !l.contains w } (t.mx.steps.getD k 0))
  modS fun s => l.foldl (fun s w => s.logError cACCECC (accTval k w)) s

/-- One K step of an MXMAC on the task's tile (R344): the operation as it then stands. A failing byte of B poisons the tile, be it of an
element, of a scale, or, as the operation's dues tell, of the preamble or metadata read at issue (R200). -/
def macStep (op : MxOp) (o : MacOp) : M MxOp := do
  modT fun t => t.sideParity (o.cols t)
  correctWords o.t o.m o.n
  let t ← getT
  let k := o.koff + op.step
  let (bs, fl, due) ← match o.b with
    | .comb vb caps => pure ((List.range o.n).map fun j => macSlot t o vb caps (128 + j) k, (0 : Flags), (none : Option (Nat × Word)))
    | .honey r => honeyColumns r o.d k (List.range o.n)
  let t ← getT
  let x := t.mx.tile o.t
  let bad := x.badIn o.m o.n
  let s ← getS
  let run := (List.range o.m).foldl (fun a i =>
    let va := macSlot t o o.va o.capsA i k
    bs.zipIdx.foldl (fun a b => accElem o.fp o.sat o.rm bad (dotVal o.rm (va.zip b.1)) (b.2 + 128 * i) a) a)
    { words := x.words, flags := fl, clamped := false, fresh := s.fresh }
  setS { s with fresh := run.fresh }
  let caps := o.capsA ++ (match o.b with | .comb _ cs => cs | .honey r => [r.cap])
  let old := Cap.of x.cap
  let cap := tileCap (accFmt o.fp) t.mxRows
    (old.poison || caps.any (fun c => (Cap.of c).poison) || due.isSome || !op.dues.isEmpty || !bad.isEmpty)
    (old.satseen || caps.any (fun c => (Cap.of c).satseen) || run.clamped)
  let v : Tile := { words := run.words, cap := cap.bits, bad := x.bad.filter fun w => !bad.contains w, weak := x.weak }
  modT fun u => u.putTile o.t v (u.mx.steps.getD o.t 0 + 1)
  pure { op with step := op.step + 1, flags := op.flags ||| run.flags, dues := addDues op.dues (due.toList ++ (accDue o.t bad).toList) }

/-! ## The other operations of the queue -/

/-- Reads word `f` of a memory tile for MXLD, a failing one as zero. -/
def ldWord (r : TileRef) (f : Nat) : M (BitVec 32 × Option (Nat × Word)) := do
  let a := r.h.addr (r.o + r.poff + 4 * f)
  let l ← engineBytes r.h a 4
  let due := badDue r.h a l
  pure (if due.isSome then 0 else BitVec.ofNat 32 (leNat (bytesOf l)), due)

/-- MXLD at its place in the queue (R350): word `j` of row `i`, from the element on at which it was paused (R357); what it has read till
then stands in `snap`. -/
def ldOp (op : MxOp) (k : Nat) (r : TileRef) : M (MxOp × Option Stop) := do
  let c := Cap.of r.cap
  let e0 := c.ext 0
  let (got, stopped) ← untilFails (ldWord r) ((List.range c.count).drop op.elem)
  let w := got.foldl (fun w x => setWordAt w (x.1 % e0 + 128 * (x.1 / e0)) x.2.1) ((op.snap.map fun x => x.1.words).getD [])
  let dues := addDues op.dues (got.filterMap fun x => x.2.2)
  match stopped with
  | some (f, x) => pure ({ op with elem := f, snap := some ({ words := w, cap := 0, bad := [] }, 0), dues := dues }, some x)
  | none => do
    let cap (rows : Nat) : Cap := tileCap c.f rows (c.poison || !dues.isEmpty) c.satseen
    modT fun u => u.putTile k { words := w, cap := (cap u.mxRows).bits, bad := [] } 0
    pure ({ op with dues := dues }, none)

/-- Reads entry `j` of the drain parameters (R351): MUL and OFF, failing words as zero. -/
def sclEntry (h : Handle) (o j : Nat) : M ((BitVec 32 × BitVec 32) × Option (Nat × Word)) := do
  let a := h.addr (o + 8 * j)
  let l ← engineBytes h a 8
  let w (k : Nat) : BitVec 32 :=
    if anyBad ((l.drop k).take 4) then 0 else BitVec.ofNat 32 (leNat (bytesOf ((l.drop k).take 4)))
  pure ((w 0, w 4), badDue h a l)

/-- MXSCL at its place in the queue, from the entry on at which it was paused (R351, R357). -/
def sclOp (op : MxOp) (h : Handle) (o : Nat) : M (MxOp × Option Stop) := do
  let (got, stopped) ← untilFails (sclEntry h o) ((List.range 128).drop op.elem)
  modT fun u => { u with mx := { u.mx with drain := got.foldl (fun d x => d.set x.1 x.2.1) u.mx.drain } }
  let op := { op with dues := addDues op.dues (got.filterMap fun x => x.2.2) }
  match stopped with
  | some (j, x) => pure ({ op with elem := j }, some x)
  | none => pure (op, none)

/-- The bytes that MXRD writes, in pieces with their offsets: the preamble, the words, the step word (R349). -/
def rdPieces (x : Tile) (steps : BitVec 16) (rows k o o2 : Nat) : List (Nat × List Byte) :=
  (o, preambleBytes (Cap.of x.cap) 64 0 0 (512 * rows)) ::
    ((List.range (128 * rows)).map fun f => (o + 64 + 4 * f, leBytes 4 (wordAt x.words f).toNat)) ++
    [(o2, leBytes 8 (steps.toNat + 2 ^ 16 * k))]

/-- Writes pieces until one cannot be written: the number written, and the failure. -/
def rdWrite (h : Handle) : List (Nat × List Byte) → M (Nat × Option Stop)
  | [] => pure (0, none)
  | (o, b) :: r => do
    match ← attempt (asAcc .write (writeBytes h true false .write (h.addr o) b)) with
    | .error e => pure (0, some e)
    | .ok _ =>
      let (n, e) ← rdWrite h r
      pure (n + 1, e)

/-- A failing word of a tile that an operation reads takes a free value, and the tile is poisoned (R356). -/
def freeWords (k : Nat) : List Nat → M Unit
  | [] => pure ()
  | b :: bs => do
    let w ← freshWord
    modT fun u =>
      let x := u.mx.tile k
      u.putTile k { x with words := setWordAt x.words b (w.setWidth 32), cap := { Cap.of x.cap with poison := true }.bits,
                           bad := x.bad.filter (· != b) } (u.mx.steps.getD k 0)
    freeWords k bs

/-- MXRD takes its snapshot (R349): once, with the words that fail SECDED free (R356). -/
def rdSnap (op : MxOp) (k : Nat) : M MxOp := do
  if op.snap.isSome then pure op
  else
    let t ← getT
    correctWords k t.mxRows 128
    let bad := (t.mx.tile k).badIn t.mxRows 128
    freeWords k bad
    let t ← getT
    pure { op with snap := some (t.mx.tile k, t.mx.steps.getD k 0), dues := addDues op.dues (accDue k bad).toList }

/-- MXRD writes its snapshot; it goes on at the piece where it was paused (R349, R357). -/
def rdOp (op : MxOp) (k : Nat) (h : Handle) (o o2 : Nat) : M (MxOp × Option Stop) := do
  let op ← rdSnap op k
  let t ← getT
  sideWrite h
  let x := op.snap.getD (Tile.zero, 0)
  let (n, e) ← rdWrite h ((rdPieces x.1 x.2 t.mxRows k o o2).drop (op.step - 1))
  pure ({ op with step := max op.step 1 + n }, e)

/-- The value that MXDRAIN converts (R353): the accumulator word, OFF, the row term and MUL. -/
def drainVal (fp usep : Bool) (rm : Rm) (w : BitVec 32) (par : BitVec 32 × BitVec 32) (row : Option Val) : Val :=
  let x := if fp then fp32.val w.toNat else .ofInt w.toInt
  let x := if usep then x.add rm (.ofInt par.2.toInt) else x
  let x := match row with | some r => x.add rm r | none => x
  if usep then x.mul (fp32.val par.1.toNat) else x

/-- The conversion of MXDRAIN (R353): bits, flags, clamp. A finite value that clamps sets no flag (DEDUCED, log 68). -/
def drainConvert (f : Fmt) (ozp : Int) (rm : Rm) (x : Val) : Nat × Flags × Bool :=
  match f with
  | .fp g => let (b, fl) := g.round rm x; (b, fl, false)
  | f =>
    match x with
    | .nan _ => (ofInt f.width ozp, NV, false)
    | .inf neg => (ofInt f.width (if neg then f.lo else f.hi), NV, true)
    | x =>
      let (z, inexact) := x.toInt rm
      let (b, out) := f.clamp (z + ozp)
      (b, if inexact && !out then NX else 0, out)

/-- MXDRAIN at its place in the queue (R353). -/
def drainOp (op : MxOp) (d : DrainOp) : M MxOp := do
  correctWords d.t d.m d.n
  let t ← getT
  let bad := (t.mx.tile d.t).badIn d.m d.n
  freeWords d.t bad
  modT fun u => match d.row with | some (vb, _) => u.sideParity (u.regCols vb) | none => u
  let t ← getT
  let x := t.mx.tile d.t
  let xc := Cap.of x.cap
  let fp := x.fmt.isFp
  let f := (Fmt.of d.tfmt.toNat).getD .none
  let oz : Int := match f with | .sint _ => toSigned 8 d.ozp.toNat | _ => d.ozp.toNat
  let cells := (List.range d.m).flatMap fun i => (List.range d.n).map fun j => (i, j)
  let res := (cells.filter fun c => bitOf d.active (d.e0 + c.2 + d.n * c.1)).map fun c =>
    let row := d.row.map fun r => (Cap.of r.2).f.val 0 (t.elem (t.reg! r.1).base (Cap.of r.2) c.1)
    (d.e0 + c.2 + d.n * c.1,
      drainConvert f oz d.rm (drainVal fp d.usep d.rm (wordAt x.words (c.2 + 128 * c.1)) (t.mx.drain.getD c.2 (0x3F800000, 0)) row))
  let rowPoison := match d.row with | some (_, c) => (Cap.of c).poison | none => false
  let cap : Cap := { Cap.blank with
    fmt := d.tfmt.toNat, zp := if f.isInt then d.ozp.toNat else 0, rank := 1, d0 := d.n - 1, d1 := d.m - 1,
    poison := xc.poison || rowPoison, satseen := xc.satseen || res.any (·.2.2.2) }
  let vals := res.map fun r => (r.1, r.2.1)
  modT fun u => (u.writeElems d.va (cellSet (vals.map (·.1))) f vals).writeCap d.va cap.bits
  if d.dclr then modT fun u => { u with mx := u.mx.clearTile d.t }
  pure { op with flags := op.flags ||| res.foldl (fun a r => a ||| r.2.2.1) 0, dues := addDues op.dues (accDue d.t bad).toList }

end Sys2Proof.Machine
end

