-- ==== Sys2Proof/Machine/Pool.lean ====
section
/-! DEFINITION. KV pools: header (R384, R386), inverted block table (R387), hash table and overflow list (R389), free list
(R390), descriptors (R391), resolving (R393). Every read and write here is made at the update point, at SYS scope (R394). -/

namespace Sys2Proof.Machine

/-! ## Reading and writing at the update point -/

/-- "None" where a block number stands. -/
def noBlock : Nat := 0xFFFFFFFF

/-- Reads bytes of a pool; of one in the honey store when no refresh holds their bank (R31). -/
def poolBytes (h : Handle) (off n : Nat) : M (List Byte) := do
  let a ← checkAccess h off n .read 1
  if h.space = .comblin then sidePort (combByteCols a n) []
  awaitBank h a n
  let l ← readBytes h true true .read a n
  raiseBad h a l
  pure (bytesOf l)

/-- Reads a number of a pool. -/
def poolNat (h : Handle) (off n : Nat) : M Nat := do
  let b ← poolBytes h off n
  pure (leNat b)

/-- Writes bytes of a pool. -/
def poolPutBytes (h : Handle) (off : Nat) (b : List Byte) : M Unit := do
  let a ← checkAccess h off b.length .write 1
  if h.space = .comblin then sidePort [] (combByteCols a b.length)
  writeBytes h true true .write a b

/-- Writes a number of a pool. -/
def poolPut (h : Handle) (off n v : Nat) : M Unit := poolPutBytes h off (leBytes n v)

/-! ## The header (R384, R386) -/

/-- Positions of a block. -/
def KvPool.p (k : KvPool) : Nat := 2 ^ k.lp

/-- Bytes from one block to the next. -/
def KvPool.stride (k : KvPool) : Nat := 64 + k.p * k.tokb

/-- Offset of block `b`. -/
def KvPool.blockOff (k : KvPool) (b : Nat) : Nat := k.datao + b * k.stride

/-- Offset of token `j` of block `b` (R386). -/
def KvPool.tokenOff (k : KvPool) (b j : Nat) : Nat := k.blockOff b + 64 + j * k.tokb

/-- The fields of a header. -/
def KvPool.of (h : Handle) (b : List Byte) : KvPool :=
  let g (i n : Nat) := leNat ((b.drop i).take n)
  { h := h, addr := h.addr 0, lp := g 2 1, phnd := g 3 1, nblk := g 4 4, tokb := g 8 4, lbk := g 12 1, lpb := g 13 1, ldir := g 14 1,
    ibto := g 16 8, bkto := g 24 8, datao := g 32 8, pfxo := g 40 8, diro := g 48 8, bcap := BitVec.ofNat 128 (g 64 16) }

/-- The rules of R384's table. -/
def KvPool.headerOk (k : KvPool) (b : List Byte) : Bool :=
  let g (i : Nat) := leNat ((b.drop i).take 4)
  leNat (b.take 2) == 0x0100 && decide (4 ≤ k.lp) && decide (k.lp ≤ 7) && decide (1 ≤ k.nblk) && decide (k.nblk ≤ 2 ^ 24) &&
    k.tokb % 64 == 0 && decide (3 ≤ k.lbk) && decide (k.lbk ≤ 24) && decide (k.lpb ≤ 20) &&
    (k.ldir == 0 || (decide (3 ≤ k.ldir) && decide (k.ldir ≤ 24))) && b.getD 15 0 == 0 &&
    k.ibto % 64 == 0 && k.bkto % 64 == 0 && k.datao % 64 == 0 && (k.lpb != 0 || k.pfxo == 0) && (k.ldir != 0 || k.diro == 0) &&
    (decide (g 56 < k.nblk) || g 56 == noBlock) && (decide (g 80 < k.nblk) || g 80 == noBlock) && decide (g 84 < k.nblk) &&
    (b.drop 88).all (· == 0) && decide (2 ^ 14 ≤ k.stride) && decide (k.stride ≤ 2 ^ 21) && k.addr % 256 == 0

/-- BCAP passes the checks that raise CAP.CHECK (R386). -/
def bcapOk (bits : BitVec 128) : Bool :=
  let c := Cap.of bits
  capPasses bits && c.rank == 2 && c.scl == 0 && c.spr == 0 && !mxRefused c.f && (mxDepth c.f c.f).isSome

/-- BCAP has the shape of R386. -/
def KvPool.shapeOk (k : KvPool) : Bool :=
  let c := Cap.of k.bcap
  decide (c.ext 0 ≤ 128) && c.ext 1 % 2 == 0 && c.ext 2 == k.p && c.f.container * c.ext 0 * c.ext 1 == 8 * k.tokb

/-- The checks of R134 on a structure of 256 bytes: read, and written when `write` holds. -/
def structAccess (h : Handle) (off : Nat) (write : Bool) : M Unit := do
  let _ ← checkAccess h off 256 .read 1
  if write then do
    let _ ← checkAccess h off 256 .write 1
    pure ()

/-- Metadata that an instruction's operands name: its offset, its length and the access made. -/
structure MetaRange where
  off : Nat
  n : Nat
  acc : Acc
deriving DecidableEq, Repr

/-- Steps 1 and 2 of R397: the accesses to header, descriptors and the metadata that operands name, then the header (DEDUCED, log
42). The header is read; `write` says that the descriptors are written whatever the instruction finds. A write that depends on what is
found is checked where it is made. -/
def openPool (hn : Nat) (descs : List Nat) (write : Bool) (metas : List MetaRange := []) : M KvPool := do
  let h ← useHandle hn
  structAccess h 0 false
  checkEach (fun d => structAccess h d write) descs
  checkEach (fun (m : MetaRange) => do let _ ← checkAccess h m.off m.n m.acc 1; pure ()) metas
  let b ← poolBytes h 0 256
  let k := KvPool.of h b
  check (k.headerOk b) cKVSEQ (w64 k.addr)
  check (bcapOk k.bcap) cCAPCHECK (w64 (h.addr 64))
  check k.shapeOk cSHAPE (w64 (h.addr 64))
  pure k

/-! ## Descriptors (R391) -/

/-- A retire record. -/
structure Retire where
  lo : Nat
  hi : Nat
  ntok : Nat
  tag : Nat
  mode : Nat
  bias : Nat
deriving DecidableEq, Repr

/-- A sequence descriptor. -/
structure Desc where
  sqid : Nat
  ctag : Nat
  live : Bool
  beam : Bool
  busy : Bool
  isSealed : Bool
  len : Nat
  pbias : Nat
  nlb : Nat
  nlive : Nat
  pend : Nat
  nret : Nat
  bmap : Nat
  brow : Nat
  bmaxl : Nat
  pfxq : Nat
  pfxn : Nat
  rets : List Retire
deriving DecidableEq, Repr

/-- The retire record that 24 bytes hold. -/
def Retire.of (b : List Byte) : Retire :=
  let g (i n : Nat) := leNat ((b.drop i).take n)
  ⟨g 0 4, g 4 4, g 8 4, g 12 1, g 13 1, g 16 4⟩

/-- The bytes of a record. -/
def Retire.bytes (r : Retire) : List Byte :=
  leBytes 4 r.lo ++ leBytes 4 r.hi ++ leBytes 4 r.ntok ++ leBytes 1 r.tag ++ leBytes 1 r.mode ++ leBytes 2 0 ++ leBytes 4 r.bias ++ leBytes 4 0

/-- The bytes of record `k`. -/
def retireBytes (b : List Byte) (k : Nat) : List Byte := (b.drop (64 + 24 * k)).take 24

/-- The fields that 256 bytes hold. -/
def Desc.of (b : List Byte) : Desc :=
  let g (i n : Nat) := leNat ((b.drop i).take n)
  { sqid := g 0 4, ctag := fld (g 6 1) 0 4, live := bitOf (g 7 1) 0, beam := bitOf (g 7 1) 1, busy := bitOf (g 7 1) 2,
    isSealed := bitOf (g 7 1) 3, len := g 8 4, pbias := g 12 4, nlb := g 16 4, nlive := g 20 4, pend := g 24 4, nret := g 28 1,
    bmap := g 32 8, brow := g 40 2, bmaxl := g 42 2, pfxq := g 44 4, pfxn := g 48 4,
    rets := (List.range 8).map fun k => Retire.of (retireBytes b k) }

/-- The 256 bytes of a descriptor. -/
def Desc.bytes (d : Desc) : List Byte :=
  leBytes 4 d.sqid ++ leBytes 2 0x0100 ++ leBytes 1 d.ctag ++
    leBytes 1 (b2n d.live + 2 * b2n d.beam + 4 * b2n d.busy + 8 * b2n d.isSealed) ++ leBytes 4 d.len ++ leBytes 4 d.pbias ++
    leBytes 4 d.nlb ++ leBytes 4 d.nlive ++ leBytes 4 d.pend ++ leBytes 1 d.nret ++ leBytes 3 0 ++ leBytes 8 d.bmap ++
    leBytes 2 d.brow ++ leBytes 2 d.bmaxl ++ leBytes 4 d.pfxq ++ leBytes 4 d.pfxn ++ leBytes 12 0 ++ d.rets.flatMap Retire.bytes

/-- The rules of R391's table, for the bytes at an address. -/
def descOk (b : List Byte) (addr : Nat) : Bool :=
  let d := Desc.of b
  let zero (i n : Nat) := leNat ((b.drop i).take n) == 0
  decide (d.sqid < 2 ^ 31) && leNat ((b.drop 4).take 2) == 0x0100 && decide (fld (leNat ((b.drop 6).take 1)) 4 4 = 0) &&
    decide (fld (leNat ((b.drop 7).take 1)) 4 4 = 0) && decide (d.nret ≤ 8) && zero 29 3 && (d.beam || d.bmap == 0) &&
    (!d.beam || d.bmaxl != 0) && zero 52 12 && addr % 256 == 0 &&
    (List.range 8).all fun k =>
      zero (64 + 24 * k + 14) 2 && zero (64 + 24 * k + 20) 4 && (decide (d.nret ≤ k) || decide ((Retire.of (retireBytes b k)).mode ≤ 2))

/-- Step 3 of R397: the descriptor at an offset. -/
def readDesc (k : KvPool) (off : Nat) : M Desc := do
  let b ← poolBytes k.h off 256
  check (descOk b (k.h.addr off)) cKVSEQ (w64 (k.h.addr off))
  pure (Desc.of b)

/-- Writes a descriptor. -/
def putDesc (k : KvPool) (off : Nat) (d : Desc) : M Unit := poolPutBytes k.h off d.bytes

/-- BUSY holds every instruction that would change the descriptor (R397). -/
def holdBusy (d : Desc) : M Unit := if d.busy then stall else pure ()

/-- KV.KVSEQ with the descriptor's address. -/
def needSeq (k : KvPool) (off : Nat) (ok : Bool) : M Unit := check ok cKVSEQ (w64 (k.h.addr off))

/-! ## The inverted block table (R387) -/

/-- States of a block. -/
inductive BState where
  | free | live | evicting | remote
deriving DecidableEq, Repr

/-- The state of a code. -/
def BState.of : Nat → BState
  | 0 => .free | 1 => .live | 2 => .evicting | _ => .remote

/-- The code of a state. -/
def BState.code : BState → Nat
  | .free => 0 | .live => 1 | .evicting => 2 | .remote => 3

/-- An entry of the inverted block table, or of the directory. -/
structure Block where
  seq : Nat
  lblk : Nat
  bslot : Nat
  bpos : Nat
  pfx : Nat
  next : Nat
  ref : Nat
  pin : Nat
  fill : Nat
  tag : Nat
  st : BState
  ro : Bool
  sh : Bool
  ovf : Bool
  pfxb : Bool
deriving DecidableEq, Repr

/-- The entry that 32 bytes hold. -/
def Block.of (b : List Byte) : Block :=
  let g (i n : Nat) := leNat ((b.drop i).take n)
  { seq := g 0 4, lblk := g 4 4, bslot := g 8 4, bpos := g 12 4, pfx := g 16 4, next := g 20 4, ref := g 24 2, pin := g 26 1,
    fill := g 27 1, tag := fld (g 28 1) 0 4, st := .of (fld (g 28 1) 4 2), ro := bitOf (g 28 1) 6, sh := bitOf (g 28 1) 7,
    ovf := bitOf (g 29 1) 0, pfxb := bitOf (g 29 1) 1 }

/-- The bytes of an entry. -/
def Block.bytes (e : Block) : List Byte :=
  leBytes 4 e.seq ++ leBytes 4 e.lblk ++ leBytes 4 e.bslot ++ leBytes 4 e.bpos ++ leBytes 4 e.pfx ++ leBytes 4 e.next ++
    leBytes 2 e.ref ++ leBytes 1 e.pin ++ leBytes 1 e.fill ++
    leBytes 1 (e.tag + 16 * e.st.code + 64 * b2n e.ro + 128 * b2n e.sh) ++ leBytes 1 (b2n e.ovf + 2 * b2n e.pfxb) ++ leBytes 2 0

/-- Reads entry `b`. -/
def getBlock (k : KvPool) (b : Nat) : M Block := do
  let l ← poolBytes k.h (k.ibto + 32 * b) 32
  pure (Block.of l)

/-- Writes entry `b`. -/
def putBlock (k : KvPool) (b : Nat) (e : Block) : M Unit := poolPutBytes k.h (k.ibto + 32 * b) e.bytes

/-! ## The hash table (R389) -/

/-- The hash of a key, in `lg` bits. -/
def kvHash (q l lg : Nat) : Nat := (q * 0x9E3779B1 + l * 0x85EBCA77) % 2 ^ 32 / 2 ^ (32 - lg)

/-- The offsets of the slots that a key may be in, in the order of R389. -/
def keySlots (k : KvPool) (q l : Nat) : List Nat :=
  (List.range 4).flatMap fun n => (List.range 8).map fun s => k.bkto + 32 * ((kvHash q l k.lbk + n) % 2 ^ k.lbk) + 4 * s

/-- An entry is the block of a key. -/
def Block.isKey (e : Block) (q l : Nat) : Bool := e.seq == q && e.lblk == l && e.st != .free

/-- The first slot of a list that holds a block of a key. -/
def findSlots (k : KvPool) (q l : Nat) : List Nat → M (Option (Nat × Block))
  | [] => pure none
  | o :: os => do
    let b ← poolNat k.h o 4
    if k.nblk ≤ b then findSlots k q l os
    else do
      let e ← getBlock k b
      if e.isKey q l then pure (some (b, e)) else findSlots k q l os

/-- Walks the overflow list from block `b`. -/
def findOverflow (k : KvPool) (q l : Nat) : Nat → Nat → M (Option (Nat × Block))
  | 0, _ => pure none
  | n + 1, b =>
    if k.nblk ≤ b then pure none
    else do
      let e ← getBlock k b
      if e.isKey q l then pure (some (b, e)) else findOverflow k q l n e.next

/-- Looks up a key. -/
def lookup (k : KvPool) (q l : Nat) : M (Option (Nat × Block)) := do
  match ← findSlots k q l (keySlots k q l) with
  | some r => pure (some r)
  | none => do
    let b ← poolNat k.h 80 4
    findOverflow k q l k.nblk b

/-- The first of some slots that holds a number. -/
def slotHolding (k : KvPool) (b : Nat) : List Nat → M (Option Nat)
  | [] => pure none
  | o :: os => do
    let x ← poolNat k.h o 4
    if x = b then pure (some o) else slotHolding k b os

/-- Inserts block `b` with the given entry under its key, and writes the entry. -/
def insertBlock (k : KvPool) (b : Nat) (e : Block) : M Unit := do
  match ← slotHolding k noBlock (keySlots k e.seq e.lblk) with
  | some o => do
    poolPut k.h o 4 b
    putBlock k b { e with next := noBlock, ovf := false }
  | none => do
    let head ← poolNat k.h 80 4
    poolPut k.h 80 4 b
    putBlock k b { e with next := head, ovf := true }

/-- Unlinks block `b` from the overflow list; `link` is the offset of the number that leads to block `c`. -/
def unlinkOverflow (k : KvPool) (b next : Nat) : Nat → Nat → Nat → M Unit
  | 0, _, _ => pure ()
  | n + 1, link, c =>
    if k.nblk ≤ c then pure ()
    else if c = b then poolPut k.h link 4 next
    else do
      let e ← getBlock k c
      unlinkOverflow k b next n (k.ibto + 32 * c + 20) e.next

/-- Removes block `b` from its bucket or from the overflow list; the entry as it then is, not yet written. -/
def removeKey (k : KvPool) (b : Nat) (e : Block) : M Block := do
  if e.ovf then do
    let head ← poolNat k.h 80 4
    unlinkOverflow k b e.next k.nblk 80 head
    pure { e with ovf := false, next := noBlock }
  else do
    match ← slotHolding k b (keySlots k e.seq e.lblk) with
    | some o => poolPut k.h o 4 noBlock
    | none => pure ()
    pure e

/-! ## The free list (R390) -/

/-- Takes a block from the head of the free list, or raises KV.KVFULL. -/
def allocBlock (k : KvPool) : M Nat := do
  let b ← poolNat k.h 56 4
  let n ← poolNat k.h 60 4
  check (decide (b < k.nblk) && n != 0) cKVFULL (w64 k.addr)
  let e ← getBlock k b
  poolPut k.h 56 4 e.next
  poolPut k.h 60 4 (n - 1)
  pure b

/-- Frees one block. -/
def freeBlock (k : KvPool) (b : Nat) : M Unit := do
  let e ← getBlock k b
  let e ← removeKey k b e
  let head ← poolNat k.h 56 4
  let n ← poolNat k.h 60 4
  putBlock k b { e with ref := 0, pin := 0, fill := 0, tag := 0, st := .free, ro := false, sh := false, ovf := false, pfxb := false, next := head }
  poolPut k.h 56 4 b
  poolPut k.h 60 4 (n + 1)

/-- Frees blocks together, in ascending number. -/
def freeBlocks (k : KvPool) (l : List Nat) : M Unit := checkEach (freeBlock k) (sortNats l)

/-- Lowers a block's REF by one; holds when it is to be freed: REF is 0 and the block is not EVICTING (R403). -/
def lowerRef (k : KvPool) (b : Nat) : M Bool := do
  let e ← getBlock k b
  putBlock k b { e with ref := e.ref - 1 }
  pure (decide (e.ref ≤ 1) && e.st != .evicting)

/-- Raises a block's REF by one. -/
def raiseRef (k : KvPool) (b : Nat) : M Unit := do
  let e ← getBlock k b
  putBlock k b { e with ref := e.ref + 1 }

/-! ## The directory (R406) -/

/-- Offset of directory entry `n`. -/
def KvPool.dirOff (k : KvPool) (n : Nat) : Nat := k.diro + 32 * n

/-- The directory entries that a key may be in. -/
def dirSlots (k : KvPool) (q l : Nat) : List Nat := (List.range 8).map fun n => (kvHash q l k.ldir + n) % 2 ^ k.ldir

/-- The first of some directory entries that passes a test. -/
def findDir (k : KvPool) (ok : Block → Bool) : List Nat → M (Option (Nat × Block))
  | [] => pure none
  | n :: ns => do
    let l ← poolBytes k.h (k.dirOff n) 32
    let e := Block.of l
    if ok e then pure (some (n, e)) else findDir k ok ns

/-- The valid directory entry of a key. -/
def lookupDir (k : KvPool) (q l : Nat) : M (Option (Nat × Block)) :=
  if k.ldir = 0 then pure none else findDir k (·.isKey q l) (dirSlots k q l)

/-- Directory entry `n` is invalidated: its STATE becomes FREE. -/
def dropDir (k : KvPool) (n : Nat) : M Unit := do
  let l ← poolBytes k.h (k.dirOff n) 32
  poolPutBytes k.h (k.dirOff n) { Block.of l with st := .free }.bytes

/-- Invalidates the valid directory entries that pass a test. -/
def dropDirs (k : KvPool) (p : Block → Bool) : List Nat → M Unit
  | [] => pure ()
  | n :: ns => do
    let l ← poolBytes k.h (k.dirOff n) 32
    let e := Block.of l
    if e.st != .free && p e then poolPutBytes k.h (k.dirOff n) { e with st := .free }.bytes
    dropDirs k p ns

/-- Invalidates every directory entry that passes a test. -/
def dropDirWhere (k : KvPool) (p : Block → Bool) : M Unit :=
  if k.ldir = 0 then pure () else dropDirs k p (List.range (2 ^ k.ldir))

/-! ## Resolving (R393) -/

/-- Offset of entry `l` of a row of a descriptor's beam map. -/
def Desc.rowOff (d : Desc) (l : Nat) : Nat := d.bmap + 4 * d.bmaxl * d.brow + 4 * l

/-- A retire record covers a prefix block. -/
def Retire.covers (r : Retire) (l : Nat) (e : Block) : Bool :=
  if r.mode = 2 then decide (r.lo ≤ l) && decide (l < r.hi)
  else r.tag == e.tag && decide (r.lo ≤ e.bslot) && decide (e.bslot < r.hi)

/-- The key of a logical block. -/
def Desc.key (d : Desc) (l : Nat) : Nat := if l < d.pfxn then d.pfxq else d.sqid

/-- Resolves a logical block: its number and entry. -/
def resolve (k : KvPool) (d : Desc) (l : Nat) : M (Option (Nat × Block)) := do
  if !d.live then pure none
  else if d.beam then
    if d.bmaxl ≤ l then pure none
    else do
      let b ← poolNat k.h (d.rowOff l) 4
      if k.nblk ≤ b then pure none
      else do
        let e ← getBlock k b
        pure (if e.st = .free then none else some (b, e))
  else do
    match ← lookup k (d.key l) l with
    | none => pure none
    | some (b, e) =>
      if decide (l < d.pfxn) && (d.rets.take d.nret).any (·.covers l e) then pure none else pure (some (b, e))

/-- The logical blocks of a list that resolve, with their numbers and entries. -/
def resolveAll (k : KvPool) (d : Desc) : List Nat → M (List (Nat × Nat × Block))
  | [] => pure []
  | l :: ls => do
    let r ← resolve k d l
    let rest ← resolveAll k d ls
    pure (match r with | some (b, e) => (l, b, e) :: rest | none => rest)

/-- Unmaps logical block `l` of block `b`, and lowers its REF; holds when the block is to be freed. A prefix block keeps its
key, and what unmaps it is a retire record (R402, R403) or the end of the sequence. -/
def unmap (k : KvPool) (d : Desc) (l b : Nat) : M Bool := do
  if d.beam then poolPut k.h (d.rowOff l) 4 noBlock
  else if d.pfxn ≤ l then do
    let e ← getBlock k b
    let e ← removeKey k b e
    putBlock k b e
  lowerRef k b

/-- Unmaps blocks; the numbers of those to be freed. -/
def unmapAll (k : KvPool) (d : Desc) : List (Nat × Nat × Block) → M (List Nat)
  | [] => pure []
  | (l, b, _) :: r => do
    let z ← unmap k d l b
    let zs ← unmapAll k d r
    pure (if z then b :: zs else zs)

end Sys2Proof.Machine
end

