-- ==== Sys2Proof/Machine/Kv.lean ====
section
/-! DEFINITION. KV sequences: OPC 0x78 (R398 to R403), and the commit step of KVAPP (R400). -/

namespace Sys2Proof.Machine

/-! ## KVSEQ and SPTAG (R398, R399) -/

/-- Numbers that "none" fills. -/
def noBlocks (n : Nat) : List Byte := List.replicate (4 * n) 0xFF

/-- KVSEQ.new (R398). -/
def execKvseqNew (p : Pred) (sd sa sb sc h tag brow bmaxl : Nat) (s : State) : Host.Outcome State Fault Refusal :=
  runWord .q p (.kvseqNew p sd sa sb sc h tag brow bmaxl) s fun t => do
    let off := (t.rs sa).toNat
    let row := (t.rs sc).toNat + 4 * bmaxl * brow
    let k ← openPool h [off] true (if bmaxl = 0 then [] else [⟨row, 4 * bmaxl, .write⟩])
    let b ← poolBytes k.h off 256
    needSeq k off (!(Desc.of b).live && decide ((t.rs sb).toNat < 2 ^ 31))
    let beam := bmaxl != 0
    let d : Desc :=
      { sqid := (t.rs sb).toNat, ctag := tag, live := true, beam := beam, busy := false, isSealed := false, len := 0, pbias := 0, nlb := 0,
        nlive := 0, pend := 0, nret := 0, bmap := if beam then (t.rs sc).toNat else 0, brow := if beam then brow else 0,
        bmaxl := bmaxl, pfxq := 0, pfxn := 0, rets := List.replicate 8 ⟨0, 0, 0, 0, 0, 0⟩ }
    putDesc k off d
    if beam then poolPutBytes k.h (d.rowOff 0) (noBlocks bmaxl)
    modT fun u => u.ws sd 0

/-- The start of an instruction on a LIVE descriptor: its checks, and the wait for BUSY. -/
def openLive (h off : Nat) : M (KvPool × Desc) := do
  let k ← openPool h [off] true
  let d ← readDesc k off
  holdBusy d
  needSeq k off d.live
  pure (k, d)

/-- KVSEQ.end (R398). -/
def execKvseqEnd (p : Pred) (sd sa h : Nat) (s : State) : Host.Outcome State Fault Refusal :=
  runWord .q p (.kvseqEnd p sd sa h) s fun t => do
    let off := (t.rs sa).toNat
    let (k, d) ← openLive h off
    let l ← resolveAll k d (List.range d.nlb)
    let z ← unmapAll k d l
    freeBlocks k z
    dropDirWhere k fun e => e.seq == d.sqid
    putDesc k off { d with live := false }
    modT fun u => u.ws sd (w64 z.length)

/-- Sets RO in a cap, its CHK recomputed. -/
def capSetRo (c : BitVec 128) : BitVec 128 :=
  let b := (c.toNat % 2 ^ 120) ||| 2 ^ 23
  BitVec.ofNat 128 (b + capChk b * 2 ^ 120)

/-- Seals blocks: RO and SH in their entries, RO in their preambles. -/
def sealBlocks (k : KvPool) : List (Nat × Nat × Block) → M Unit
  | [] => pure ()
  | (_, b, _) :: r => do
    let e ← getBlock k b
    putBlock k b { e with ro := true, sh := true }
    let c ← poolNat k.h (k.blockOff b) 16
    poolPut k.h (k.blockOff b) 16 (capSetRo (BitVec.ofNat 128 c)).toNat
    sealBlocks k r

/-- KVSEQ.seal (R398). -/
def execKvseqSeal (p : Pred) (sd sa h : Nat) (s : State) : Host.Outcome State Fault Refusal :=
  runWord .q p (.kvseqSeal p sd sa h) s fun t => do
    let off := (t.rs sa).toNat
    let (k, d) ← openLive h off
    let l ← resolveAll k d (List.range d.nlb)
    sealBlocks k l
    putDesc k off { d with isSealed := true }
    modT fun u => u.ws sd (w64 l.length)

/-- SPTAG (R399). -/
def execSptag (p : Pred) (sa h tag : Nat) (s : State) : Host.Outcome State Fault Refusal :=
  runWord .q p (.sptag p sa h tag) s fun t => do
    let off := (t.rs sa).toNat
    let (k, d) ← openLive h off
    putDesc k off { d with ctag := tag }

/-! ## KVAPP (R400) -/

/-- What KVAPP has reserved: the current block with its entry and reserved slots, NLB, where each record goes (last first), the
touched blocks with their reserved counts, and the blocks copied from and to with the records to copy. -/
structure AppRun where
  cur : Option (Nat × Block × Nat)
  nlb : Nat
  writes : List Nat
  fills : List (Nat × Nat)
  copies : List (Nat × Nat × Nat)
deriving DecidableEq, Repr

/-- The current block does not take the token of slot `slot` and position `pos` (R400). -/
def needsBlock (k : KvPool) (d : Desc) (slot pos : Nat) (cur : Option (Nat × Block × Nat)) : Bool :=
  match cur with
  | none => true
  | some (_, e, n) =>
    e.st != .live || e.tag != d.ctag || n == k.p || (e.bslot + n) % 2 ^ 32 != slot || (e.bpos + n) % 2 ^ 32 != pos

/-- A block is entered in the beam row, or under its key. -/
def mapBlock (k : KvPool) (d : Desc) (l b : Nat) (e : Block) : M Unit :=
  if d.beam then do
    putBlock k b e
    poolPut k.h (d.rowOff l) 4 b
  else insertBlock k b e

/-- Opens a block for a token. -/
def openBlock (k : KvPool) (d : Desc) (off slot pos nlb : Nat) : M (Nat × Block) := do
  needSeq k off (!(d.beam && decide (d.bmaxl ≤ nlb + 1)))
  let b ← allocBlock k
  let e : Block := { seq := d.sqid, lblk := nlb, bslot := slot, bpos := pos, pfx := noBlock, next := noBlock, ref := 1, pin := 0,
                     fill := 0, tag := d.ctag, st := .live, ro := false, sh := d.beam, ovf := false, pfxb := false }
  mapBlock k d nlb b e
  pure (b, e)

/-- Copies the current block before it is written: the new block takes its place in the sequence. -/
def copyOnWrite (k : KvPool) (d : Desc) (nlb b : Nat) (e : Block) : M (Nat × Block) := do
  let n ← allocBlock k
  let e' ← if d.beam then pure e else removeKey k b e
  putBlock k b { e' with ref := e.ref - 1 }
  let new : Block := { e with ref := 1, next := noBlock, ovf := false }
  mapBlock k d (nlb - 1) n new
  pure (n, new)

/-- A touched block and its reserved count. -/
def touch (b n : Nat) : List (Nat × Nat) → List (Nat × Nat)
  | [] => [(b, n)]
  | (c, m) :: r => if c = b then (c, n) :: r else (b, n) :: (c, m) :: r

/-- Reserves a slot in a block. -/
def AppRun.reserve (k : KvPool) (r : AppRun) (b : Nat) (e : Block) (n : Nat) : AppRun :=
  { r with cur := some (b, e, n + 1), writes := k.tokenOff b n :: r.writes, fills := touch b (n + 1) r.fills }

/-- The token of slot `slot` and position `pos`. -/
def appToken (k : KvPool) (d : Desc) (off slot pos : Nat) (r : AppRun) : M AppRun := do
  if needsBlock k d slot pos r.cur then do
    let (b, e) ← openBlock k d off slot pos r.nlb
    pure ({ r with nlb := r.nlb + 1 }.reserve k b e 0)
  else match r.cur with
    | none => pure r
    | some (b, e, n) =>
      if e.ro then trap cKVRO (w64 (k.h.addr off))
      else if 1 < e.ref then do
        let (b', e') ← copyOnWrite k d r.nlb b e
        pure ({ r with copies := (b, b', e.fill) :: r.copies }.reserve k b' e' n)
      else pure (r.reserve k b e n)

/-- `n` tokens from slot and position on. -/
def appTokens (k : KvPool) (d : Desc) (off slot pos : Nat) : Nat → AppRun → M AppRun
  | 0, r => pure r
  | n + 1, r => do
    let r ← appToken k d off (slot % 2 ^ 32) (pos % 2 ^ 32) r
    appTokens k d off (slot + 1) (pos + 1) n r

/-- Copies bytes within a pool as the data phase does; the fault that the reads bring. -/
def copyRecords (h : Handle) (dst src : Nat) : Nat → M (Option (Nat × Word))
  | 0 => pure none
  | n + 1 => do
    let due ← moveByte h h (h.addr dst) (h.addr src)
    let due' ← copyRecords h (dst + 1) (src + 1) n
    pure (firstDue due due')

/-- The records of the blocks copied on write. They are copied in the issue step, the first part of the data phase. -/
def copyBlocks (k : KvPool) : List (Nat × Nat × Nat) → M (Option (Nat × Word))
  | [] => pure none
  | (b, b', n) :: r => do
    let _ ← checkAccess k.h (k.tokenOff b 0) (n * k.tokb) .read 1
    let _ ← checkAccess k.h (k.tokenOff b' 0) (n * k.tokb) .write 1
    let due ← copyRecords k.h (k.tokenOff b' 0) (k.tokenOff b 0) (n * k.tokb)
    let due' ← copyBlocks k r
    pure (firstDue due due')

/-- The checks of R134 on the records to be written. -/
def checkRecords (k : KvPool) (l : List Nat) : M Unit :=
  checkEach (fun o => do let _ ← checkAccess k.h o k.tokb .write 1; pure ()) l

/-- KVAPP's issue step (R400) (DEDUCED, log 43). The task's earlier accesses are performed first. -/
def execKvapp (p : Pred) (sd sa sc h sh sor : Nat) (s : State) : Host.Outcome State Fault Refusal :=
  let i : Instr := .kvapp p sd sa sc h sh sor
  runWord .q p i s fun t => do
    let n := (t.rs sc).toNat
    let off := (t.rs sa).toNat
    performOwn
    let k ← openPool h [off] true
    let d ← readDesc k off
    holdBusy d
    check (decide (1 ≤ n) && decide (n ≤ 4096)) cILLFN (iword i)
    needSeq k off d.live
    check (!d.isSealed) cKVRO (w64 (k.h.addr off))
    let hs ← useHandle sh
    let _ ← checkAccess hs (t.rs sor).toNat (n * k.tokb) .read 1
    let pos := (d.len + 2 ^ 32 - d.pbias) % 2 ^ 32
    let cur ← if d.nlb = 0 then pure none else resolve k d (d.nlb - 1)
    let r ← appTokens k d off d.len pos n ⟨cur.map fun c => (c.1, c.2, c.2.fill), d.nlb, [], [], []⟩
    checkRecords k r.writes
    let due ← copyBlocks k r.copies
    let _ ← issueJob (.kvapp k off hs (t.rs sor).toNat r.writes.reverse r.fills) .st none none [] none due.toList
    putDesc k off { d with len := (d.len + n) % 2 ^ 32, nlb := r.nlb, nlive := (d.nlive + n) % 2 ^ 32, pend := n, busy := true }
    modT fun u => u.ws sd (w64 (2 ^ 32 * d.len + pos))

/-- FILL of the touched blocks becomes their reserved count. -/
def commitFills (k : KvPool) : List (Nat × Nat) → M Unit
  | [] => pure ()
  | (b, n) :: r => do
    poolPut k.h (k.ibto + 32 * b + 27) 1 n
    commitFills k r

/-- The commit step: FILL, PEND and BUSY. -/
def commitApp (k : KvPool) (off : Nat) (fills : List (Nat × Nat)) : M Unit := do
  commitFills k fills
  poolPut k.h (off + 24) 4 0
  let f ← poolNat k.h (off + 7) 1
  poolPut k.h (off + 7) 1 (f - if bitOf f 2 then 4 else 0)

/-- A step of a pool that an engine makes at a job's end: it may pause (R362), and any other end of it counts as done. -/
def State.poolStep (s : State) (t : Task) (j : Job) (m : M Unit) : State :=
  match engineRun s t (asAcc .write m) with
  | .ok (_, s) => s.finishJob j
  | .error (.page c a) => s.pauseJob j c a
  | .error _ => s.finishJob j

/-- KVAPP_COMMIT (R400): the data phase of a job to its end or its pause, then the commit step. -/
def execKvappCommit (j : Nat) (s : State) : Host.Outcome State Fault Refusal :=
  match s.workJob? j with
  | none => .next s
  | some jb =>
    match jb.kind, s.task? jb.task with
    | .kvapp k off src soff writes fills, some t =>
      if jb.paused.isSome || !s.jobColumnsFree t jb then .next s
      else
        let dst (x : Nat) : Nat := k.h.addr (writes.getD (x / k.tokb) 0 + x % k.tokb)
        let from_ (x : Nat) : Nat := src.addr (soff + x)
        match engineRun s t (moveBytes jb k.h src dst from_ jb.progress (writes.length * k.tokb - jb.progress)) with
        | .error _ => .next s
        | .ok ((n, e, due), s) =>
          let jb := { jb with progress := n, dues := addDues jb.dues due.toList }
          match e with
          | .paused c a => .next (s.pauseJob jb c a)
          | .held => .next (s.setJob jb)
          | _ => .next (s.poolStep t jb (commitApp k off fills))
    | _, _ => .next s

/-! ## KVLOOK (R401) -/

/-- The status word of a block. -/
def kvStatus (b : Nat) (e : Block) (wh : Nat) : Nat :=
  b2n e.sh * 2 ^ 47 + b2n e.ro * 2 ^ 46 + wh * 2 ^ 43 + e.tag * 2 ^ 39 + e.fill % 128 * 2 ^ 32 + b

/-- What KVLOOK finds: the status word, and the block when it is LIVE. -/
def kvFind (k : KvPool) (d : Desc) (l : Nat) : M (Word × Option Nat) := do
  match ← resolve k d l with
  | some (b, e) => pure (w64 (kvStatus b e e.st.code), if e.st = .live then some b else none)
  | none => do
    match ← lookupDir k (d.key l) l with
    | some (_, e) => pure (w64 (kvStatus noBlock e 4), none)
    | none => pure (w64 noBlock, none)

/-- KVLOOK (R401). -/
def execKvlook (p : Pred) (sd sa sb h : Nat) (s : State) : Host.Outcome State Fault Refusal :=
  runWord .q p (.kvlook p sd sa sb h) s fun t => do
    let off := (t.rs sa).toNat
    let k ← openPool h [off] false
    let d ← readDesc k off
    let (w, _) ← kvFind k d (t.rs sb).toNat
    modT fun u => u.ws sd w

/-- All cells below vl are active. -/
def allActive : Pred := ⟨false, 0⟩

/-- KVLOOK.ld (R401): the block's tile is loaded as VLD loads it, after an acquire at PKG scope (R395). The record of a held load names the
block's address. -/
def execKvlookLd (p : Pred) (vd sd sa sb h : Nat) (s : State) : Host.Outcome State Fault Refusal :=
  let i : Instr := .kvlookLd p vd sd sa sb h
  runHeld .q p i s fun t => do
    match t.held i with
    | some r => do
      let hd ← useHandle h
      sidePort [] (t.regCols vd)
      let c := r.cap 0
      loadElems i vd r
        { h := hd, o := r.key.toNat, cap := c, bits := c.bits, poff := r.total, soff := 0, moff := 0, plen := 0 } t.vstart.toNat none
        fun u => u.ws sd r.mask
    | none => do
      let off := (t.rs sa).toNat
      let k ← openPool h [off] false
      let d ← readDesc k off
      let v ← regOf i vd
      let (w, b) ← kvFind k d (t.rs sb).toNat
      match b with
      | none => finishWord i fun u => u.ws sd w
      | some b =>
        if 65535 ≤ t.ocld then stall
        else do
          fenceAcq .pkg
          let o := k.blockOff b
          let (m, bs, a, due) ← readPreamble k.h o
          check (m.headOk bs) cCAPCHECK (w64 a)
          check (m.cap.scl == 0 && m.cap.spr == 0) cUNSUPPORTED (w64 a)
          check (decide (m.cap.f.width ≤ v.width)) cNARROW (capTval vd 0)
          check (!v.c.ro) cROWRITE (capTval vd 0)
          check (!(t.tptrap && m.cap.poison)) cPOISON (w64 a)
          sidePort [] (t.regCols vd)
          loadElems i vd
            { capture i allActive t with key := w64 o, total := m.poff, caps := [m.cap.bits], due := due, mask := w, order := [a] } m 0 none
            fun u => u.ws sd w

/-- KVLOOK.pf (R401): the request for the block's lines fills the home die cache, and never faults. -/
def execKvlookPf (p : Pred) (sd sa sb h : Nat) (s : State) : Host.Outcome State Fault Refusal :=
  runWord .q p (.kvlookPf p sd sa sb h) s fun t => do
    let off := (t.rs sa).toNat
    let k ← openPool h [off] false
    let d ← readDesc k off
    let (w, b) ← kvFind k d (t.rs sb).toNat
    match b with
    | some b =>
      if k.h.space = .hbm then do
        let pt ← getP
        let a := k.h.addr (k.blockOff b)
        modS fun s => (List.range (k.stride / 128 + 1)).foldl (fun s n => s.fillDie (t.ctx pt) ((a + 128 * n) % 2 ^ 56)) s
    | none => pure ()
    modT fun u => u.ws sd w

/-! ## KVFREE and SPRET (R402, R403) -/

/-- Adds a retire record. -/
def Desc.retire (d : Desc) (r : Retire) : Desc := { d with rets := d.rets.set d.nret r, nret := d.nret + 1 }

/-- Sum of FILL. -/
def fillSum (l : List (Nat × Nat × Block)) : Nat := (l.map (·.2.2.fill)).sum

/-- KVFREE (R402). -/
def execKvfree (p : Pred) (sd sa sb sc h : Nat) (s : State) : Host.Outcome State Fault Refusal :=
  let i : Instr := .kvfree p sd sa sb sc h
  runWord .q p i s fun t => do
    let n := (t.rs sc).toNat
    let off := (t.rs sa).toNat
    let k ← openPool h [off] true
    let d ← readDesc k off
    holdBusy d
    check (decide (1 ≤ n) && decide (n ≤ 65536)) cILLFN (iword i)
    let l ← resolveAll k d ((List.range n).map fun x => (t.rs sb).toNat + x)
    let pre := if d.beam then [] else l.filter fun x => decide (x.1 < d.pfxn)
    check (!(d.nret == 8 && !pre.isEmpty)) cKVSPAN (w64 (k.h.addr off))
    let z ← unmapAll k d l
    freeBlocks k z
    let d := { d with nlive := (d.nlive + 2 ^ 32 - fillSum l % 2 ^ 32) % 2 ^ 32 }
    putDesc k off (match pre.head?, pre.getLast? with
      | some a, some b => d.retire ⟨a.1, b.1 + 1, fillSum pre, 0, 2, d.pbias⟩
      | _, _ => d)
    modT fun u => u.ws sd (w64 z.length)

/-- SPRET (R403); `close` tells CLOSE from HOLE. -/
def retireSpan (p : Pred) (i : Instr) (close : Bool) (sd sa h tag : Nat) (s : State) : Host.Outcome State Fault Refusal :=
  runWord .q p i s fun t => do
    let off := (t.rs sa).toNat
    let k ← openPool h [off] false
    let d ← readDesc k off
    holdBusy d
    let all ← resolveAll k d (List.range d.nlb)
    let l := all.filter fun x => x.2.2.tag == tag
    check (!(d.nret == 8 && !l.isEmpty)) cKVSPAN (w64 (k.h.addr off))
    let z ← unmapAll k d l
    freeBlocks k z
    dropDirWhere k fun e => e.seq == d.sqid && e.tag == tag
    let n := fillSum l
    if 0 < n then do
      let lo := l.foldl (fun a x => min a x.2.2.bslot) (2 ^ 32)
      let hi := l.foldl (fun a x => max a (x.2.2.bslot + x.2.2.fill)) 0
      let d := { d.retire ⟨lo, hi, n, tag, if close then 1 else 0, d.pbias⟩ with nlive := (d.nlive + 2 ^ 32 - n % 2 ^ 32) % 2 ^ 32 }
      putDesc k off (if close then { d with pbias := (d.pbias + n) % 2 ^ 32 } else d)
    modT fun u => u.ws sd (w64 n)

/-- SPRET.hole (R403). -/
def execSpretHole (p : Pred) (sd sa h tag : Nat) (s : State) : Host.Outcome State Fault Refusal :=
  retireSpan p (.spretHole p sd sa h tag) false sd sa h tag s

/-- SPRET.close (R403). -/
def execSpretClose (p : Pred) (sd sa h tag : Nat) (s : State) : Host.Outcome State Fault Refusal :=
  retireSpan p (.spretClose p sd sa h tag) true sd sa h tag s

end Sys2Proof.Machine
end

