-- ==== Sys2Proof/Machine/KvShare.lean ====
section
/-! DEFINITION. KV beams and prefixes: OPC 0x79 (R404, R405); pins, eviction and pooled memory: OPC 0x7A (R406, R407), with the
completion steps of the last two. -/

namespace Sys2Proof.Machine

/-! ## Beams (R404) -/

/-- A beam of BMREORD: its descriptor's offset, the descriptor, its row's numbers, and its parent. -/
structure Beam where
  off : Nat
  d : Desc
  row : List Nat
  parent : Nat
deriving DecidableEq, Repr

/-- Reads the descriptors at some offsets. -/
def readDescs (k : KvPool) : List Nat → M (List (Nat × Desc))
  | [] => pure []
  | o :: os => do
    let d ← readDesc k o
    let r ← readDescs k os
    pure ((o, d) :: r)

/-- Reads `n` numbers of 4 bytes from an offset on. -/
def readNats (h : Handle) (off : Nat) : Nat → M (List Nat)
  | 0 => pure []
  | n + 1 => do
    let x ← poolNat h off 4
    let xs ← readNats h (off + 4) n
    pure (x :: xs)

/-- Reads the row of each descriptor, and pairs it with its parent. -/
def readBeams (k : KvPool) : List ((Nat × Desc) × Nat) → M (List Beam)
  | [] => pure []
  | ((o, d), p) :: r => do
    let row ← readNats k.h (d.rowOff 0) d.bmaxl
    let rest ← readBeams k r
    pure (⟨o, d, row, p⟩ :: rest)

/-- The first descriptor of a list that fails a test, given those before it. -/
def failsFirst (ok : List Desc → Desc → Bool) : List Desc → List (Nat × Desc) → Option Nat
  | _, [] => none
  | seen, (o, d) :: r => if ok seen d then failsFirst ok (seen ++ [d]) r else some o

/-- Raises KV.KVSEQ at the first descriptor that fails a test. -/
def needAll (k : KvPool) (l : List (Nat × Desc)) (ok : List Desc → Desc → Bool) : M Unit :=
  match failsFirst ok [] l with
  | some o => trap cKVSEQ (w64 (k.h.addr o))
  | none => pure ()

/-- The row that a beam takes from its parent. -/
def newRow (old : List Beam) (b : Beam) : List Nat :=
  match old[b.parent]? with
  | some p => (p.row.take p.d.nlb) ++ List.replicate (b.d.bmaxl - p.d.nlb) noBlock
  | none => b.row

/-- The descriptor that a beam takes from its parent. -/
def newDesc (old : List Beam) (b : Beam) : Desc :=
  match old[b.parent]? with
  | some p =>
    { b.d with len := p.d.len, pbias := p.d.pbias, nlb := p.d.nlb, nlive := p.d.nlive, ctag := p.d.ctag, nret := p.d.nret, rets := p.d.rets }
  | none => b.d

/-- Writes the beams' new rows and descriptors. -/
def putBeams (k : KvPool) (old : List Beam) : List Beam → M Unit
  | [] => pure ()
  | b :: r => do
    poolPutBytes k.h (b.d.rowOff 0) ((newRow old b).flatMap (leBytes 4))
    putDesc k b.off (newDesc old b)
    putBeams k old r

/-- Adjusts REF of blocks by their references in the new and the old rows; SH in those still reached; the numbers of those
whose REF reaches 0. -/
def adjustRefs (k : KvPool) (old new : List Nat) : List Nat → M (List Nat)
  | [] => pure []
  | b :: bs => do
    let e ← getBlock k b
    let ref := e.ref + new.count b - old.count b
    putBlock k b { e with ref := ref, sh := e.sh || new.contains b }
    let r ← adjustRefs k old new bs
    pure (if ref = 0 then b :: r else r)

/-- BMREORD (R404). A count out of range is its own check; the first three steps of R397 then go over at most 256 descriptors (DEDUCED, log
42). -/
def execBmreord (p : Pred) (sd sa sb sc h : Nat) (s : State) : Host.Outcome State Fault Refusal :=
  let i : Instr := .bmreord p sd sa sb sc h
  runWord .q p i s fun t => do
    let n := (t.rs sc).toNat
    let m := min n 256
    let offs := (List.range m).map fun x => (t.rs sa).toNat + 256 * x
    let par := (t.rs sb).toNat
    let k ← openPool h offs true [⟨par, 4 * m, .read⟩]
    let ds ← readDescs k offs
    checkEach (fun (x : Nat × Desc) => holdBusy x.2) ds
    check (decide (1 ≤ n) && decide (n ≤ 256)) cILLFN (iword i)
    needAll k ds fun _ d => d.live && d.beam
    needAll k ds fun seen d => match seen with | f :: _ => f.bmap == d.bmap && f.bmaxl == d.bmaxl | [] => true
    needAll k ds fun seen d => !(seen.any fun f => f.brow == d.brow)
    let parents ← readNats k.h par n
    needAll k ds fun seen _ => decide (parents.getD seen.length 0 < n)
    let old ← readBeams k (ds.zip parents)
    let before := (old.flatMap (·.row)).filter (· < k.nblk)
    let after := (old.flatMap (newRow old)).filter (· < k.nblk)
    putBeams k old old
    let z ← adjustRefs k before after (before ++ after).eraseDups
    freeBlocks k z
    modT fun u => u.ws sd (w64 z.length)

/-! ## Prefixes (R405) -/

/-- An entry of a prefix bucket. -/
structure Prefix where
  key : Nat
  ntok : Nat
  head : Nat
  nb : Nat
  pid : Nat
  tagl : Nat
  v : Bool
deriving DecidableEq, Repr

/-- The entry that 32 bytes hold. -/
def Prefix.of (b : List Byte) : Prefix :=
  let g (i n : Nat) := leNat ((b.drop i).take n)
  ⟨g 0 8, g 8 4, g 12 4, g 16 4, g 20 4, g 24 1, g 25 1 != 0⟩

/-- The bytes of an entry. -/
def Prefix.bytes (e : Prefix) : List Byte :=
  leBytes 8 e.key ++ leBytes 4 e.ntok ++ leBytes 4 e.head ++ leBytes 4 e.nb ++ leBytes 4 e.pid ++ leBytes 1 e.tagl ++ leBytes 1 (b2n e.v) ++
    leBytes 6 0

/-- Offset of entry `slot` of the bucket of a key. -/
def prefixOff (k : KvPool) (key slot : Nat) : Nat := k.pfxo + 128 * (key / 2 ^ (64 - k.lpb)) + 32 * slot

/-- The first entry of a key's bucket that passes a test: its slot. -/
def findPrefix (k : KvPool) (key : Nat) (ok : Prefix → Bool) : List Nat → M (Option (Nat × Prefix))
  | [] => pure none
  | n :: ns => do
    let b ← poolBytes k.h (prefixOff k key n) 32
    if ok (Prefix.of b) then pure (some (n, Prefix.of b)) else findPrefix k key ok ns

/-- The valid entry of a key. -/
def lookupPrefix (k : KvPool) (key : Nat) : M (Option (Nat × Prefix)) :=
  if k.lpb = 0 then pure none else findPrefix k key (fun e => e.v && e.key == key) (List.range 4)

/-- The chain of a prefix entry from block `b` on, `n` blocks; KV.KVSEQ with the entry's address where it is broken. -/
def chain (k : KvPool) (addr : Nat) : Nat → Nat → M (List Nat)
  | _, 0 => pure []
  | b, n + 1 => do
    check (decide (b < k.nblk)) cKVSEQ (w64 addr)
    let e ← getBlock k b
    check (e.st != .free && e.pfxb) cKVSEQ (w64 addr)
    let r ← chain k addr e.pfx n
    pure (b :: r)

/-- PFXFIND (R405). -/
def execPfxfind (p : Pred) (sd sa sb h : Nat) (s : State) : Host.Outcome State Fault Refusal :=
  runWord .q p (.pfxfind p sd sa sb h) s fun t => do
    let off := (t.rs sa).toNat
    let k ← openPool h [off] false
    let d ← readDesc k off
    let key := (t.rs sb).toNat
    match ← lookupPrefix k key with
    | none => modT fun u => u.ws sd 0
    | some (n, e) => do
      holdBusy d
      needSeq k off (d.live && !d.beam && d.len == 0 && d.pfxn == 0)
      let bs ← chain k (k.h.addr (prefixOff k key n)) e.head e.nb
      checkEach (raiseRef k) bs
      putDesc k off { d with pfxq := e.pid, pfxn := e.nb, nlb := e.nb, len := e.ntok, nlive := e.ntok, ctag := fld e.tagl 0 4 }
      modT fun u => u.ws sd (w64 e.ntok)

/-- Lowers the REF of blocks; the numbers of those to be freed. -/
def lowerRefs (k : KvPool) : List Nat → M (List Nat)
  | [] => pure []
  | b :: bs => do
    let z ← lowerRef k b
    let zs ← lowerRefs k bs
    pure (if z then b :: zs else zs)

/-- PFXFIND.drop (R405). A chain block whose REF reaches 0 is freed. -/
def execPfxfindDrop (p : Pred) (sd sb h : Nat) (s : State) : Host.Outcome State Fault Refusal :=
  runWord .q p (.pfxfindDrop p sd sb h) s fun t => do
    let k ← openPool h [] false
    let key := (t.rs sb).toNat
    match ← lookupPrefix k key with
    | none => modT fun u => u.ws sd 0
    | some (n, e) => do
      let bs ← chain k (k.h.addr (prefixOff k key n)) e.head e.nb
      poolPutBytes k.h (prefixOff k key n) { e with v := false }.bytes
      let z ← lowerRefs k bs
      freeBlocks k z
      modT fun u => u.ws sd (w64 e.nb)

/-- The blocks that PFXINS offers: each LIVE, full and with REF 1. -/
def offered (k : KvPool) (d : Desc) (off : Nat) : List Nat → M (List (Nat × Block))
  | [] => pure []
  | l :: ls => do
    match ← resolve k d l with
    | none => trap cKVSEQ (w64 (k.h.addr off))
    | some (b, e) => do
      needSeq k off (e.st == .live && e.fill == k.p && e.ref == 1)
      let r ← offered k d off ls
      pure ((b, e) :: r)

/-- Re-keys the offered blocks from logical block `l` on under a prefix identity. -/
def rekey (k : KvPool) (pid : Nat) : Nat → List (Nat × Block) → M Unit
  | _, [] => pure ()
  | l, (b, _) :: r => do
    let e ← getBlock k b
    let e ← removeKey k b e
    insertBlock k b { e with seq := pid, lblk := l, pfxb := true, sh := true, ref := 2, pfx := match r with | (b', _) :: _ => b' | [] => noBlock }
    rekey k pid (l + 1) r

/-- Unkeys the loser's blocks. -/
def unkeyAll (k : KvPool) : List Nat → M Unit
  | [] => pure ()
  | b :: bs => do
    let e ← getBlock k b
    let e ← removeKey k b e
    putBlock k b e
    unkeyAll k bs

/-- PFXINS (R405). -/
def execPfxins (p : Pred) (sd sa sb sc h : Nat) (s : State) : Host.Outcome State Fault Refusal :=
  let i : Instr := .pfxins p sd sa sb sc h
  runWord .q p i s fun t => do
    let off := (t.rs sa).toNat
    let k ← openPool h [off] false
    let d ← readDesc k off
    holdBusy d
    let c := (t.rs sc).toNat
    check (decide (1 ≤ c) && decide (c ≤ d.nlb)) cILLFN (iword i)
    needSeq k off (d.live && !d.beam && d.pfxn == 0)
    let own ← offered k d off (List.range c)
    let key := (t.rs sb).toNat
    match ← lookupPrefix k key with
    | some (n, e) =>
      if e.nb ≠ c then modT fun u => u.ws sd 3
      else do
        let bs ← chain k (k.h.addr (prefixOff k key n)) e.head e.nb
        unkeyAll k (own.map (·.1))
        let z ← lowerRefs k (own.map (·.1))
        freeBlocks k z
        checkEach (raiseRef k) bs
        putDesc k off { d with pfxq := e.pid, pfxn := c }
        modT fun u => u.ws sd 1
    | none => do
      match ← (if k.lpb = 0 then pure none else findPrefix k key (fun e => !e.v) (List.range 4)) with
      | none => modT fun u => u.ws sd 2
      | some (n, _) => do
        let pid := 2 ^ 31 + 4 * (key / 2 ^ (64 - k.lpb)) + n
        poolPutBytes k.h (prefixOff k key n)
          (Prefix.mk key (c * k.p) ((own.head?.map (·.1)).getD noBlock) c pid ((own.getLast?.map (·.2.tag)).getD 0) true).bytes
        rekey k pid 0 own
        putDesc k off { d with pfxq := pid, pfxn := c }
        modT fun u => u.ws sd 0

/-! ## Pins (R406) -/

/-- The block that KVPIN and KVUNPIN name. -/
def pinned (h n : Nat) : M (KvPool × Block) := do
  let k ← openPool h [] false
  check (decide (n < k.nblk)) cKVSEQ (w64 k.addr)
  let e ← getBlock k n
  pure (k, e)

/-- KVPIN (R406). -/
def execKvpin (p : Pred) (sd sb h : Nat) (s : State) : Host.Outcome State Fault Refusal :=
  runWord .q p (.kvpin p sd sb h) s fun t => do
    let b := (t.rs sb).toNat
    let (k, e) ← pinned h b
    match e.st with
    | .live =>
      if e.pin < 255 then do
        putBlock k b { e with pin := e.pin + 1 }
        modT fun u => u.ws sd 0
      else modT fun u => u.ws sd 3
    | .evicting => modT fun u => u.ws sd 1
    | _ => modT fun u => u.ws sd 2

/-- KVUNPIN (R406). -/
def execKvunpin (p : Pred) (sd sb h : Nat) (s : State) : Host.Outcome State Fault Refusal :=
  runWord .q p (.kvunpin p sd sb h) s fun t => do
    let b := (t.rs sb).toNat
    let (k, e) ← pinned h b
    if 0 < e.pin then do
      putBlock k b { e with pin := e.pin - 1 }
      modT fun u => u.ws sd 0
    else modT fun u => u.ws sd 1

/-! ## Eviction (R406) -/

/-- A block that eviction may choose. -/
def Block.evictable (k : KvPool) (e : Block) : Bool :=
  e.st == .live && e.fill == k.p && e.pin == 0 && e.ref == 1 && !e.sh && !e.ro

/-- Scans `n` blocks from block `b` on for at most `want` victims: the victims with their directory entries, and the block after
the last one scanned. -/
def selectVictims (k : KvPool) : Nat → Nat → Nat → M (List (Nat × Nat) × Nat)
  | 0, b, _ => pure ([], b)
  | _ + 1, b, 0 => pure ([], b)
  | n + 1, b, want + 1 => do
    let e ← getBlock k b
    let next := (b + 1) % k.nblk
    let dir ← if e.evictable k then findDir k (fun x => x.st == .free) (dirSlots k e.seq e.lblk) else pure none
    match dir with
    | none => selectVictims k n next (want + 1)
    | some (x, _) => do
      poolPutBytes k.h (k.dirOff x) { e with st := .live }.bytes
      putBlock k b { e with st := .evicting }
      let (vs, last) ← selectVictims k n next want
      pure ((b, x) :: vs, last)

/-- The accesses of an eviction or a pull are checked as those of a copy. -/
def frameChecks (dst src : Handle) (doff soff n : Nat) : M Unit := copyRowCheck dst src doff soff n

/-- KVEVICT's selection step (R406). The arming check comes before the others (R72); SD and s(SB) are own checks (R396, R397). -/
def execKvevict (p : Pred) (trig : Trig) (sd sb h : Nat) (fset : BitVec 12) (s : State) : Host.Outcome State Fault Refusal :=
  let i : Instr := .kvevict p trig sd sb h fset
  runWord .q p i s fun t => do
    let n := (t.rs sb).toNat
    armCheck i 0 trig.armed
    let k ← openPool h [] false [⟨84, 4, .write⟩]
    check (decide (sd ≤ 62) && decide (1 ≤ n) && decide (n ≤ 64)) cILLFN (iword i)
    check (k.ldir != 0) cKVSEQ (w64 k.addr)
    let from_ ← poolNat k.h 84 4
    let (vs, last) ← selectVictims k k.nblk from_ n
    poolPut k.h 84 4 last
    if vs.isEmpty then modT fun u => (u.ws sd s.cycle).ws (sd + 1) 0
    else do
      let hr ← useHandle k.phnd
      checkEach (fun (v : Nat × Nat) => frameChecks hr k.h (v.2 * k.stride) (k.blockOff v.1) k.stride) vs
      let regions ← footprintSet fset.toNat
      let armed ← armTake trig.armed
      let pr ← promiseFor regions (ceilDiv (vs.length * k.stride) 32) 0
      let _ ← issueJob (.kvevict k hr vs) .cp (some trig.tag) armed regions (some pr) []
      modT fun u => (u.ws sd (w64 pr)).ws (sd + 1) (w64 vs.length)

/-- Directory entry `n` is invalidated if it is still that of a block: a freed entry may have gone to another one. -/
def dropDirOf (k : KvPool) (e : Block) (n : Nat) : M Unit := do
  let l ← poolBytes k.h (k.dirOff n) 32
  let d := Block.of l
  if d.isKey e.seq e.lblk && d.bslot == e.bslot && d.bpos == e.bpos then dropDir k n

/-- Each victim is freed; one whose REF reached 0 meanwhile leaves the directory too. -/
def finishEvict (k : KvPool) : List (Nat × Nat) → M (List Nat)
  | [] => pure []
  | (b, x) :: r => do
    let e ← getBlock k b
    if e.ref = 0 then dropDirOf k e x
    let bs ← finishEvict k r
    pure (b :: bs)

/-- An ATTN issued before a job is still in a queue: its block reads come first (R406, R411). -/
def State.attnBefore (s : State) (j : Job) : Bool :=
  s.tasks.any fun t => t.vf == j.vf && t.mx.queue.any fun o =>
    decide (o.since ≤ j.id) && (match o.kind with | .attn _ => true | _ => false)

/-- A KVLOOK.ld that a task holds part-way still reads a victim: it was issued before the selection, since after it none loads
(R406, R411). -/
def State.lookBefore (s : State) (j : Job) (k : KvPool) (vs : List (Nat × Nat)) : Bool :=
  s.tasks.any fun t => t.vf == j.vf && t.vstart != 0 && (match t.resume with
    | some r =>
      (t.tin || r.pc == t.pc) && (match r.instr with | .kvlookLd .. => true | _ => false) &&
        vs.any fun v => r.order.contains (k.h.addr (k.blockOff v.1))
    | none => false)

/-- The block reads issued before an eviction are still to be made. -/
def State.evictHeld (s : State) (j : Job) (k : KvPool) (vs : List (Nat × Nat)) : Bool := s.attnBefore j || s.lookBefore j k vs

/-- KV_EVICT_COMPLETE (R406): the copy of a job to its end or its pause, then the completion step. -/
def execKvEvictComplete (j : Nat) (s : State) : Host.Outcome State Fault Refusal :=
  match s.workJob? j with
  | none => .next s
  | some jb =>
    match jb.kind, s.task? jb.task with
    | .kvevict k hr vs, some t =>
      if !s.copyReady t jb || s.evictHeld jb k vs then .next s
      else
        let v (x : Nat) : Nat × Nat := vs.getD (x / k.stride) (0, 0)
        let dst (x : Nat) : Nat := hr.addr ((v x).2 * k.stride + x % k.stride)
        let src (x : Nat) : Nat := k.h.addr (k.blockOff (v x).1 + x % k.stride)
        match engineRun s t (moveBytes jb hr k.h dst src jb.progress (vs.length * k.stride - jb.progress)) with
        | .error _ => .next s
        | .ok ((n, e, due), s) =>
          let jb := { jb with progress := n, dues := addDues jb.dues due.toList }
          let finish (jb : Job) : State := s.poolStep t jb do
            let bs ← finishEvict k vs
            freeBlocks k bs
          match e with
          | .done => .next (finish jb)
          | .outside a => .next (finish { jb with dues := addDues jb.dues [(cFOOT, w64 a)] })
          | .paused c a => .next (s.pauseJob jb c a)
          | .held => .next (s.setJob jb)
    | _, _ => .next s

/-! ## Pulls (R407) -/

/-- KVPULL's issue step (R407). The arming check comes before the others (R72). -/
def execKvpull (p : Pred) (trig : Trig) (sd sa sb h : Nat) (fset : BitVec 12) (s : State) : Host.Outcome State Fault Refusal :=
  let i : Instr := .kvpull p trig sd sa sb h fset
  runWord .q p i s fun t => do
    let off := (t.rs sa).toNat
    armCheck i 0 trig.armed
    let k ← openPool h [off] false
    let d ← readDesc k off
    let l := (t.rs sb).toNat
    match ← resolve k d l with
    | some _ => modT fun u => u.ws sd (w64 (2 ^ 63 + 1))
    | none => do
      match ← lookupDir k (d.key l) l with
      | none => trap cKVPULL (w64 (k.h.addr off))
      | some (x, e) => do
        let b ← allocBlock k
        insertBlock k b { e with st := .remote }
        let hr ← useHandle k.phnd
        frameChecks k.h hr (k.blockOff b) (x * k.stride) k.stride
        let regions ← footprintSet fset.toNat
        let armed ← armTake trig.armed
        let pr ← promiseFor regions (ceilDiv k.stride 32) 0
        let _ ← issueJob (.kvpull k hr b x) .cp (some trig.tag) armed regions (some pr) []
        modT fun u => u.ws sd (w64 pr)

/-- The completion step of a pull. -/
def finishPull (k : KvPool) (b x : Nat) : M Unit := do
  let e ← getBlock k b
  if e.st = .remote then putBlock k b { e with st := .live }
  dropDir k x

/-- KV_PULL_COMPLETE (R407): the copy of a job to its end or its pause, then the completion step. -/
def execKvPullComplete (j : Nat) (s : State) : Host.Outcome State Fault Refusal :=
  match s.workJob? j with
  | none => .next s
  | some jb =>
    match jb.kind, s.task? jb.task with
    | .kvpull k hr b x, some t =>
      if !s.copyReady t jb then .next s
      else
        let dst (y : Nat) : Nat := k.h.addr (k.blockOff b + y)
        let src (y : Nat) : Nat := hr.addr (x * k.stride + y)
        match engineRun s t (moveBytes jb k.h hr dst src jb.progress (k.stride - jb.progress)) with
        | .error _ => .next s
        | .ok ((n, e, due), s) =>
          let jb := { jb with progress := n, dues := addDues jb.dues due.toList }
          match e with
          | .done => .next (s.poolStep t jb (finishPull k b x))
          | .outside a => .next (s.poolStep t { jb with dues := addDues jb.dues [(cFOOT, w64 a)] } (finishPull k b x))
          | .paused c a => .next (s.pauseJob jb c a)
          | .held => .next (s.setJob jb)
    | _, _ => .next s

end Sys2Proof.Machine
end

