-- ==== Sys2Proof/Machine/Contract.lean ====
section
/-! DEFINITION. CONTRACT: OPC 0x74, FN 2 (R380 to R382), and its blocks on the matrix unit. -/

namespace Sys2Proof.Machine

/-! ## The parameter block (R380, R381) -/

/-- An operand descriptor. -/
structure OperandDesc where
  off : Nat
  hn : Nat
  letters : List Nat
deriving DecidableEq, Repr

/-- The descriptor that 16 bytes hold, if they keep to R380 for `nidx` letters. -/
def OperandDesc.of (nidx : Nat) (b : List Byte) : Option OperandDesc :=
  let g (i n : Nat) := leNat ((b.drop i).take n)
  let ndim := g 9 1
  let ls := (List.range ndim).map fun k => g (10 + k) 1
  if g 0 8 < 2 ^ 56 ∧ 1 ≤ ndim ∧ ndim ≤ 4 ∧ (ls.all fun l => decide (l < nidx)) ∧ ls.Nodup ∧ g (10 + ndim) (6 - ndim) = 0 then
    some ⟨g 0 8, g 8 1, ls⟩
  else none

/-- The fields of a parameter block. -/
structure ContractBlock where
  acc : Bool
  sat : Bool
  rm : Rm
  tile : Nat
  exts : List Nat
  a : OperandDesc
  b : OperandDesc
  c : OperandDesc
deriving DecidableEq, Repr

/-- A rounding mode by its code (R116). -/
def rmOf : Nat → Option Rm
  | 0 => some .rne | 1 => some .rtz | 2 => some .rup | 3 => some .rdn | 4 => some .rto | _ => none

/-- Every letter is where R381 wants it. -/
def lettersOk (nidx : Nat) (la lb lc : List Nat) : Bool :=
  (List.range nidx).all fun l =>
    if lc.contains l then la.contains l || lb.contains l else la.contains l && lb.contains l

/-- The parameter block that 128 bytes hold, if they pass the first check of R381. -/
def ContractBlock.of (b : List Byte) : Option ContractBlock :=
  let g (i n : Nat) := leNat ((b.drop i).take n)
  let nidx := g 2 1
  let f := g 3 1
  let exts := (List.range 8).map fun k => g (8 + 2 * k) 2
  if g 0 2 = 0x0100 ∧ 1 ≤ nidx ∧ nidx ≤ 8 ∧ f < 128 ∧ g 4 4 = 0 ∧ g 24 40 = 0 ∧ g 112 16 = 0 ∧
      ((exts.drop nidx).all (· == 0)) then
    match rmOf (fld f 2 3), OperandDesc.of nidx ((b.drop 64).take 16), OperandDesc.of nidx ((b.drop 80).take 16),
        OperandDesc.of nidx ((b.drop 96).take 16) with
    | some rm, some x, some y, some z =>
      if lettersOk nidx x.letters y.letters z.letters then
        some ⟨bitOf f 0, bitOf f 1, rm, fld f 5 2, exts.map (· + 1), x, y, z⟩
      else none
    | _, _, _, _ => none
  else none

/-! ## Issue (R361, R381) -/

/-- A tile operand at issue: its preamble's address, the tile, and what its reads bring. -/
structure ContractTile where
  pre : Nat
  m : MemTile
  due : Option (Nat × Word)
deriving DecidableEq, Repr

/-- A source in the honey store lies on the task's own die (R343, R381). -/
def sourceDie (source : Bool) (h : Handle) (o n : Nat) : M Unit :=
  if source && h.space = .honey && n ≠ 0 then onOwnDie h o n else pure ()

/-- Reads an operand's preamble and makes the checks of R78 that it alone needs; a source lies in any space but COMBLIN. -/
def contractTile (source : Bool) (d : OperandDesc) : M ContractTile := do
  let h ← useHandle d.hn
  checkBound h d.off 64
  check (!(source && h.space = .comblin)) cPROT (w64 (h.addr d.off))
  sourceDie source h d.off 64
  let (m, b, a, due) ← readPreamble h d.off
  check (m.headOk b) cCAPCHECK (w64 a)
  pure ⟨a, m, due⟩

/-- Rank and extents are those of the letters (R381). -/
def contractShape (exts : List Nat) (d : OperandDesc) (x : ContractTile) : M Unit :=
  check (x.m.cap.rank + 1 == d.letters.length &&
    ((List.range d.letters.length).all fun k => x.m.cap.ext k == exts.getD (d.letters.getD k 0) 0)) cSHAPE (w64 x.pre)

/-- What R343 accepts of a source tile. -/
def contractSource (x : ContractTile) : M Unit :=
  check ((x.m.cap.spr == 0 || x.m.cap.spr == 2 || x.m.cap.spr == 3) && (x.m.cap.zp == 0 || x.m.cap.scl != 0))
    cUNSUPPORTED (w64 x.pre)

/-- The formats of C (R381). -/
def contractTarget (c : Cap) : Bool :=
  c.scl == 0 && c.spr == 0 && (match c.f with
    | .fp _ => true
    | .sint n | .uint n => decide (n ≤ 32)
    | _ => false)

/-- Positions that the metadata keep in column `i` of group `g` along D1 (R99). -/
def keptDown (c : Cap) (md : List Byte) (i row0 rest : Nat) : Nat :=
  ((List.range 4).filter fun k =>
    let f := i + c.ext 0 * (row0 + k + c.ext 1 * rest)
    let (x, y) := groupPos md (f / 4)
    f % 4 == x || f % 4 == y).length

/-- The statement of R99 about the groups along D1. -/
def columnsOk (c : Cap) (md : List Byte) : Bool :=
  (List.range (c.ext 0)).all fun i => (List.range (c.ext 1 / 4)).all fun g => (List.range (c.ext 2 * c.ext 3)).all fun r =>
    decide (keptDown c md i (4 * g) r ≤ 2)

/-- A source's metadata, read and checked; for SPR 3, R99 too where the letter of D1 is contracted. -/
def contractMeta (x : ContractTile) (d : OperandDesc) (lc : List Nat) : M (TileMeta × Option (Nat × Word)) := do
  if x.m.cap.spr ≠ 0 then sourceDie true x.m.h (x.m.o + x.m.moff) x.m.cap.metaSize
  let (md, due) ← readMeta x.m x.pre
  let down := x.m.cap.spr == 3 && (match d.letters[1]? with | some l => !lc.contains l | none => false)
  check (!down || columnsOk x.m.cap md.bytes) cCAPCHECK (w64 x.pre)
  pure (md, due)

/-- Checks 2 to 6 of R134 over a piece of an element. -/
def contractPiece (m : MemTile) (acc : Acc) (x : Piece) : M Unit := do
  let _ ← checkStatic m.h (m.o + m.poff + x.off) x.bytes acc m.cap.f.align
  pure ()

/-- Checks 2 to 6 of R134 over an element of a tile, its scale included. -/
def contractElem (m : MemTile) (md : TileMeta) (acc : Acc) (f : Nat) : M Unit := do
  match m.pieces md f with
  | none => pure ()
  | some ps => checkEach (contractPiece m acc) ps
  if m.cap.scl = 0 then pure ()
  else do
    let n := m.cap.scaleSize
    let _ ← checkStatic m.h (m.o + m.soff + m.cap.scaleIndex f * n) n acc 1
    pure ()

/-- The block of an instruction, its failing bytes as zero (R200). -/
def zeroBad (l : List (Byte × Bool)) : List Byte := l.map fun p => if p.2 then 0 else p.1

/-- Checks 2 to 6 of R134 over every element of a source, and the die of its scales and its payload. -/
def contractSourceElems (x : ContractTile) (md : TileMeta) : M Unit := do
  checkEach (contractElem x.m md .read) (List.range x.m.cap.count)
  sourceDie true x.m.h (x.m.o + x.m.soff) (x.m.cap.scales * x.m.cap.scaleSize)
  sourceDie true x.m.h (x.m.o + x.m.poff) x.m.plen

/-- CONTRACT (R380, R381): its checks, then a job for the footprint scheduler and an operation of the matrix queue (DEDUCED, log 44). -/
def execContract (p : Pred) (trig : Trig) (sa h : Nat) (fset : BitVec 12) (s : State) : Host.Outcome State Fault Refusal :=
  let i : Instr := .contract p trig sa h fset
  runWord .whole p i s fun t => do
    armCheck i 2 trig.armed
    let hd ← useHandle h
    let o := (t.rs sa).toNat
    let a ← checkAccess hd o 128 .read 64
    let l ← readTileBytes hd a 128
    match ContractBlock.of (zeroBad l) with
    | none => trap cILLFN (iword i)
    | some k => do
      needGrant i t
      let x ← contractTile true k.a
      let y ← contractTile true k.b
      let z ← contractTile false k.c
      let inf := mxInfer x.m.cap y.m.cap false k.sat
      let scaled := x.m.cap.scl != 0 || y.m.cap.scl != 0
      let fp := mxFp x.m.cap.f y.m.cap.f scaled
      check inf.mismatch.isNone cMISMATCH (w64 x.pre)
      contractShape k.exts k.a x
      contractShape k.exts k.b y
      contractShape k.exts k.c z
      check (!mxRefused x.m.cap.f) cUNSUPPORTED (w64 x.pre)
      check (!(k.sat && fp)) cUNSUPPORTED (w64 x.pre)
      contractSource x
      check (!mxRefused y.m.cap.f) cUNSUPPORTED (w64 y.pre)
      contractSource y
      check (contractTarget z.m.cap) cUNSUPPORTED (w64 z.pre)
      check (!z.m.cap.ro) cROWRITE (w64 z.pre)
      check (!(t.tptrap && x.m.cap.poison)) cPOISON (w64 x.pre)
      check (!(t.tptrap && y.m.cap.poison)) cPOISON (w64 y.pre)
      check (!(t.tptrap && k.acc && z.m.cap.poison)) cPOISON (w64 z.pre)
      let (mx, d1) ← contractMeta x k.a k.c.letters
      let (my, d2) ← contractMeta y k.b k.c.letters
      contractSourceElems x mx
      contractSourceElems y my
      if k.acc then checkEach (contractElem z.m ⟨[], []⟩ .read) (List.range z.m.cap.count)
      checkEach (contractElem z.m ⟨[], []⟩ .write) (List.range z.m.cap.count)
      let _ ← checkStatic z.m.h z.m.o 64 .write 64
      let regions ← footprintSet fset.toNat
      let armed ← armTake trig.armed
      let s ← getS
      let j ← issueJob .contract .mx (some (16 + trig.tag)) none regions none []
      let dues := addDues [] ([badDue hd a l, x.due, y.due, z.due, d1, d2].filterMap id)
      let op : MxOp :=
        { kind := .contract { job := j, acc := k.acc, sat := k.sat, rm := k.rm, t := k.tile, exts := k.exts, a := x.m.ref mx, b := y.m.ref my,
                              c := z.m.ref ⟨[], []⟩, la := k.a.letters, lb := k.b.letters, lc := k.c.letters,
                              d := (mxDepth x.m.cap.f y.m.cap.f).getD 1, fp := fp }
          armed := armed, tag := some trig.tag, step := 0, paused := none, flags := 0, dues := dues, since := s.nextJob, rows := [] }
      modT fun u => { u with mx := { u.mx with queue := u.mx.queue ++ [op] } }

/-! ## The blocks (R382) -/

/-- The value of a letter at point `n` of some letters, the first varying fastest. -/
def letterAt (exts : List Nat) : List Nat → Nat → Nat → Nat
  | [], _, _ => 0
  | l :: ls, n, x => if l = x then n % exts.getD l 1 else letterAt exts ls (n / exts.getD l 1) x

/-- The flat index of an operand's element at an assignment of letters (R79). -/
def flatAt (exts : List Nat) (v : Nat → Nat) : List Nat → Nat
  | [] => 0
  | l :: ls => v l + exts.getD l 1 * flatAt exts v ls

/-- The letters contracted, ascending. -/
def ContractOp.summed (o : ContractOp) : List Nat := (List.range o.exts.length).filter fun l => (o.la.contains l || o.lb.contains l) && !o.lc.contains l

/-- Number of points of some letters. -/
def pointsOf (exts : List Nat) (ls : List Nat) : Nat := (ls.map fun l => exts.getD l 1).foldl (· * ·) 1

/-- Raises MEM.FOOT as the stop of a job at a byte outside its footprint (R171). -/
def inFootprint (ok : Nat → Bool) (a n : Nat) : M Unit :=
  match firstOutside ok a n with
  | some x => trap cFOOT (w64 x)
  | none => pure ()

/-- The pieces of an element, and its scale, lie in the footprint. -/
def elemInFootprint (j : Job) (r : TileRef) (f : Nat) : M Unit := do
  let m := r.tile
  match m.pieces r.data f with
  | none => pure ()
  | some ps => checkEach (fun (x : Piece) => inFootprint (j.mayRead r.h.space) (r.h.addr (r.o + r.poff + x.off)) x.bytes) ps
  if m.cap.scl = 0 then pure ()
  else inFootprint (j.mayRead r.h.space) (r.h.addr (r.o + r.soff + m.cap.scaleIndex f * m.cap.scaleSize)) m.cap.scaleSize

/-- The operand values of contracted points `c` to `c + n - 1` at an output point. -/
def contractPairs (j : Job) (o : ContractOp) (v : Nat → Nat) (c : Nat) : Nat → M (List (Val × Val) × Flags × List (Nat × Word))
  | 0 => pure ([], 0, [])
  | n + 1 => do
    let w (l : Nat) : Nat := if o.lc.contains l then v l else letterAt o.exts o.summed c l
    let fa := flatAt o.exts w o.la
    let fb := flatAt o.exts w o.lb
    elemInFootprint j o.a fa
    elemInFootprint j o.b fb
    let (x, fl, due) ← o.a.elemVal fa
    let (y, fl', due') ← o.b.elemVal fb
    let (r, fl'', due'') ← contractPairs j o v (c + 1) n
    pure ((x, y) :: r, fl ||| fl' ||| fl'', addDues (addDues due.toList due'.toList) due'')

/-- What an output point has gathered. -/
structure PointRun where
  acc : BitVec 32
  flags : Flags
  clamped : Bool
  dues : List (Nat × Word)
deriving DecidableEq, Repr

/-- The K steps of an output point: `n` groups from contracted point `c` on, of `total`. -/
def contractSteps (j : Job) (o : ContractOp) (v : Nat → Nat) (total c : Nat) : Nat → PointRun → M PointRun
  | 0, r => pure r
  | n + 1, r => do
    let (ps, fl, due) ← contractPairs j o v c (min o.d (total - c))
    let (w, fl', cl) := accStep o.fp o.sat o.rm r.acc (dotVal o.rm ps)
    contractSteps j o v total (c + o.d) n ⟨w, r.flags ||| fl ||| fl', r.clamped || cl, addDues r.dues due⟩

/-- A value clamps in its conversion into an integer format, an infinity included (R124); NaN does not. -/
def clampsInto (f : Fmt) (rm : Rm) (v : Val) : Bool :=
  match f, v with
  | .fp _, _ | .bit, _ | .none, _ | _, .nan _ => false
  | _, .inf _ => true
  | f, v => (f.clamp (v.toInt rm).1).2

/-- One output point (R382): the bits of C's element, and what its computation brings; an integer clamp, of an FP32 accumulator too, sets
SATSEEN. -/
def contractPoint (j : Job) (o : ContractOp) (f : Nat) : M (Nat × PointRun) := do
  let v := letterAt o.exts o.lc f
  let c := Cap.of o.c.cap
  let start ← if o.acc then (do
      elemInFootprint j o.c f
      let (x, fl, due) ← o.c.elemVal f
      let (b, fl', cl) := convertVal (accFmt o.fp) o.rm x
      pure (⟨BitVec.ofNat 32 b, fl ||| fl', cl, due.toList⟩ : PointRun))
    else pure ⟨0, 0, false, []⟩
  let total := pointsOf o.exts o.summed
  let r ← contractSteps j o v total 0 (ceilDiv total o.d) start
  let acc := r.acc.toNat
  let (b, fl, cl) := convert (accFmt o.fp) c.f 0 o.rm acc
  pure (b, { r with flags := r.flags ||| fl, clamped := r.clamped || cl || clampsInto c.f o.rm ((accFmt o.fp).val 0 acc) })

/-- The output points of a list. -/
def contractPoints (j : Job) (o : ContractOp) : List Nat → M (List (Nat × Nat) × PointRun)
  | [] => pure ([], ⟨0, 0, false, []⟩)
  | f :: fs => do
    let (b, r) ← contractPoint j o f
    let (bs, r') ← contractPoints j o fs
    pure ((f, b) :: bs, ⟨0, r.flags ||| r'.flags, r.clamped || r'.clamped, addDues r.dues r'.dues⟩)

/-- Writes an element of a dense tile as an engine: whole bytes, or a masked part of one. -/
def enginePut (ok : Nat → Bool) (r : TileRef) (f x : Nat) : List Piece → M Unit
  | [] => pure ()
  | p :: ps => do
    let g := (Cap.of r.cap).f
    let a := r.h.addr (r.o + r.poff + p.off)
    inFootprint ok a p.bytes
    if 8 ≤ g.container then engineWrite r.h .write a (leBytes p.bytes (containerBits g x))
    else do
      sideWrite r.h
      let (b, _) ← asAcc .write (readByte r.h true false .write a)
      let old := b.toNat
      asAcc .write (writeByte r.h true false .write a (BitVec.ofNat 8 (old - fld old p.bit p.n * 2 ^ p.bit + x % 2 ^ p.n * 2 ^ p.bit)))
    enginePut ok r f x ps

/-- Writes the elements of a block until one cannot be written: the number written, and the failure. -/
def putPoints (ok : Nat → Bool) (r : TileRef) : List (Nat × Nat) → M (Nat × Option Stop)
  | [] => pure (0, none)
  | (f, x) :: l => do
    let c := Cap.of r.cap
    match ← attempt (enginePut ok r f x (pieces c.f 0 c.count f)) with
    | .error e => pure (0, some e)
    | .ok _ =>
      let (n, e) ← putPoints ok r l
      pure (n + 1, e)

/-- The tile and the scratch columns that a block overwrites hold free values (R382). -/
def contractScratch (o : ContractOp) (poison clamped : Bool) : M Unit := do
  let t ← getT
  let s ← getS
  let n := 128 * t.mxRows
  let words := (List.range n).foldl (fun w k => setWordAt w k ((Config.freeWord (s.fresh + k)).setWidth 32)) []
  let cap := tileCap (accFmt o.fp) t.mxRows poison clamped
  setS { s with fresh := s.fresh + n + 41 }
  modT fun u => (List.range 40).foldl (fun u k => u.setCol (216 + k) (Config.freeColumn (s.fresh + n + 1 + k) % 2 ^ u.vlmax))
    (u.putTile o.t { words := words, cap := cap.bits, bad := [] } ((Config.freeWord (s.fresh + n)).setWidth 16))

/-- A target's cap in its preamble, when the operation has clamped or met POISON. -/
def contractCap (ok : Nat → Bool) (r : TileRef) (cap : BitVec 128) : M Unit :=
  if cap = r.cap then pure ()
  else do
    inFootprint ok (r.h.addr r.o) 16
    engineWrite r.h .write (r.h.addr r.o) (leBytes 16 cap.toNat)

/-- One block of CONTRACT (R382): the operation as it then stands, and how the block ended. `step` counts C's elements
written; a block that is paused keeps whether it has clamped. -/
def contractOp (op : MxOp) (j : Job) (o : ContractOp) : M (MxOp × Option Stop) := do
  let t ← getT
  let c := Cap.of o.c.cap
  let size := 128 * t.mxRows
  let stop := min c.count ((op.step / size + 1) * size)
  let (vals, run) ← contractPoints j o ((List.range stop).drop op.step)
  let srcs := [Cap.of o.a.cap, Cap.of o.b.cap] ++ (if o.acc then [c] else [])
  let poison := !op.dues.isEmpty || !run.dues.isEmpty || srcs.any (·.poison)
  let clamped := o.clamped || run.clamped
  let sat := clamped || srcs.any (·.satseen)
  contractScratch o poison sat
  let cap := if poison || sat then { c with poison := c.poison || poison, satseen := c.satseen || sat }.bits else o.c.cap
  let (n, e) ← putPoints (j.mayWrite o.c.h.space) o.c vals
  let op := { op with step := op.step + n, flags := op.flags ||| run.flags, dues := addDues op.dues run.dues }
  let held : MxOp := { op with kind := .contract { o with clamped := clamped } }
  match e with
  | some e => pure (held, some e)
  | none => do
    match ← attempt (contractCap (j.mayWrite o.c.h.space) o.c cap) with
    | .error e => pure (held, some e)
    | .ok _ => pure ({ op with kind := .contract { o with c := { o.c with cap := cap }, clamped := false } }, none)

/-- All of C is written. -/
def ContractOp.complete (o : ContractOp) (step : Nat) : Bool := decide ((Cap.of o.c.cap).count ≤ step)

end Sys2Proof.Machine
end

