-- ==== Sys2Proof/Machine/Pass.lean ====
section
/-! DEFINITION. Passes, search and comb control: OPC 0x48 (R278 to R285, R311 to R314). -/

namespace Sys2Proof.Machine

/-! ## Passes (R278 to R285) -/

/-- What a pass word asks for: a logic pass (R279) or a search pass (R280). -/
inductive PassOp where
  | logic (ca cb dc ta tb dt tt1 tt0 : Nat)
  | search (cb wm1 dc ta dt tt1 tt0 : Nat)
deriving DecidableEq, Repr

/-- A pass as it is issued: its operation, its control (R282), and the repetition, which moves the offsets of SEL 1 to 3. -/
structure PassStep where
  op : PassOp
  shift : Nat
  feed : Nat
  extd : Bool
  rep : Nat
deriving DecidableEq, Repr

/-- The fields of a pass word; none for KIND 2 and 3 and for a search word with nonzero low bits (R279 to R281). -/
def PassOp.of (w : Nat) : Option PassOp :=
  match fld w 62 2 with
  | 0 => some (.logic (fld w 54 8) (fld w 46 8) (fld w 38 8) (fld w 36 2) (fld w 34 2) (fld w 32 2) (fld w 16 16) (fld w 0 16))
  | 1 => if fld w 0 28 = 0 then
      some (.search (fld w 54 8) (fld w 48 6) (fld w 40 8) (fld w 38 2) (fld w 36 2) (fld w 32 4) (fld w 28 4))
    else none
  | _ => none

/-- The destination column specifier. -/
def PassOp.dc : PassOp → Nat
  | .logic _ _ dc .. => dc
  | .search _ _ dc .. => dc

/-- The column inputs of a pass. -/
def PassOp.sources : PassOp → List Nat
  | .logic ca cb .. => [ca, cb]
  | .search cb .. => [cb]

/-- The destination tag. -/
def PassOp.dt : PassOp → Nat
  | .logic _ _ _ _ _ dt _ _ => dt
  | .search _ _ _ _ dt _ _ => dt

/-- SEL of a column specifier (R278). -/
def cSel (c : Nat) : Nat := c / 64
/-- OFF of a column specifier (R278). -/
def cOff (c : Nat) : Nat := c % 64
/-- The specifier that names no column. -/
def cNone : Nat := 63

/-- The register that a specifier names, among those of VD, VA and VB (R278). -/
def cReg (vd va vb c : Nat) : Option Nat :=
  match cSel c with
  | 0 => none
  | 1 => some vd
  | 2 => some va
  | _ => some vb

/-- The control of a pass is legal: SHIFT and FEED are not 3, EXTD takes SEL 1, FEED 1 takes a column, and a feed has a
register to go to (R282). -/
def PassStep.ctlOk (x : PassStep) (bs : Bool) : Bool :=
  x.shift != 3 && x.feed != 3 && (!x.extd || cSel x.op.dc == 1) && !(x.feed == 1 && x.op.dc == cNone) && (x.feed == 0 || bs)

/-- A specifier may be read: not one of the unassigned, and its register is allocated (R278). -/
def Task.canRead (t : Task) (vd va vb c : Nat) : Bool :=
  match cReg vd va vb c with
  | some n => (t.vreg n).isSome
  | none => decide (cOff c < 48) || c == cNone

/-- A specifier may be written: below the register's WIDTH, and not column 0 (R278). -/
def Task.canWrite (t : Task) (vd va vb rep c : Nat) : Bool :=
  match cReg vd va vb c with
  | some n => match t.vreg n with
    | some r => decide (cOff c + rep < r.width)
    | none => false
  | none => (decide (cOff c < 48) && cOff c != 40) || c == cNone

/-- The extent of a search's key fits (R280). -/
def searchFits (rep : Nat) : PassOp → Bool
  | .logic .. => true
  | .search cb wm1 .. => if cSel cb = 0 then decide (cOff cb + wm1 ≤ 39) else decide (cOff cb + rep + wm1 ≤ 63)

/-- A pass is legal for an instruction's registers; `bs` says that it has a scalar register (R278 to R282). -/
def Task.passOk (t : Task) (vd va vb : Nat) (bs : Bool) (x : PassStep) : Bool :=
  x.ctlOk bs && x.op.sources.all (fun c => t.canRead vd va vb c) && t.canWrite vd va vb x.rep x.op.dc && searchFits x.rep x.op &&
    (match x.op with | .search .. => bs | .logic .. => true)

/-- The column that a specifier reads: the stored column, or above the format's width its extension (R278). -/
def Task.passRead (t : Task) (vd va vb rep c j : Nat) : Nat :=
  match cReg vd va vb c with
  | some n =>
    let r := t.reg! n
    let off := cOff c + rep + j
    let w := r.c.f.width
    if off < w then t.col (r.base + off)
    else match r.c.f with
      | .sint _ | .bps => t.col (r.base + w - 1)
      | _ => 0
  | none =>
    let off := cOff c + j
    if off < 40 then t.col (216 + off) else if off < 48 then t.col (off - 40) else 0

/-- The column that a specifier writes. -/
def Task.passColumn (t : Task) (vd va vb rep c : Nat) : Option Nat :=
  match cReg vd va vb c with
  | some n => some ((t.reg! n).base + cOff c + rep)
  | none => if cOff c < 40 then some (216 + cOff c) else if cOff c < 48 then some (cOff c - 40) else none

/-- Cells where an index chosen by columns takes a set bit of a table; the columns are given most significant first. -/
def tableCells (all : Nat) : List Nat → Nat → Nat
  | [], table => if table % 2 = 1 then all else 0
  | c :: cs, table =>
    let half := 2 ^ 2 ^ cs.length
    (c &&& tableCells all cs (table / half)) ||| ((all ^^^ (all &&& c)) &&& tableCells all cs (table % half))

/-- Cells whose columns from a specifier on equal the key under the mask (R280, R283). -/
def Task.matchCells (t : Task) (vd va vb rep cb : Nat) (key mask : Word) (n : Nat) : Nat :=
  (List.range n).foldl (fun m j =>
    if mask.getLsbD j then
      let c := t.passRead vd va vb rep cb j
      m &&& (if key.getLsbD j then c else t.allCells ^^^ (t.allCells &&& c))
    else m) t.allCells

/-- The outputs o0 and o1 of a pass in every cell (R283). -/
def Task.passOut (t : Task) (vd va vb : Nat) (key mask : Word) (x : PassStep) : Nat × Nat :=
  let g (k : Nat) : Nat := t.tags.getD k 0
  let rd (c : Nat) : Nat := t.passRead vd va vb x.rep c 0
  match x.op with
  | .logic ca cb _ ta tb _ tt1 tt0 =>
    let l := [rd ca, rd cb, g ta, g tb]
    (tableCells t.allCells l tt0, tableCells t.allCells l tt1)
  | .search cb wm1 _ ta _ tt1 tt0 =>
    let l := [t.matchCells vd va vb x.rep cb key mask (wm1 + 1), g ta]
    (tableCells t.allCells l tt0, tableCells t.allCells l tt1)

/-- The tag output moved by SHIFT, with SFILL.VAL[0] where it comes from outside the VLC (R283). -/
def shiftTag (n shift o1 : Nat) (fill : Bool) : Nat :=
  match shift with
  | 1 => o1 * 2 % 2 ^ n + b2n fill
  | 2 => o1 / 2 + if fill then 2 ^ (n - 1) else 0
  | _ => o1

/-- The number of cells of a set. -/
def popCells (x n : Nat) : Nat := (cellsOf x n).length

/-- One pass (R283): the columns and tags of the active cells, and the sum that it feeds. -/
def Task.runPass (t : Task) (vd va vb : Nat) (sd : Nat) (r : Resume) (x : PassStep) : Task × Option (Nat × Word) :=
  let (o0, o1) := t.passOut vd va vb r.key r.mask x
  let dc := t.passColumn vd va vb x.rep x.op.dc
  let t1 := match dc with
    | some c => t.writeCol c r.active o0
    | none => t
  let t1 := if x.extd then
      let v := t.reg! vd
      let ext := match v.c.f with
        | .sint _ | .bps => o0
        | _ => 0
      let top := cOff x.op.dc + x.rep + 1
      (List.range (v.width - top)).foldl (fun u k => u.writeCol (v.base + top + k) r.active ext) t1
    else t1
  let old := t.tags.getD x.op.dt 0
  let moved := shiftTag t.vlmax x.shift o1 (bitOf r.sfill.toNat 0)
  let g := (old ^^^ (old &&& r.active)) ||| (moved &&& r.active)
  let t1 := { t1.clearMark (cReg vd va vb x.op.dc) with tags := t1.tags.set x.op.dt g }
  let sum := match x.feed with
    | 1 => some (popCells (o0 &&& r.active) t.vlmax)
    | 2 => some (popCells (g &&& r.active) t.vlmax)
    | _ => none
  (t1, sum.map fun n => (sd, w64 n))

/-- A pass as one number, as a resume record holds it: its word, its control and its repetition. -/
def packPass (word ctl rep : Nat) : Nat := word + 2 ^ 64 * (ctl + 2 ^ 8 * rep)

/-- The pass that a number holds; `ctl` has SHIFT, FEED and EXTD as AUX has them. -/
def unpackPass (x : Nat) : Option PassStep :=
  (PassOp.of (x % 2 ^ 64)).map fun op =>
    ⟨op, fld x 70 2, fld x 68 2, bitOf x 67, x / 2 ^ 72⟩

/-- The columns that a pass reads. -/
def Task.passReads (t : Task) (vd va vb : Nat) (x : PassStep) : List Nat :=
  let one (c j : Nat) : List Nat :=
    match cReg vd va vb c with
    | some n =>
      let r := t.reg! n
      let off := cOff c + x.rep + j
      if off < r.c.f.width then [r.base + off]
      else match r.c.f with
        | .sint w => [r.base + w - 1]
        | .bps => [r.base + 7]
        | _ => []
    | none => if cOff c + j < 40 then [216 + cOff c + j] else if cOff c < 48 then [cOff c - 40] else []
  match x.op with
  | .logic ca cb .. => one ca 0 ++ one cb 0
  | .search cb wm1 .. => (List.range (wm1 + 1)).flatMap fun j => one cb j

/-- The registers that column specifiers of some passes name. -/
def namedBy (vd va vb : Nat) (l : List PassStep) : List Nat :=
  l.flatMap fun x => (x.op.dc :: x.op.sources).filterMap fun c => cReg vd va vb c

/-- A register slot that no specifier names and that is not 0 must hold an allocated register (R311). -/
def Task.slotOk (t : Task) (slots : List Nat) (n : Nat) : Bool := n == 0 || slots.contains n || (t.vreg n).isSome

/-- The passes of PASS, SEARCH or PSEQ as the sequencer runs them: `passes` gives them as numbers, or none where a word is
illegal before its passes are looked at (R281, R282). -/
def passComb (i : Instr) (p : Pred) (vd va vb : Nat) (osb : Option Nat) (passes : State → Task → Option (List Nat)) : Comb where
  lanes := .cell
  prep := fun t => do
    let s ← getS
    match passes s t with
    | none => trap cILLFN (iword i)
    | some raw =>
      let steps := raw.map unpackPass
      let good := steps.filterMap id
      check (steps.all (·.isSome) && good.all fun x => t.passOk vd va vb osb.isSome x) cILLFN (iword i)
      let named := namedBy vd va vb good
      check (t.slotOk named vd && t.slotOk named va && t.slotOk named vb) cILLFN (iword i)
      match good.findSome? fun x => (cReg vd va vb x.op.dc).bind fun n =>
          if (t.reg! n).c.ro then some (n, cSel x.op.dc - 1) else none with
      | some (n, slot) => trap cROWRITE (capTval n slot)
      | none => pure { capture i p t with
          total := raw.length, order := raw, key := (osb.map t.rs).getD 0, mask := (osb.map fun n => t.rs (n + 1)).getD 0 }
  reads := fun r t => r.order.zipIdx.flatMap fun x => match unpackPass x.1 with
    | some y => (t.passReads vd va vb y).map fun c => (c, some (x.2 + 1))
    | none => []
  writes := fun t => [vd, va, vb].flatMap t.regCols
  stepped := fun _ => true
  pass := fun r k t => match unpackPass (r.order.getD k 0) with
    | some x => t.runPass vd va vb (osb.getD 0) r x
    | none => (t, none)
  leaves := fun _ => .stated
  finish := fun _ t => t

/-- The one pass of PASS and SEARCH, of the KIND that the instruction takes, with AUX as its control (R282, R312). -/
def rawPass (kind : Nat) (ctl : BitVec 8) (word : Word) : Option (List Nat) :=
  if fld word.toNat 62 2 = kind ∧ ctl.toNat % 8 = 0 then some [packPass word.toNat ctl.toNat 0] else none

/-- PASS (R312). -/
def combPass (p : Pred) (vd va vb : Nat) (osb : Option Nat) (ctl : BitVec 8) (word : Word) : Comb :=
  passComb (.pass p vd va vb osb ctl word) p vd va vb osb fun _ _ => rawPass 0 ctl word

/-- PASS, run from issue to completion. -/
def execPass (p : Pred) (vd va vb : Nat) (osb : Option Nat) (ctl : BitVec 8) (word : Word) (s : State) :
    Host.Outcome State Fault Refusal :=
  runComb p (.pass p vd va vb osb ctl word) (combPass p vd va vb osb ctl word) s

/-- SEARCH (R312). -/
def combSearch (p : Pred) (vd va vb sb : Nat) (ctl : BitVec 8) (word : Word) : Comb :=
  passComb (.search p vd va vb sb ctl word) p vd va vb (some sb) fun _ _ => rawPass 1 ctl word

/-- SEARCH, run from issue to completion. -/
def execSearch (p : Pred) (vd va vb sb : Nat) (ctl : BitVec 8) (word : Word) (s : State) : Host.Outcome State Fault Refusal :=
  runComb p (.search p vd va vb sb ctl word) (combSearch p vd va vb sb ctl word) s

/-- Entry `k` of a hive's pass table: its word and control word (R284). -/
def Hive.passEntry (h : Hive) (k : Nat) : Word × Word :=
  match h.passes.find? (·.1 == k) with
  | some e => e.2
  | none => if k < Config.passUser then (Config.stdPassWord k, Config.stdPassControl k) else (0, Config.passReset)

/-- The passes of entry `k`, its repetitions in order; none where its control word has nonzero bits that must be zero. -/
def Hive.entryPasses (h : Hive) (k : Nat) : Option (List Nat) :=
  let (w, c) := h.passEntry k
  if fld c.toNat 0 52 = 0 then
    some ((List.range (fld c.toNat 52 6 + 1)).map fun i => packPass w.toNat (fld c.toNat 59 5 * 8) i)
  else none

/-- The passes of the sequence from entry `k`, of which `fuel` entries are left in the table (R285). -/
def Hive.sequence (h : Hive) : Nat → Nat → Option (List Nat)
  | 0, _ => some []
  | n + 1, k =>
    match h.entryPasses k with
    | none => none
    | some l =>
      if bitOf (h.passEntry k).2.toNat 58 then some l
      else (h.sequence n (k + 1)).map (l ++ ·)

/-- The entry that ends the sequence from entry `k` (R285). -/
def Hive.sequenceEnd (h : Hive) : Nat → Nat → Nat
  | 0, k => k - 1
  | n + 1, k => if bitOf (h.passEntry k).2.toNat 58 then k else h.sequenceEnd n (k + 1)

/-- START of a sequence word, whose KIND is 2 and whose other bits are zero (R281). -/
def seqStart (word : Word) : Option Nat :=
  if fld word.toNat 62 2 = 2 ∧ fld word.toNat 0 50 = 0 then some (fld word.toNat 50 12) else none

/-- PSEQ (R285, R312). The zeros of a sequence word (R281) are reserved bits of the instruction: nonzero raises INSN.RSVNZ (R211). -/
def combPseq (p : Pred) (vd va vb : Nat) (osb : Option Nat) (word : Word) : Comb :=
  let c := passComb (.pseq p vd va vb osb word) p vd va vb osb fun s t =>
    (seqStart word).bind fun k => (s.hive t.hive).sequence (Config.passEntries - k) k
  { c with prep := fun t => do
      check (fld word.toNat 62 2 != 2 || fld word.toNat 0 50 == 0) cRSVNZ (iword (.pseq p vd va vb osb word))
      c.prep t }

/-- PSEQ, run from issue to completion. -/
def execPseq (p : Pred) (vd va vb : Nat) (osb : Option Nat) (word : Word) (s : State) : Host.Outcome State Fault Refusal :=
  runComb p (.pseq p vd va vb osb word) (combPseq p vd va vb osb word) s

/-! ## PTLOAD (R313) -/

/-- An entry of a pass-table image keeps R279, R280 and R282 (DEDUCED, log 61). -/
def entryOk (w c : Nat) : Bool :=
  (PassOp.of w).isSome && fld c 0 52 == 0 &&
    (match unpackPass (packPass w (fld c 59 5 * 8) 0) with
     | some x => x.ctlOk true && searchFits 0 x.op
     | none => false)

/-- The entries that image bytes hold. -/
def imageEntries : Nat → List Byte → List (Nat × Nat)
  | 0, _ => []
  | n + 1, b => (leNat (b.take 8), leNat ((b.drop 8).take 8)) :: imageEntries n (b.drop 16)

/-- A PSEQ of the hive is in flight whose sequence reaches some of the entries (R313). One that a trap or a swap has stopped part-way is
not, and goes on with the passes that its record holds (DESIGN CHOICE, log 104). -/
def State.sequenceRuns (s : State) (h first count : Nat) : Bool :=
  s.tasks.any fun t => t.hive == h && t.place == .vlc &&
    (match t.resume with
     | some r => match r.instr with
       | .pseq _ _ _ _ _ word =>
         match seqStart word with
         | some k =>
           r.pc == t.pc && t.vstart != 0 && decide (k < first + count) &&
             decide (first ≤ (s.hive h).sequenceEnd (Config.passEntries - k) k)
         | none => false
       | _ => false
     | none => false)

/-- Writes pass-table entries from `k` on. -/
def Hive.writeEntries (h : Hive) : Nat → List (Nat × Nat) → Hive
  | _, [] => h
  | k, e :: es => { h with passes := (k, (w64 e.1, w64 e.2)) :: h.passes.filter (·.1 != k) }.writeEntries (k + 1) es

/-- Bytes of a pass-table image, read as a load of the control core reads, which sees that core's queued stores (R158) (DESIGN CHOICE,
log 35); an uncorrectable byte is raised precisely (DESIGN CHOICE, log 104). -/
def imageBytes (h : Handle) (a n : Nat) : M (List Byte) := do
  let l ← readTileBytes h a n
  raiseBad h a l
  let t ← getT
  pure (t.overlay 0 h.space a (bytesOf l))

/-- PTLOAD (R313). -/
def execPtload (p : Pred) (h sb : Nat) (s : State) : Host.Outcome State Fault Refusal :=
  let i : Instr := .ptload p h sb
  runWord .whole p i s fun t => do
    check t.sup cPRIV (iword i)
    let hd ← useHandle h
    let o := (t.rs sb).toNat
    let a ← checkAccess hd o 16 .read 16
    let b ← imageBytes hd a 16
    let first := leNat (b.take 2)
    let count := leNat ((b.drop 2).take 2)
    check (decide (Config.passUser ≤ first) && count != 0 && decide (first + count ≤ Config.passEntries) &&
      (b.drop 4).all (· == 0)) cILLFN (iword i)
    let a ← checkAccess hd (o + 16) (16 * count) .read 16
    let b ← imageBytes hd a (16 * count)
    let es := imageEntries count b
    check (es.all fun e => entryOk e.1 e.2) cILLFN (iword i)
    let s ← getS
    if s.sequenceRuns t.hive first count then stall
    else setS (s.setHive ((s.hive t.hive).writeEntries first es))

/-! ## VMWRITE, CMODE and VSCRUB (R314) -/

/-- VMWRITE: bits 0 to 63 of m(VD) from s(SB), the others 0 (R314). -/
def combVmwrite (p : Pred) (md sb : Nat) : Comb :=
  let i : Instr := .vmwrite p md sb
  { lanes := .whole
    prep := fun t => do
      check (decide (1 ≤ md) && decide (md ≤ 7)) cILLFN (iword i)
      pure { capture i p t with total := 1, key := t.rs sb }
    reads := fun _ _ => [], writes := fun _ => [md]
    stepped := fun _ => false, pass := fun _ _ t => (t, none), leaves := fun _ => .free
    finish := fun r t => t.setCol md (r.key.toNat % 2 ^ t.vlmax)
    whole := true }

/-- VMWRITE, run from issue to completion: it is never stopped part-way (R277). -/
def execVmwrite (p : Pred) (md sb : Nat) (s : State) : Host.Outcome State Fault Refusal :=
  runComb p (.vmwrite p md sb) (combVmwrite p md sb) s

/-- A lease ends: a mode switch that was held begins (R142, R143). -/
def Task.endLease (t : Task) : Task := { t with lease := none, linear := t.linear && !t.heldSwitch, heldSwitch := false }

/-- CMODE (R142, R314). -/
def execCmode (p : Pred) (sb : Nat) (s : State) : Host.Outcome State Fault Refusal :=
  let i : Instr := .cmode p sb
  runWord .whole p i s fun t => do
    let n := (t.rs sb).toNat
    check (decide (n ≤ 65535)) cILLFN (iword i)
    if n = 0 then setT t.endLease
    else do
      let s ← getS
      setT { t with lease := some (s.cycle.toNat + n), linear := true, heldSwitch := false }

/-- The columns of the LIVE groups: bit `k` of LIVE is columns 8k to 8k + 7. -/
def Task.liveCols (t : Task) : List Nat := (List.range 256).filter fun c => t.live.getLsbD (c / 8)

/-- VSCRUB (R314): a group that fails is poisoned and raises INTEG.COMBPAR with vstart 0. -/
def execVscrub (p : Pred) (s : State) : Host.Outcome State Fault Refusal :=
  let i : Instr := .vscrub p
  runFlow .whole p i s fun t => do
    awaitColumns t.liveCols []
    let fails := t.parityFails t.liveCols
    match (fails.map (·.2)).min? with
    | none => do
      modT fun t => { t with linear := true, heldSwitch := false }
      finishWord i id
    | some v =>
      let t := { fails.foldl (fun t f => t.poisonGroup f.1) t with linear := true, heldSwitch := false, vstart := 0, resume := none }
      modS fun s => s.takeTrap t cCOMBPAR (w64 v) t.pc

/-- A placed task's lease ends once its cycle has come (R142); that of a restored task goes on with its first instruction (R144). -/
def Task.expireLease (t : Task) (cycle : Nat) : Task :=
  match t.lease with
  | some l => if t.place = .vlc ∧ t.restored.isNone ∧ l ≤ cycle then t.endLease else t
  | none => t

/-- LEASE_EXPIRE (R142): the linear-mode lease of a task runs out. Every cycle makes this step for the leases that end in it. -/
def execLeaseExpire (t : Nat) (s : State) : Host.Outcome State Fault Refusal :=
  match s.task? t with
  | none => .next s
  | some u => .next (s.setTask (u.expireLease s.cycle.toNat))

/-- The combs of a task change mode (R141 to R143): to linear at once; to associative, unless a lease holds the request. -/
def execModeSwitch (t : Nat) (linear : Bool) (s : State) : Host.Outcome State Fault Refusal :=
  match s.task? t with
  | none => .next s
  | some u =>
    .next (s.setTask
      (if linear then { u with linear := true, heldSwitch := false }
       else if u.lease.isSome then { u with heldSwitch := true }
       else { u with linear := false, heldSwitch := false }))

end Sys2Proof.Machine
end

