-- ==== Sys2Proof/Machine/Reduce.lean ====
section
/-! DEFINITION. Reductions and rank (OPC 0x45: R126 to R129, R304 to R306), deferral (OPC 0x46: R66 to R68, R307 to R309) and
masks (OPC 0x47: R310). -/

namespace Sys2Proof.Machine

/-! ## Reductions -/

/-- Writes one value into every cell of a register (R305). -/
def Task.fillReg (t : Task) (vd : Nat) (f : Fmt) (x : Nat) : Task :=
  let r := t.reg! vd
  let v := fieldBits f r.width x
  (List.range r.width).foldl (fun t j => t.setCol (r.base + j) (if bitOf v j then t.allCells else 0)) t

/-- A reduction: what it accepts, the format of its result, its passes, and its value over the active elements, given with
their cells: the element's bits, the flags, and the bits of s(SB). -/
structure Reduction where
  accepts : Cap → Bool
  fmt : Cap → Fmt
  passes : Cap → Nat → Nat
  value : Cap → Nat → List (Nat × Nat) → Nat × Flags
  scalar : Fmt → Nat → Word

/-- The issue of a reduction of VA; `nov` writes no vector register (R304). A reduction takes no scratch of its own, a floating-point one
included (DESIGN CHOICE, log 94). -/
def Reduction.prep (x : Reduction) (i : Instr) (p : Pred) (nov : Bool) (vd va : Nat) (m : Modifier) (t : Task) : M Resume := do
  let a ← regOf i va
  let d ← if nov then pure none else do let r ← regOf i vd; pure (some r)
  if nov then pure () else overlapCheck i vd [(va, m, false)]
  let f := x.fmt a.c
  capChecks vd [a.operand 1 va]
    { mismatch := none, shapes := []
      unsupported := lowSlot (scratchOver [(m, a.c.readWidth)] 0) (if x.accepts a.c then none else some 1), fmt := f }
    (d.map fun r => (r, f.width))
  let stage := stagePasses m a.c.readWidth
  pure { capture i p t with
    total := stage + x.passes a.c t.vl, stage := stage, caps := [a.cap]
    result := (inferredCap f Cap.blank 0 0 [a.c]).bits }

/-- Completion of a reduction: every cell of VD, its cap, s(SB), the flags (R131, R305). -/
def Reduction.finish (x : Reduction) (nov : Bool) (vd va : Nat) (osb : Option Nat) (m : Modifier) (r : Resume) (t : Task) : Task :=
  let c := r.cap 0
  let (v, fl) := x.value c r.vl (r.cells.map fun e => (e, t.srcElem (t.reg! va).base c m r.vl r.sfill e))
  let f := (Cap.of r.result).f
  let t := t.orFlags fl
  let t := if nov then t else (t.fillReg vd f v).writeCap vd r.result
  match osb with
  | some sb => t.ws sb (x.scalar f v)
  | none => t

/-- A reduction as the sequencer runs it. -/
def Reduction.comb (x : Reduction) (i : Instr) (p : Pred) (nov : Bool) (vd va : Nat) (osb : Option Nat) (m : Option Mods) : Comb where
  lanes := .cell
  prep := x.prep i p nov vd va (modsOf m).a
  reads := fun _ t => (t.reg! va).readCols.map fun c => (c, none)
  writes := fun t => if nov then [] else t.regCols vd
  stepped := fun _ => false
  pass := fun _ _ t => (t, none)
  leaves := fun _ => .free
  finish := x.finish nov vd va osb (modsOf m).a
  cells := fun _ t => t.allCells

/-- The terms of a floating-point sum: the widened elements, −0.0 where inactive (R126). -/
def sumTerms (c : Cap) (vl : Nat) (xs : List (Nat × Nat)) : List Val :=
  (List.range vl).map fun e =>
    match xs.find? (·.1 == e) with
    | some (_, b) => c.f.val c.planes b
    | none => .fin true 0 0 false

/-- One addition, rounded into FP32: its bits and the flags so far. -/
def addFp32 (rm : Rm) (acc : Nat × Flags) (v : Val) : Nat × Flags :=
  let (b, fl) := fp32.round rm ((fp32.val acc.1).add rm v)
  (b, acc.2 ||| fl)

/-- VRSUM.O (R127). -/
def sumOrdered (rm : Rm) (vs : List Val) : Nat × Flags := vs.foldl (addFp32 rm) (2 ^ 31, 0)

/-- One level of the tree of R128: neighbours added. -/
def sumLevel (rm : Rm) : List Val → List Val × Flags
  | a :: b :: r =>
    let (x, fl) := fp32.round rm (a.add rm b)
    let (xs, fl') := sumLevel rm r
    (fp32.val x :: xs, fl ||| fl')
  | l => (l, 0)

/-- The tree of R128 over `2^k` terms. -/
def sumTree (rm : Rm) : Nat → List Val → Flags → Nat × Flags
  | 0, vs, fl =>
    let (b, fl') := fp32.round rm (vs.headD (.fin true 0 0 false))
    (b, fl ||| fl')
  | k + 1, vs, fl =>
    let (ws, fl') := sumLevel rm vs
    sumTree rm k ws (fl ||| fl')

/-- VRSUM.T (R128). -/
def sumPairwise (rm : Rm) (vs : List Val) : Nat × Flags :=
  let k := clog2 vs.length
  sumTree rm k (vs ++ List.replicate (2 ^ k - vs.length) (.fin true 0 0 false)) 0

/-- The exact sum of integer elements, modulo 2^64 (R129). -/
def sumInts (c : Cap) (xs : List (Nat × Nat)) : Nat :=
  ofInt 64 ((xs.map fun x => c.f.intVal c.planes x.2).sum)

/-- Whether a format counts as signed in an integer sum (R129). -/
def Fmt.signedSum : Fmt → Bool
  | .sint _ | .bps => true
  | _ => false

/-- VRSUM (R126 to R129). -/
def vrsum (tree : Bool) (rm : Rm) : Reduction where
  accepts := fun c => (c.f.isInt || c.f.isFp || c.f.isPlane) && c.zp == 0
  fmt := fun c => if c.f.isFp then .fp fp32 else if c.f.signedSum then .sint 64 else .uint 64
  passes := fun c vl =>
    if c.f.isFp then (if tree then 272 * clog2 vl + 32 else 240 * vl) else c.readWidth
  value := fun c vl xs =>
    if c.f.isFp then (if tree then sumPairwise rm (sumTerms c vl xs) else sumOrdered rm (sumTerms c vl xs))
    else (sumInts c xs, 0)
  scalar := fun _ x => w64 x

/-- VRSUM.O (R304). -/
def combVrsumO (p : Pred) (rm : Rm) (nov : Bool) (vd va : Nat) (osb : Option Nat) (m : Option Mods) : Comb :=
  let i : Instr := .vrsumO p rm nov vd va osb m
  (vrsum false rm).comb i p nov vd va osb m

/-- VRSUMO, run from issue to completion. -/
def execVrsumO (p : Pred) (rm : Rm) (nov : Bool) (vd va : Nat) (osb : Option Nat) (m : Option Mods) (s : State) :
    Host.Outcome State Fault Refusal :=
  runComb p (.vrsumO p rm nov vd va osb m) (combVrsumO p rm nov vd va osb m) s

/-- VRSUM.T (R304). -/
def combVrsumT (p : Pred) (rm : Rm) (nov : Bool) (vd va : Nat) (osb : Option Nat) (m : Option Mods) : Comb :=
  let i : Instr := .vrsumT p rm nov vd va osb m
  (vrsum true rm).comb i p nov vd va osb m

/-- VRSUMT, run from issue to completion. -/
def execVrsumT (p : Pred) (rm : Rm) (nov : Bool) (vd va : Nat) (osb : Option Nat) (m : Option Mods) (s : State) :
    Host.Outcome State Fault Refusal :=
  runComb p (.vrsumT p rm nov vd va osb m) (combVrsumT p rm nov vd va osb m) s

/-- The extreme of the active elements (R121, R305). -/
def extremeOf (mx : Bool) (c : Cap) (xs : List (Nat × Nat)) : Nat × Flags :=
  match xs with
  | [] => (0, 0)
  | (_, x) :: _ =>
    xs.foldl (fun acc y =>
      match c.f with
      | .fp g =>
        let (b, fl, _) := fpMinMax g .rne mx (g.val acc.1) (g.val y.2)
        (b, acc.2 ||| fl)
      | f => (if decide (f.intVal 0 acc.1 < f.intVal 0 y.2) == mx then y.2 else acc.1, acc.2)) (x, 0)

/-- VRMAX and VRMIN. -/
def vrext (mx : Bool) : Reduction where
  accepts := Cap.arith
  fmt := fun c => c.f
  passes := fun c _ => 2 * c.f.width + if c.f.isFp then 6 else 0
  value := fun c _ xs => extremeOf mx c xs
  scalar := fun f x => match f with
    | .sint n => BitVec.ofInt 64 (toSigned n x)
    | _ => w64 x

/-- VRMAX (R304). -/
def combVrmax (p : Pred) (nov : Bool) (vd va : Nat) (osb : Option Nat) (m : Option Mods) : Comb :=
  let i : Instr := .vrmax p nov vd va osb m
  (vrext true).comb i p nov vd va osb m

/-- VRMAX, run from issue to completion. -/
def execVrmax (p : Pred) (nov : Bool) (vd va : Nat) (osb : Option Nat) (m : Option Mods) (s : State) :
    Host.Outcome State Fault Refusal :=
  runComb p (.vrmax p nov vd va osb m) (combVrmax p nov vd va osb m) s

/-- VRMIN (R304). -/
def combVrmin (p : Pred) (nov : Bool) (vd va : Nat) (osb : Option Nat) (m : Option Mods) : Comb :=
  let i : Instr := .vrmin p nov vd va osb m
  (vrext false).comb i p nov vd va osb m

/-- VRMIN, run from issue to completion. -/
def execVrmin (p : Pred) (nov : Bool) (vd va : Nat) (osb : Option Nat) (m : Option Mods) (s : State) :
    Host.Outcome State Fault Refusal :=
  runComb p (.vrmin p nov vd va osb m) (combVrmin p nov vd va osb m) s

/-- VCOUNT (R304): the number of active lanes. -/
def combVcount (p : Pred) (nov : Bool) (vd : Nat) (osb : Option Nat) (m : Option Mods) : Comb :=
  let i : Instr := .vcount p nov vd osb m
  { lanes := .cell
    prep := fun t => do
      let d ← if nov then pure none else do let r ← regOf i vd; pure (some (r, 32))
      capChecks vd [] { mismatch := none, shapes := [], unsupported := none, fmt := .uint 32 } d
      pure { capture i p t with total := 1, result := (inferredCap (.uint 32) Cap.blank 0 0 []).bits }
    reads := fun _ _ => [], writes := fun t => if nov then [] else t.regCols vd
    stepped := fun _ => false, pass := fun _ _ t => (t, none), leaves := fun _ => .free
    finish := fun r t =>
      let n := r.cells.length
      let t := if nov then t else (t.fillReg vd (.uint 32) n).writeCap vd r.result
      match osb with
      | some sb => t.ws sb (w64 n)
      | none => t
    cells := fun _ t => t.allCells }

/-- VCOUNT, run from issue to completion. -/
def execVcount (p : Pred) (nov : Bool) (vd : Nat) (osb : Option Nat) (m : Option Mods) (s : State) :
    Host.Outcome State Fault Refusal :=
  runComb p (.vcount p nov vd osb m) (combVcount p nov vd osb m) s

/-! ## VRANK (R306) -/

/-- The key order of R306: a value below another. −0 equals +0, a NaN lies above every number. -/
def keyBelow (f : Fmt) (x y : Nat) : Bool :=
  let a := f.val 0 x
  let b := f.val 0 y
  if a.isNan then false
  else if b.isNan then true
  else decide (a.cmp b = .lt)

/-- Keys equal in that order. -/
def keySame (f : Fmt) (x y : Nat) : Bool := !keyBelow f x y && !keyBelow f y x

/-- The rank of one cell's key among the active ones (R306). -/
def rankOf (f : Fmt) (xs : List (Nat × Nat)) (c : Nat × Nat) : Nat :=
  (xs.filter fun e => keyBelow f e.2 c.2 || (decide (e.1 < c.1) && keySame f e.2 c.2)).length

/-- VRANK (R306), of integer and floating-point sources; another format raises CAP.UNSUPPORTED (DESIGN CHOICE, log 107). -/
def combVrank (p : Pred) (vd va : Nat) (m : Option Mods) : Comb :=
  let i : Instr := .vrank p vd va m
  let ma := (modsOf m).a
  { lanes := .cell
    prep := fun t => do
      let a ← regOf i va
      let d ← regOf i vd
      check (vd != va) cOVERLAP (iword i)
      capChecks vd [a.operand 1 va]
        { mismatch := none, shapes := []
          unsupported := lowSlot (scratchOver [(ma, a.c.readWidth)] 0) (if a.c.arith then none else some 1), fmt := .uint 32 }
        (some (d, 32))
      let stage := stagePasses ma a.c.readWidth
      pure { capture i p t with
        total := stage + (22 * a.c.f.width + 19), stage := stage, caps := [a.cap]
        result := (inferredCap (.uint 32) a.c 0 0 [a.c]).bits }
    reads := fun _ t => (t.reg! va).readCols.map fun c => (c, none)
    writes := fun t => t.regCols vd
    stepped := fun _ => false, pass := fun _ _ t => (t, none), leaves := fun _ => .free
    finish := fun r t =>
      let c := r.cap 0
      let xs := r.cells.map fun e => (e, t.srcElem (t.reg! va).base c ma r.vl r.sfill e)
      (t.writeElems vd r.active (.uint 32) (xs.map fun x => (x.1, rankOf c.f xs x))).writeCap vd r.result }

/-- VRANK, run from issue to completion. -/
def execVrank (p : Pred) (vd va : Nat) (m : Option Mods) (s : State) : Host.Outcome State Fault Refusal :=
  runComb p (.vrank p vd va m) (combVrank p vd va m) s

/-! ## Deferral (R66 to R68, R307 to R309) -/

/-- The registers that a map names, in ascending order (R307). -/
def mapRegs (map : Nat) : List Nat := (List.range 32).filter fun k => bitOf map k

/-- The record of a path. -/
def Task.pathRec (t : Task) (path : Nat) : Option PathRec := t.paths.find? (·.path == path)

/-- Replaces or adds the record of a path. -/
def Task.setPath (t : Task) (r : PathRec) : Task := { t with paths := r :: t.paths.filter (·.path != r.path) }

/-- A cap without CHK, POISON and SATSEEN, which R308 does not compare. -/
def capKey (c : BitVec 128) : BitVec 128 := { Cap.of c with poison := false, satseen := false }.bits

/-- The register that R308 reports where a map and its caps differ from the record. -/
def pathMismatch (r : PathRec) (map : Nat) (caps : List (Nat × BitVec 128)) : Option Nat :=
  if r.map ≠ map then (List.range 32).find? fun k => bitOf r.map k != bitOf map k
  else ((caps.zip r.caps).find? fun p => capKey p.1.2 != capKey p.2).map (·.1.1)

/-- The registers of a map, each allocated (R307). -/
def mappedRegs (i : Instr) : List Nat → M (List (Nat × VReg))
  | [] => pure []
  | n :: r => do
    let v ← regOf i n
    let vs ← mappedRegs i r
    pure ((n, v) :: vs)

/-- The map that a deferral instruction reads from s(SB) (R307). -/
def deferMap (i : Instr) (v : Word) : M (List (Nat × VReg)) := do
  check (decide (v.toNat < 2 ^ 32) && decide ((mapRegs v.toNat).length ≤ 7)) cILLFN (iword i)
  mappedRegs i (mapRegs v.toNat)

/-- The lowest mapped register whose cap fails a test raises a cap cause; it stands in no operand slot, and tval names slot 0 (DESIGN
CHOICE, log 83). -/
def checkMapped (cause : Nat) (regs : List (Nat × VReg)) (ok : VReg → Bool) : M Unit :=
  match regs.find? fun x => !ok x.2 with
  | some x => trap cause (capTval x.1 0)
  | none => pure ()

/-- The record that a VDEFER leaves for its path (R308). -/
def deferRecord (old : Option PathRec) (path map : Nat) (caps : List (BitVec 128)) : PathRec :=
  match old with
  | none => ⟨path, map, caps⟩
  | some r =>
    { r with caps := (r.caps.zip caps).map fun p =>
        { Cap.of p.1 with poison := (Cap.of p.1).poison || (Cap.of p.2).poison,
                          satseen := (Cap.of p.1).satseen || (Cap.of p.2).satseen }.bits }

/-- The 64 bytes of a deferral entry (R66). -/
def DeferEntry.bytes (e : DeferEntry) : List Byte :=
  leBytes 4 e.index ++ leBytes 1 e.path ++ leBytes 1 e.vals.length ++ leBytes 2 0 ++
    ((List.range 7).flatMap fun k => leBytes 8 (e.vals.getD k 0).toNat)

/-- The entries of a task's deferral queue from number `k` on are written into the share of its slot, the oldest first (R66) (DESIGN
CHOICE, log 81). -/
def State.storeDefer (s : State) (t : Task) (k : Nat) : State :=
  match s.part? t.vf with
  | none => s
  | some p =>
    match State.devWrite p (p.deferBase + 2 ^ 24 * t.slot + 64 * k) ((t.defer.drop k).flatMap DeferEntry.bytes) s with
    | .ok s => s
    | .error _ => s

/-- VDEFER (R307, R308). It stops only before its first pass, and leaves its combs in linear mode (R289). -/
def combVdefer (p : Pred) (sb path : Nat) (m : Option Mods) : Comb :=
  let i : Instr := .vdefer p sb path m
  { lanes := .cell
    prep := fun t => do
      let map := (t.rs sb).toNat
      let regs ← deferMap i (t.rs sb)
      check (decide (t.strip.toNat * t.vlmax + t.vl ≤ 2 ^ 32)) cILLFN (iword i)
      checkMapped cCAPCHECK regs fun r => capPasses r.cap
      checkMapped cDISCARD regs fun r => !r.c.discard
      let held := t.defer.any (·.path == path)
      match (if held then t.pathRec path else none) with
      | some r =>
        match pathMismatch r map (regs.map fun x => (x.1, x.2.cap)) with
        | some k => trap cMISMATCH (capTval k 0)
        | none => pure ()
      | none => pure ()
      checkMapped cUNSUPPORTED regs fun r => r.c.f ≠ .none
      checkMapped cPOISON regs fun r => !(t.tptrap && r.c.poison)
      let r := capture i p t
      check (decide (t.defer.length + r.cells.length ≤ Config.deferMax)) cDEFEROVF (w64 t.defer.length)
      pure { r with total := 2, key := w64 map, caps := regs.map fun x => x.2.cap }
    reads := fun _ t => (mapRegs (t.rs sb).toNat).flatMap fun n => (t.regCols n).map fun c => (c, some 2)
    writes := fun _ => []
    stepped := fun _ => false, pass := fun _ _ t => (t, none), leaves := fun _ => .free
    finish := fun r t =>
      let regs := mapRegs r.key.toNat
      let entry (c : Nat) : DeferEntry :=
        { index := r.strip * t.vlmax + c, path := path
          vals := regs.map fun n => w64 (t.cellBits (t.reg! n).base c (t.reg! n).width) }
      let old := if t.defer.any (·.path == path) then t.pathRec path else none
      { t.setPath (deferRecord old path r.key.toNat r.caps) with defer := t.defer ++ r.cells.map entry, linear := true, heldSwitch := false }
    whole := true
    outside := fun r t s => s.storeDefer t (t.defer.length - r.cells.length) }

/-- VDEFER, run from issue to completion. -/
def execVdefer (p : Pred) (sb path : Nat) (m : Option Mods) (s : State) : Host.Outcome State Fault Refusal :=
  runComb p (.vdefer p sb path m) (combVdefer p sb path m) s

/-- Takes the oldest `n` entries of a path: those taken and those left (R67). -/
def takePath (path : Nat) : Nat → List DeferEntry → List DeferEntry × List DeferEntry
  | _, [] => ([], [])
  | n, e :: es =>
    if n ≠ 0 ∧ e.path = path then
      let (a, b) := takePath path (n - 1) es
      (e :: a, b)
    else
      let (a, b) := takePath path n es
      (a, e :: b)

/-- The drained values as registers take them (R309): each as an element of its recorded cap's format, extended over its field as
every write extends it (R89) (DEDUCED, log 82). -/
def drainTask (path vd ma sb : Nat) (regs : List Nat) (caps : List (BitVec 128)) (t : Task) : Task :=
  let (got, left) := takePath path t.vlmax t.defer
  let n := got.length
  let set := 2 ^ n - 1
  let t := t.writeElems vd set (.uint 32) (got.zipIdx.map fun e => (e.2, e.1.index))
  let t := regs.zipIdx.foldl (fun t k =>
    t.writeElems k.1 set (Cap.of (caps.getD k.2 0)).f (got.zipIdx.map fun e => (e.2, (e.1.vals.getD k.2 0).toNat))) t
  let t := (regs.zip caps).foldl (fun t x => t.writeCap x.1 x.2) t
  let t := (t.writeCap vd (inferredCap (.uint 32) Cap.blank 0 0 []).bits).setCol ma set
  let t := t.ws sb (w64 n)
  { t with
    defer := left
    paths := if left.any (·.path == path) then t.paths else t.paths.filter (·.path != path) }

/-- VDRAIN (R67, R309). It stops only before its first read, and leaves its combs in linear mode (R289). -/
def combVdrain (p : Pred) (vd ma sb path : Nat) (m : Option Mods) : Comb :=
  let i : Instr := .vdrain p vd ma sb path m
  { lanes := .whole
    prep := fun t => do
      let map := (t.rs sb).toNat
      let regs ← deferMap i (t.rs sb)
      let d ← regOf i vd
      check (decide (1 ≤ ma) && decide (ma ≤ 7)) cILLFN (iword i)
      check (!(regs.any fun x => x.1 == vd)) cOVERLAP (iword i)
      let r := if t.defer.any (·.path == path) then t.pathRec path else none
      let caps := (r.map (·.caps)).getD []
      match r with
      | some r =>
        check (decide (r.map = map)) cMISMATCH (capTval (((List.range 32).find? fun k => bitOf r.map k != bitOf map k).getD 0) 0)
      | none => pure ()
      checkMapped cUNSUPPORTED regs fun r => r.c.f ≠ .none
      let need := (regs.zip caps).map fun x => (x.1.1, x.1.2, (Cap.of x.2).f.width)
      check (decide (32 ≤ d.width)) cNARROW (capTval vd 0)
      match need.find? fun x => decide (x.2.1.width < x.2.2) with
      | some x => trap cNARROW (capTval x.1 0)
      | none => pure ()
      check (!d.c.ro) cROWRITE (capTval vd 0)
      checkMapped cROWRITE regs fun r => !r.c.ro
      pure { capture i p t with total := 3, key := w64 map, caps := caps }
    reads := fun _ _ => []
    writes := fun t => t.regCols vd ++ (mapRegs (t.rs sb).toNat).flatMap fun n => t.regCols n
    stepped := fun _ => false, pass := fun _ _ t => (t, none), leaves := fun _ => .free
    finish := fun r t => { drainTask path vd ma sb (mapRegs r.key.toNat) r.caps t with linear := true, heldSwitch := false }
    whole := true
    outside := fun _ t s => s.storeDefer t 0 }

/-- VDRAIN, run from issue to completion. -/
def execVdrain (p : Pred) (vd ma sb path : Nat) (m : Option Mods) (s : State) : Host.Outcome State Fault Refusal :=
  runComb p (.vdrain p vd ma sb path m) (combVdrain p vd ma sb path m) s

/-! ## Masks (R310) -/

/-- A mask instruction: the value of mask m(VD) in the active cells, from the task and the active cells. -/
def maskComb (i : Instr) (p : Pred) (md : Nat) (srcs : List Nat) (passes : Nat) (f : Task → Nat → Nat) : Comb where
  lanes := .cell
  prep := fun t => do
    check (decide (1 ≤ md) && decide (md ≤ 7) && srcs.all fun n => decide (n ≤ 7)) cILLFN (iword i)
    pure { capture i p t with total := passes }
  reads := fun _ _ => srcs.map fun n => (n, if passes = 1 then some 1 else none)
  writes := fun _ => [md]
  stepped := fun _ => false
  pass := fun _ _ t => (t, none)
  leaves := fun _ => .free
  finish := fun r t => t.writeCol md r.active (f t r.active)

/-- MAND (R310). -/
def combMand (p : Pred) (md ma mb : Nat) (m : Option Mods) : Comb :=
  let i : Instr := .mand p md ma mb m
  maskComb i p md [ma, mb] 1 fun t _ => t.mask ma &&& t.mask mb

/-- MAND, run from issue to completion. -/
def execMand (p : Pred) (md ma mb : Nat) (m : Option Mods) (s : State) : Host.Outcome State Fault Refusal :=
  runComb p (.mand p md ma mb m) (combMand p md ma mb m) s

/-- MOR (R310). -/
def combMor (p : Pred) (md ma mb : Nat) (m : Option Mods) : Comb :=
  let i : Instr := .mor p md ma mb m
  maskComb i p md [ma, mb] 1 fun t _ => t.mask ma ||| t.mask mb

/-- MOR, run from issue to completion. -/
def execMor (p : Pred) (md ma mb : Nat) (m : Option Mods) (s : State) : Host.Outcome State Fault Refusal :=
  runComb p (.mor p md ma mb m) (combMor p md ma mb m) s

/-- MXOR (R310). -/
def combMxor (p : Pred) (md ma mb : Nat) (m : Option Mods) : Comb :=
  let i : Instr := .mxor p md ma mb m
  maskComb i p md [ma, mb] 1 fun t _ => t.mask ma ^^^ t.mask mb

/-- MXOR, run from issue to completion. -/
def execMxor (p : Pred) (md ma mb : Nat) (m : Option Mods) (s : State) : Host.Outcome State Fault Refusal :=
  runComb p (.mxor p md ma mb m) (combMxor p md ma mb m) s

/-- MNOT (R310). -/
def combMnot (p : Pred) (md ma : Nat) (m : Option Mods) : Comb :=
  let i : Instr := .mnot p md ma m
  maskComb i p md [ma] 1 fun t _ => t.allCells ^^^ (t.allCells &&& t.mask ma)

/-- MNOT, run from issue to completion. -/
def execMnot (p : Pred) (md ma : Nat) (m : Option Mods) (s : State) : Host.Outcome State Fault Refusal :=
  runComb p (.mnot p md ma m) (combMnot p md ma m) s

/-- The lowest cell of a set, as a set (R310). -/
def lowestCell (set n : Nat) : Nat :=
  match (List.range n).find? fun c => bitOf set c with
  | some c => 2 ^ c
  | none => 0

/-- MFIRST (R310). -/
def combMfirst (p : Pred) (md ma : Nat) (m : Option Mods) : Comb :=
  let i : Instr := .mfirst p md ma m
  maskComb i p md [ma] 2 fun t act => lowestCell (t.mask ma &&& act) t.vlmax

/-- MFIRST, run from issue to completion. -/
def execMfirst (p : Pred) (md ma : Nat) (m : Option Mods) (s : State) : Host.Outcome State Fault Refusal :=
  runComb p (.mfirst p md ma m) (combMfirst p md ma m) s

end Sys2Proof.Machine
end

