-- ==== Sys2Proof/Machine/Select.lean ====
section
/-! DEFINITION. Search, selection and sort: OPC 0x60 to 0x62 (R316 to R333). -/

namespace Sys2Proof.Machine

/-! ## Keys (R318 to R320) -/

/-- The order value of a key (R318). -/
def ordOf (c : Cap) (x : Nat) : Nat :=
  match c.f with
  | .sint w => (toSigned w x + 2 ^ (w - 1) : Int).toNat
  | .bps => (toSigned 8 (planesRead c.planes x) + 128 : Int).toNat
  | .fp g =>
    let w := g.width
    let v := g.val x
    if v.isNan then 2 ^ w
    else if v.isZero then 2 ^ (w - 1)
    else if v.neg then 2 ^ w - 1 - x
    else x + 2 ^ (w - 1)
  | .bpz => planesRead c.planes x
  | f => x % 2 ^ f.width

/-- Key formats (R318). -/
def keyFormat (c : Cap) : Bool := c.f ≠ .none && c.zp == 0

/-- A valid key: no NaN, unless NANHI is 1 (R318). -/
def keyValid (nanhi : Bool) (c : Cap) (x : Nat) : Bool := nanhi || !(c.f.val c.planes x).isNan

/-- The value fill of an empty slot (R320). -/
def valueFill : Fmt → Nat
  | .fp g => if g.kind = .e2m1 then 0xF else g.canon
  | .sint n => 2 ^ (n - 1)
  | .bps => 0x80
  | _ => 0

/-- The index fill (R319, R320). -/
def indexFill : Nat := 0xFFFFFFFF

/-- A candidate: its cell, its stored bits and its order value. -/
structure Cand where
  cell : Nat
  bits : Nat
  ord : Nat
deriving DecidableEq, Repr

/-- Inserts a candidate before the first one that it may precede. -/
def insertCand (before : Cand → Cand → Bool) (x : Cand) : List Cand → List Cand
  | [] => [x]
  | y :: r => if before x y then x :: y :: r else y :: insertCand before x r

/-- A stable sort. -/
def sortCands (before : Cand → Cand → Bool) (l : List Cand) : List Cand := l.foldr (insertCand before) []

/-- Ascending or descending order value, ties in ascending index (R319). -/
def ordered (down : Bool) (l : List Cand) : List Cand :=
  sortCands (fun a b => if down then decide (b.ord ≤ a.ord) else decide (a.ord ≤ b.ord)) l

/-- Cells 0 to `k - 1`. -/
def firstCells (k : Nat) : Nat := 2 ^ k - 1

/-- Output slots filled from candidates, the rest with a fill. -/
def slotsOf (k fill : Nat) (vals : List Nat) : List (Nat × Nat) :=
  (List.range k).map fun i => (i, vals.getD i fill)

/-! ## The common frame (R316, R321, R323) -/

/-- A source of a selection instruction: its register and modifier. -/
abbrev SSrc := Nat × Modifier

/-- A destination: its register and the format written. -/
abbrev SDst := Nat × (List Cap → Fmt)

/-- The issue of a selection instruction: the checks of R275 in order. `values` says that the scalar operands are in range;
`infer` gives what the sources infer; `passes` the count without staging. -/
def selectPrep (i : Instr) (p : Pred) (dsts : List SDst) (srcs : List SSrc) (values : Task → Bool)
    (infer : Task → List Cap → Inferred) (passes : List Cap → Nat) (key : Task → Word) (t : Task) : M Resume := do
  let vs ← namedRegs i (srcs.zipIdx.map fun x => (x.2 + 1, x.1.1, x.1.2))
  let ds ← namedRegs i (dsts.map fun d => (0, d.1, .none))
  check (values t) cILLFN (iword i)
  check (decide ((dsts.map (·.1) ++ srcs.map (·.1)).Nodup)) cOVERLAP (iword i)
  let caps := vs.map fun x => x.2.2.2.c
  let staged := vs.map fun x => (x.2.2.1, x.2.2.2.c.readWidth)
  let inf := infer t caps
  capChecksAll ((dsts.head?.map (·.1)).getD 0) (vs.map fun x => x.2.2.2.operand x.1 x.2.1)
    { inf with unsupported := lowSlot (scratchOver staged 0) inf.unsupported }
    ((ds.zip dsts).map fun x => (x.1.2.1, x.1.2.2.2, (x.2.2 caps).width))
  let stage := (staged.map fun x => stagePasses x.1 x.2).sum
  pure { capture i p t with
    total := stage + passes caps, stage := stage, key := key t, caps := caps.map Cap.bits }

/-- A selection instruction as the sequencer runs it. -/
def selectComb (prep : Task → M Resume) (dsts : List Nat) (srcs : List SSrc) (cells : Resume → Task → Nat)
    (finish : Resume → Task → Task) : Comb where
  lanes := .cell
  prep := prep
  reads := fun _ t => srcs.flatMap fun x => (t.reg! x.1).readCols.map fun c => (c, none)
  writes := fun t => dsts.flatMap t.regCols
  stepped := fun _ => false
  pass := fun _ _ t => (t, none)
  leaves := fun _ => .free
  finish := finish
  cells := cells

/-- No index of the strip reaches the index fill (R319). -/
def indicesFit (t : Task) : Bool := decide (t.strip.toNat * t.vlmax + t.vl ≤ 2 ^ 32 - 2)

/-- Slot 1 where a key format is refused (R318). -/
def keySlot (caps : List Cap) : Option Nat := badSlot keyFormat 1 (caps.take 1)

/-- What the one-source instructions infer: a key format (R318). -/
def keyInfer (_ : Task) (caps : List Cap) : Inferred := { mismatch := none, shapes := [], unsupported := keySlot caps, fmt := .none }

/-- The application index of a captured cell (R319). -/
def Resume.index (r : Resume) (t : Task) (e : Nat) : Nat := r.strip * t.vlmax + e

/-- The candidates among the active cells, in ascending cell: keys read as R91 reads them, values as stored (R318, R321). -/
def candidates (r : Resume) (t : Task) (nanhi : Bool) (src : SSrc) : List Cand :=
  let c := r.cap 0
  let base := (t.reg! src.1).base
  let whole := { c with planes := 0 }
  (r.cells.map fun e =>
    let x := t.srcElem base whole src.2 r.vl r.sfill e
    (⟨e, x, ordOf c x⟩ : Cand)).filter fun k => keyValid nanhi c k.bits

/-- The cap of a value output of `k` slots (R321). -/
def valueCap (f : Fmt) (planes k : Nat) (srcs : List Cap) : BitVec 128 :=
  (inferredCap f { Cap.blank with d0 := slotExtent k } 0 planes srcs).bits

/-- The cap of an index output of `k` slots (R321, R107). -/
def indexCap (k : Nat) (srcs : List Cap) : BitVec 128 :=
  (inferredCap (.uint 32) { Cap.blank with d0 := slotExtent k } 0 0 srcs).bits

/-- Writes `k` slots of values and indices (R325). -/
def Task.writeSlots (t : Task) (vd ve k : Nat) (f : Fmt) (fill : Nat) (vals idxs : List Nat) : Task :=
  (t.writeElems vd (firstCells k) f (slotsOf k fill vals)).writeElems ve (firstCells k) (.uint 32) (slotsOf k indexFill idxs)

/-! ## VTOPK and VBOTK (R325) -/

/-- The next `n` bits of the threshold of `k` keys, most significant first, of which the last has weight `2 ^ low`, after the prefix
`p` (R325). -/
def thresholdBits (keys : List Nat) (k low : Nat) : Nat → Nat → Nat
  | 0, p => p
  | n + 1, p =>
    thresholdBits keys k low n
      (if k ≤ (keys.filter fun o => decide ((2 * p + 1) * 2 ^ (low + n) ≤ o)).length then 2 * p + 1 else 2 * p)

/-- A key as the threshold search compares it: greatest first, its width one bit more than the format's (R318, R325). -/
def Cand.rankKey (top : Bool) (w : Nat) (x : Cand) : Nat := if top then x.ord else 2 ^ (w + 1) - 1 - x.ord

/-- What the passes of a threshold search have found `d` passes after its start, `per` for each bit: the number of bits, the bits, and
the running count of keys at or above them (R324, R325) (DESIGN CHOICE, log 33). -/
def thresholdFound (l : List Cand) (top : Bool) (w k per d : Nat) : List Nat :=
  let keys := l.map (Cand.rankKey top w)
  let n := min (w + 1) (d / per)
  let p := thresholdBits keys k (w + 1 - n) n 0
  [n, p, (keys.filter fun o => decide (p * 2 ^ (w + 1 - n) ≤ o)).length]

/-- The `k` first candidates in order; a search that was stopped goes on from the bits it has found (R324, R325). -/
def topOf (l : List Cand) (top : Bool) (w k : Nat) : List Nat → List Cand
  | n :: p :: _ =>
    let x := thresholdBits (l.map (Cand.rankKey top w)) k 0 (w + 1 - n) p
    let above := l.filter fun c => decide (x < c.rankKey top w)
    (ordered top (above ++ (l.filter fun c => c.rankKey top w == x).take (k - above.length))).take k
  | _ => (ordered top l).take k

/-- k of R325: from 1 to vlmax. -/
def topkOk (sa : Nat) (t : Task) : Bool := decide (1 ≤ (t.rs sa).toNat) && decide ((t.rs sa).toNat ≤ t.vlmax)

/-- VTOPK and VBOTK. -/
def combTop (i : Instr) (p : Pred) (top nanhi : Bool) (vd ve va sd sa : Nat) (m : Option Mods) : Comb :=
  let src : SSrc := (va, (modsOf m).a)
  { selectComb
      (selectPrep i p [(vd, fun c => (c.headD Cap.blank).f), (ve, fun _ => .uint 32)] [src]
        (fun t => topkOk sa t && indicesFit t) keyInfer
        (fun caps => 24 * (caps.headD Cap.blank).readWidth + 25) (fun t => t.rs sa))
      [vd, ve] [src] (fun r _ => firstCells r.key.toNat)
      fun r t =>
        let c := r.cap 0
        let k := r.key.toNat
        let got := topOf (candidates r t nanhi src) top c.f.width k r.work
        let t := t.writeSlots vd ve k c.f (valueFill c.f) (got.map (·.bits)) (got.map fun x => r.index t x.cell)
        ((t.writeCap vd (valueCap c.f c.planes k [c])).writeCap ve (indexCap k [c])).ws sd (w64 got.length) with
    found := fun r b t => thresholdFound (candidates r t nanhi src) top (r.cap 0).f.width r.key.toNat 24 (b - r.stage) }

/-- VTOPK (R325). -/
def combVtopk (p : Pred) (nanhi : Bool) (vd ve va sd sa : Nat) (m : Option Mods) : Comb :=
  combTop (.vtopk p nanhi vd ve va sd sa m) p true nanhi vd ve va sd sa m

/-- VTOPK, run from issue to completion. -/
def execVtopk (p : Pred) (nanhi : Bool) (vd ve va sd sa : Nat) (m : Option Mods) (s : State) :
    Host.Outcome State Fault Refusal :=
  runComb p (.vtopk p nanhi vd ve va sd sa m) (combVtopk p nanhi vd ve va sd sa m) s

/-- VBOTK (R325). -/
def combVbotk (p : Pred) (nanhi : Bool) (vd ve va sd sa : Nat) (m : Option Mods) : Comb :=
  combTop (.vbotk p nanhi vd ve va sd sa m) p false nanhi vd ve va sd sa m

/-- VBOTK, run from issue to completion. -/
def execVbotk (p : Pred) (nanhi : Bool) (vd ve va sd sa : Nat) (m : Option Mods) (s : State) :
    Host.Outcome State Fault Refusal :=
  runComb p (.vbotk p nanhi vd ve va sd sa m) (combVbotk p nanhi vd ve va sd sa m) s

/-! ## VARGMAX and VARGMIN (R326) -/

/-- VARGMAX and VARGMIN. -/
def combArg (i : Instr) (p : Pred) (mx nanhi nov : Bool) (vd ve va sd : Nat) (m : Option Mods) : Comb :=
  let src : SSrc := (va, (modsOf m).a)
  let dsts : List SDst := if nov then [] else [(vd, fun c => (c.headD Cap.blank).f), (ve, fun _ => .uint 32)]
  { selectComb
      (selectPrep i p dsts [src] indicesFit keyInfer
        (fun caps => 2 * (caps.headD Cap.blank).readWidth + 4) (fun _ => 0))
      (dsts.map (·.1)) [src] (fun _ t => t.allCells)
      fun r t =>
        let c := r.cap 0
        let won := (topOf (candidates r t nanhi src) mx c.f.width 1 r.work).head?
        let bits := (won.map (·.bits)).getD (valueFill c.f)
        let idx := (won.map fun x => r.index t x.cell).getD indexFill
        let t := if nov then t
          else ((t.fillReg vd c.f bits).fillReg ve (.uint 32) idx).writeCap vd (valueCap c.f c.planes 1 [c]) |>.writeCap ve (indexCap 1 [c])
        t.ws sd (w64 idx) with
    found := fun r b t => thresholdFound (candidates r t nanhi src) mx (r.cap 0).f.width 1 2 (b - r.stage) }

/-- VARGMAX (R326). -/
def combVargmax (p : Pred) (nanhi nov : Bool) (vd ve va sd : Nat) (m : Option Mods) : Comb :=
  combArg (.vargmax p nanhi nov vd ve va sd m) p true nanhi nov vd ve va sd m

/-- VARGMAX, run from issue to completion. -/
def execVargmax (p : Pred) (nanhi nov : Bool) (vd ve va sd : Nat) (m : Option Mods) (s : State) :
    Host.Outcome State Fault Refusal :=
  runComb p (.vargmax p nanhi nov vd ve va sd m) (combVargmax p nanhi nov vd ve va sd m) s

/-- VARGMIN (R326). -/
def combVargmin (p : Pred) (nanhi nov : Bool) (vd ve va sd : Nat) (m : Option Mods) : Comb :=
  combArg (.vargmin p nanhi nov vd ve va sd m) p false nanhi nov vd ve va sd m

/-- VARGMIN, run from issue to completion. -/
def execVargmin (p : Pred) (nanhi nov : Bool) (vd ve va sd : Nat) (m : Option Mods) (s : State) :
    Host.Outcome State Fault Refusal :=
  runComb p (.vargmin p nanhi nov vd ve va sd m) (combVargmin p nanhi nov vd ve va sd m) s

/-! ## VSORT (R327) -/

/-- The candidates in order: as every exchange has left them, or sorted (R324, R327). -/
def sortedBy (r : Resume) (l : List Cand) : List Cand :=
  if r.exchanges ≠ 0 ∧ r.exchanges = exchangesOf r then r.order.filterMap fun c => l.find? (·.cell == c) else ordered false l

/-- VSORT (R327): a stable ascending sort into cells 0 to vl − 1. -/
def combVsort (p : Pred) (nanhi : Bool) (vd ve va sd : Nat) (m : Option Mods) : Comb :=
  let src : SSrc := (va, (modsOf m).a)
  let i : Instr := .vsort p nanhi vd ve va sd m
  selectComb
    (selectPrep i p [(vd, fun c => (c.headD Cap.blank).f), (ve, fun _ => .uint 32)] [src] indicesFit
      keyInfer (fun caps => 6 * (caps.headD Cap.blank).readWidth + 4) (fun _ => 0))
    [vd, ve] [src] (fun r _ => firstCells r.vl)
    fun r t =>
      let c := r.cap 0
      let got := sortedBy r (candidates r t nanhi src)
      let t := t.writeSlots vd ve r.vl c.f (valueFill c.f) (got.map (·.bits)) (got.map fun x => r.index t x.cell)
      ((t.writeCap vd (valueCap c.f c.planes r.vl [c])).writeCap ve (indexCap r.vl [c])).ws sd (w64 got.length)

/-- VSORT, run from issue to completion. -/
def execVsort (p : Pred) (nanhi : Bool) (vd ve va sd : Nat) (m : Option Mods) (s : State) : Host.Outcome State Fault Refusal :=
  runComb p (.vsort p nanhi vd ve va sd m) (combVsort p nanhi vd ve va sd m) s

/-! ## VPERM (R328) -/

/-- VB of VPERM is an index: UINTn with n at most 32. -/
def indexFormat (c : Cap) : Bool :=
  match c.f with
  | .uint n => decide (n ≤ 32)
  | _ => false

/-- VPERM (R328). A BPS or BPZ source is read at its PLANES (R91), so the bits below them arrive as zeros (DESIGN CHOICE, log 107). -/
def combVperm (p : Pred) (vd va vb : Nat) (m : Option Mods) : Comb :=
  let a : SSrc := (va, (modsOf m).a)
  let b : SSrc := (vb, (modsOf m).b)
  let i : Instr := .vperm p vd va vb m
  selectComb
    (selectPrep i p [(vd, fun c => (c.headD Cap.blank).f)] [a, b] (fun _ => true)
      (fun _ caps =>
        let x := caps.getD 0 Cap.blank
        let y := caps.getD 1 Cap.blank
        { mismatch := none, shapes := [], fmt := .none
          unsupported := lowSlot (if x.f = .none then some 1 else none) (if indexFormat y then none else some 2)
          shape := if y.allOnes || y.shape == x.shape then none else some 2 })
      (fun caps => (caps.headD Cap.blank).readWidth + 1) (fun _ => 0))
    [vd] [a, b] (fun r _ => r.active)
    fun r t =>
      let x := r.cap 0
      let y := r.cap 1
      let fill := r.sfill.toNat % 2 ^ x.f.width
      let read (e : Nat) : Nat :=
        let j := t.srcElem (t.reg! vb).base y b.2 r.vl r.sfill e
        if j < r.vl then t.srcElem (t.reg! va).base x a.2 r.vl r.sfill j else fill
      (t.writeElems vd r.active x.f (r.cells.map fun e => (e, read e))).writeCap vd (inferredCap x.f x x.zp x.planes [x, y]).bits

/-- VPERM, run from issue to completion. -/
def execVperm (p : Pred) (vd va vb : Nat) (m : Option Mods) (s : State) : Host.Outcome State Fault Refusal :=
  runComb p (.vperm p vd va vb m) (combVperm p vd va vb m) s

/-! ## VUNIQ (R329) -/

/-- The lowest candidate alike to one, all being in ascending cell. -/
def classHead (l : List Cand) (x : Cand) : Nat := ((l.find? fun y => y.ord == x.ord).map (·.cell)).getD x.cell

/-- VUNIQ (R329). -/
def combVuniq (p : Pred) (vd ve va sd : Nat) (m : Option Mods) : Comb :=
  let src : SSrc := (va, (modsOf m).a)
  let i : Instr := .vuniq p vd ve va sd m
  selectComb
    (selectPrep i p [(vd, fun _ => .bit), (ve, fun _ => .uint 32)] [src] indicesFit
      keyInfer (fun caps => 7 * (caps.headD Cap.blank).readWidth + 7) (fun _ => 0))
    [vd, ve] [src] (fun r _ => r.active)
    fun r t =>
      let c := r.cap 0
      let l := candidates r t true src
      let t := t.writeElems vd r.active .bit (l.map fun x => (x.cell, b2n (classHead l x == x.cell)))
      let t := t.writeElems ve r.active (.uint 32) (l.map fun x => (x.cell, r.index t (classHead l x)))
      ((t.writeCap vd (inferredCap .bit c 0 0 [c]).bits).writeCap ve
        (inferredCap (.uint 32) c 0 0 [c]).bits).ws sd
        (w64 (l.filter fun x => classHead l x == x.cell).length)

/-- VUNIQ, run from issue to completion. -/
def execVuniq (p : Pred) (vd ve va sd : Nat) (m : Option Mods) (s : State) : Host.Outcome State Fault Refusal :=
  runComb p (.vuniq p vd ve va sd m) (combVuniq p vd ve va sd m) s

/-! ## VSIM and VNEAR (R330, R331) -/

/-- Equal bits among the columns that R91 reads of VA (R330). -/
def similarity (a b : Cap) (x y : Nat) : Nat :=
  let w := a.f.width
  ((List.range a.readWidth).filter fun k => bitOf x (w - 1 - k) == bitOf (if b.f.isPlane then planesRead b.planes y else y) (w - 1 - k)).length

/-- The format of a similarity: UINTb (R330). -/
def simFmt (caps : List Cap) : Fmt := .uint (bitLen (caps.headD Cap.blank).readWidth)

/-- What VSIM infers from its two sources (R330). -/
def simInfer (_ : Task) (caps : List Cap) : Inferred :=
  let x := caps.getD 0 Cap.blank
  let y := caps.getD 1 Cap.blank
  { mismatch := if x.f = y.f then none else some 1, shapes := slots1 caps
    unsupported := badSlot (fun c => c.f ≠ .none) 1 caps, fmt := .none }

/-- The similarity in a cell. -/
def simAt (r : Resume) (t : Task) (a b : SSrc) (e : Nat) : Nat :=
  similarity (r.cap 0) (r.cap 1) (t.srcElem (t.reg! a.1).base (r.cap 0) a.2 r.vl r.sfill e)
    (t.srcElem (t.reg! b.1).base (r.cap 1) b.2 r.vl r.sfill e)

/-- Passes of the similarity: w(b + 2) (R323). -/
def simPasses (caps : List Cap) : Nat :=
  let w := (caps.headD Cap.blank).readWidth
  w * (bitLen w + 2)

/-- VSIM (R330). -/
def combVsim (p : Pred) (vd va vb : Nat) (m : Option Mods) : Comb :=
  let a : SSrc := (va, (modsOf m).a)
  let b : SSrc := (vb, (modsOf m).b)
  let i : Instr := .vsim p vd va vb m
  selectComb (selectPrep i p [(vd, simFmt)] [a, b] (fun _ => true) simInfer simPasses (fun _ => 0)) [vd] [a, b] (fun r _ => r.active)
    fun r t =>
      let caps := [r.cap 0, r.cap 1]
      (t.writeElems vd r.active (simFmt caps) (r.cells.map fun e => (e, simAt r t a b e))).writeCap vd
        (inferredCap (simFmt caps) (refShape (slots1 caps)) 0 0 caps).bits

/-- VSIM, run from issue to completion. -/
def execVsim (p : Pred) (vd va vb : Nat) (m : Option Mods) (s : State) : Host.Outcome State Fault Refusal :=
  runComb p (.vsim p vd va vb m) (combVsim p vd va vb m) s

/-- VNEAR (R331). -/
def combVnear (p : Pred) (vd ve va vb sd sa : Nat) (m : Option Mods) : Comb :=
  let a : SSrc := (va, (modsOf m).a)
  let b : SSrc := (vb, (modsOf m).b)
  let i : Instr := .vnear p vd ve va vb sd sa m
  let near (r : Resume) (t : Task) : List Cand := r.cells.map fun e => ⟨e, simAt r t a b e, simAt r t a b e⟩
  { selectComb
      (selectPrep i p [(vd, simFmt), (ve, fun _ => .uint 32)] [a, b] (fun t => topkOk sa t && indicesFit t) simInfer
        (fun caps => simPasses caps + 24 * bitLen (caps.headD Cap.blank).readWidth + 25) (fun t => t.rs sa))
      [vd, ve] [a, b] (fun r _ => firstCells r.key.toNat)
      fun r t =>
        let caps := [r.cap 0, r.cap 1]
        let k := r.key.toNat
        let got := topOf (near r t) true (simFmt caps).width k r.work
        let t := t.writeSlots vd ve k (simFmt caps) 0 (got.map (·.bits)) (got.map fun x => r.index t x.cell)
        ((t.writeCap vd (valueCap (simFmt caps) 0 k caps)).writeCap ve (indexCap k caps)).ws sd (w64 got.length) with
    found := fun r b' t =>
      let caps := [r.cap 0, r.cap 1]
      thresholdFound (near r t) true (simFmt caps).width r.key.toNat 24 (b' - r.stage - simPasses caps) }

/-- VNEAR, run from issue to completion. -/
def execVnear (p : Pred) (vd ve va vb sd sa : Nat) (m : Option Mods) (s : State) : Host.Outcome State Fault Refusal :=
  runComb p (.vnear p vd ve va vb sd sa m) (combVnear p vd ve va vb sd sa m) s

/-! ## NMSEARCH (R332, R333) -/

/-- Magnitude order: whether `x` is greater than `y`; NaN above every number (R332). -/
def magAbove (x y : Val) : Bool :=
  if x.isNan then !y.isNan
  else if y.isNan then false
  else decide (x.abs.cmp y.abs = .gt)

/-- Inserts a cell by descending magnitude, an earlier cell before an equal later one. -/
def insertMag (mag : Nat → Val) (x : Nat) : List Nat → List Nat
  | [] => [x]
  | y :: r => if magAbove (mag y) (mag x) then y :: insertMag mag x r else x :: y :: r

/-- The `n` largest of some cells, ties to the earlier (R333). -/
def largest (mag : Nat → Val) (n : Nat) (cells : List Nat) : List Nat := (cells.foldr (insertMag mag) []).take n

/-- Row groups of an `e0` by `e1` tile: four consecutive elements along D0 (R332). -/
def rowGroups (e0 e1 : Nat) : List (List Nat) :=
  (List.range e1).flatMap fun i1 => (List.range (e0 / 4)).map fun p => (List.range 4).map fun j => 4 * p + j + e0 * i1

/-- Column groups: four consecutive elements along D1 (R332). -/
def colGroups (e0 e1 : Nat) : List (List Nat) :=
  (List.range e0).flatMap fun i0 => (List.range (e1 / 4)).map fun q => (List.range 4).map fun j => i0 + e0 * (4 * q + j)

/-- Kept elements of a group. -/
def keptOf (keep : Nat) (g : List Nat) : List Nat := g.filter fun c => bitOf keep c

/-- The column group of a cell keeps fewer than two. -/
def colRoom (e0 keep c : Nat) : Bool :=
  let i0 := c % e0
  let q := c / e0 / 4
  decide ((keptOf keep ((List.range 4).map fun j => i0 + e0 * (4 * q + j))).length < 2)

/-- Elements that a row group may still keep (R333). -/
def eligible (e0 keep banned : Nat) (g : List Nat) : List Nat :=
  g.filter fun c => !bitOf keep c && !bitOf banned c && colRoom e0 keep c

/-- The condition of the loop of R333. -/
def nmGoes (e0 e1 keep banned : Nat) : Bool :=
  ((colGroups e0 e1).any fun g => decide (2 < (keptOf keep g).length)) ||
    (rowGroups e0 e1).any fun g => decide ((keptOf keep g).length < 2) && !(eligible e0 keep banned g).isEmpty

/-- One round of R333: keep and banned after it. -/
def nmRound (e0 e1 : Nat) (mag : Nat → Val) (keep banned : Nat) : Nat × Nat :=
  let drop := (colGroups e0 e1).flatMap fun g =>
    let k := keptOf keep g
    if 2 < k.length then let two := largest mag 2 k; k.filter fun c => !two.contains c else []
  let keep := keep ^^^ (keep &&& cellSet drop)
  let banned := banned ||| cellSet drop
  let add := (rowGroups e0 e1).flatMap fun g =>
    let n := (keptOf keep g).length
    if n < 2 then largest mag (2 - n) (eligible e0 keep banned g) else []
  (keep ||| cellSet add, banned)

/-- The loop of R333: the rounds left, the round number, keep and banned. -/
def nmLoop (e0 e1 : Nat) (mag : Nat → Val) : Nat → Nat → Nat → Nat → Nat × Nat
  | 0, r, keep, _ => (keep, r)
  | n + 1, r, keep, banned =>
    if nmGoes e0 e1 keep banned then
      let (keep, banned) := nmRound e0 e1 mag keep banned
      nmLoop e0 e1 mag n (r + 1) keep banned
    else (keep, r)

/-- Keep and banned before the first round of R333. -/
def nmStart (e0 e1 : Nat) (mag : Nat → Val) : Nat × Nat := (cellSet ((rowGroups e0 e1).flatMap (largest mag 2)), 0)

/-- Keep and banned after `n` rounds of R333. -/
def nmAfter (e0 e1 : Nat) (mag : Nat → Val) : Nat → Nat × Nat
  | 0 => nmStart e0 e1 mag
  | n + 1 => nmRound e0 e1 mag (nmAfter e0 e1 mag n).1 (nmAfter e0 e1 mag n).2

/-- The mask that R333 finds, its rounds, and whether it converged; a search that was stopped goes on from the round, the kept and the
banned elements that it has reached (R324). -/
def nmSearch (e0 e1 : Nat) (mag : Nat → Val) (bound : Nat) (work : List Nat) : Nat × Nat × Bool :=
  let (keep, r) := match work with
    | n :: keep :: banned :: _ => nmLoop e0 e1 mag (bound - n) n keep banned
    | _ => nmLoop e0 e1 mag bound 0 (nmStart e0 e1 mag).1 (nmStart e0 e1 mag).2
  (keep, r, ((colGroups e0 e1).all fun g => decide ((keptOf keep g).length ≤ 2)) &&
    (rowGroups e0 e1).all fun g => decide ((keptOf keep g).length = 2))

/-- The shape that NMSEARCH takes: rank 2, extents multiples of 4, one cell per element (R332). -/
def nmShape (vl : Nat) (c : Cap) : Bool :=
  c.rank == 1 && c.ext 0 % 4 == 0 && c.ext 1 % 4 == 0 && c.ext 0 * c.ext 1 == vl

/-- The magnitude source of a captured NMSEARCH: the value of an element. -/
def nmMag (r : Resume) (t : Task) (src : SSrc) (e : Nat) : Val :=
  (r.cap 0).f.val (r.cap 0).planes (t.srcElem (t.reg! src.1).base (r.cap 0) src.2 r.vl r.sfill e)

/-- What NMSEARCH finds in the elements of a captured source. -/
def nmRun (r : Resume) (t : Task) (src : SSrc) : Nat × Nat × Bool :=
  nmSearch ((r.cap 0).ext 0) ((r.cap 0).ext 1) (nmMag r t src) r.key.toNat r.work

/-- What its passes up to boundary `b` have found: the round, and the kept and banned elements after it (R324). -/
def nmFound (r : Resume) (t : Task) (src : SSrc) (b : Nat) : List Nat :=
  let w := (r.cap 0).readWidth
  let n := min (nmRun { r with work := [] } t src).2.1 ((b - r.stage - (6 * w + 24)) / (10 * w + 48))
  let x := nmAfter ((r.cap 0).ext 0) ((r.cap 0).ext 1) (nmMag r t src) n
  [n, x.1, x.2]

/-- NMSEARCH (R332, R333). -/
def combNmsearch (p : Pred) (vd va sd sa : Nat) (m : Option Mods) : Comb :=
  let src : SSrc := (va, (modsOf m).a)
  let i : Instr := .nmsearch p vd va sd sa m
  { selectComb
      (fun t => do
        let r ← selectPrep i p [(vd, fun _ => .bit)] [src]
          (fun t => decide (1 ≤ (t.rs sa).toNat) && decide ((t.rs sa).toNat ≤ 16))
          (fun t caps =>
            let c := caps.headD Cap.blank
            { mismatch := none, shapes := [], fmt := .none, unsupported := if keyFormat c && c.f ≠ .bit then none else some 1
              shape := if nmShape t.vl c then none else some 1 })
          (fun caps => 6 * (caps.headD Cap.blank).readWidth + 24) (fun t => t.rs sa) t
        pure { r with total := r.total + (nmRun r t src).2.1 * (10 * (r.cap 0).readWidth + 48) })
      [vd] [src] (fun r _ => firstCells r.vl)
      fun r t =>
        let c := r.cap 0
        let (keep, n, conv) := nmRun r t src
        let t := t.writeElems vd (firstCells r.vl) .bit ((List.range r.vl).map fun e => (e, b2n (bitOf keep e)))
        (t.writeCap vd (inferredCap .bit c 0 0 [c]).bits).ws sd (w64 (n + 256 * b2n conv)) with
    lanes := .whole
    found := fun r b t => nmFound r t src b }

/-- NMSEARCH, run from issue to completion. -/
def execNmsearch (p : Pred) (vd va sd sa : Nat) (m : Option Mods) (s : State) : Host.Outcome State Fault Refusal :=
  runComb p (.nmsearch p vd va sd sa m) (combNmsearch p vd va sd sa m) s

end Sys2Proof.Machine
end

