-- ==== Sys2Proof/Machine/Attn.lean ====
section
/-! DEFINITION. ATTN: OPC 0x7B (R408, R409), and its steps on the matrix unit. -/

namespace Sys2Proof.Machine

/-! ## The parameter block (R408) -/

/-- The fields of a parameter block. -/
structure AttnBlockParams where
  causal : Bool
  topk : Option Nat
  head : Nat
  scale : Nat
  qslot : Nat
  doff : Nat
  ph : Nat
  qh : Nat
  oh : Nat
  qoff : Nat
  ooff : Nat
deriving DecidableEq, Repr

/-- The parameters that 64 bytes hold. -/
def AttnBlockParams.of (b : List Byte) : AttnBlockParams :=
  let g (i n : Nat) := leNat ((b.drop i).take n)
  { causal := bitOf (g 2 1) 0, topk := if bitOf (g 2 1) 1 then some (g 4 4) else none, head := g 3 1, scale := g 8 4, qslot := g 12 4,
    doff := g 16 8, ph := g 24 1, qh := g 25 1, oh := g 26 1, qoff := g 32 8, ooff := g 40 8 }

/-- The bytes keep to R408's table; the head index is looked at beside the pool's heads. -/
def attnBlockOk (b : List Byte) : Bool :=
  let g (i n : Nat) := leNat ((b.drop i).take n)
  let k := g 4 4
  g 0 2 == 0x0100 && decide (g 2 1 < 4) && (if bitOf (g 2 1) 1 then decide (1 ≤ k) && decide (k ≤ 2 ^ 24) else k == 0) && g 27 5 == 0 &&
    g 48 16 == 0

/-! ## Issue -/

/-- A block of the pool as the tile that its keys and values lie in. -/
def attnTile (k : KvPool) (off : Nat) : TileRef :=
  { h := k.h, o := off, cap := k.bcap, poff := 64, soff := 0, moff := 0, md := [], maps := [] }

/-- The value of flat element `f` of a block at an offset, and the fault that its read brings. The records of a BPS or BPZ pool hold an
element in each byte, as R79 places it, and not the planes of R90 (DEDUCED, log 108). -/
def KvPool.elemVal (k : KvPool) (off f : Nat) : M (Val × Option (Nat × Word)) := do
  let c := Cap.of k.bcap
  if c.f = .bps || c.f = .bpz then do
    let (q, due) ← enginePieces k.h (off + 64) [⟨f, 1, 0, 0, 8⟩]
    pure (.ofInt (c.f.intVal c.planes q), due)
  else do
    let (v, _, due) ← (attnTile k off).elemVal f
    pure (v, due)

/-- The LIVE blocks of a list, each with what ATTN keeps of it. -/
def attnBlocks (k : KvPool) (l : List (Nat × Nat × Block)) : List AttnBlock :=
  (l.filter fun x => x.2.2.st == .live).map fun x => ⟨k.blockOff x.2.1, x.2.2.bslot, x.2.2.fill⟩

/-- The checks of the query's and the output's caps, in the order of R112. -/
def attnCaps (t : Task) (bcap : Cap) (q o : ContractTile) : M Unit := do
  check (q.m.cap.fmt == bcap.fmt) cMISMATCH (w64 q.pre)
  check (o.m.cap.f = .fp fp32 || o.m.cap.f = .fp bf16) cMISMATCH (w64 o.pre)
  check (q.m.cap.rank == 1 && q.m.cap.ext 0 == bcap.ext 0 && decide (q.m.cap.ext 1 ≤ 128)) cSHAPE (w64 q.pre)
  check (o.m.cap.rank == 1 && o.m.cap.shape == q.m.cap.shape) cSHAPE (w64 o.pre)
  check (q.m.cap.scl == 0 && q.m.cap.spr == 0) cUNSUPPORTED (w64 q.pre)
  check (o.m.cap.scl == 0 && o.m.cap.spr == 0) cUNSUPPORTED (w64 o.pre)
  check (!o.m.cap.ro) cROWRITE (w64 o.pre)
  check (!(t.tptrap && q.m.cap.poison)) cPOISON (w64 q.pre)

/-- The preamble of a tile of ATTN. -/
def attnTileOf (hn off : Nat) : M ContractTile := do
  let h ← useHandle hn
  let (m, b, a, due) ← readPreamble h off
  check (m.headOk b) cCAPCHECK (w64 a)
  pure ⟨a, m, due⟩

/-- ATTN at issue (R408): the arming check (R72), the pool and the descriptor, then its own checks, the parameters' and TAG's among them
(R396, R397); the blocks are resolved here, in pool order. -/
def execAttn (p : Pred) (trig : Trig) (sd sa h : Nat) (s : State) : Host.Outcome State Fault Refusal :=
  let i : Instr := .attn p trig sd sa h
  runWord .q p i s fun t => do
    armCheck i 2 trig.armed
    let hd ← useHandle h
    let a ← checkAccess hd (t.rs sa).toNat 64 .read 64
    let l ← readTileBytes hd a 64
    let b := AttnBlockParams.of (zeroBad l)
    let k ← openPool b.ph [b.doff] false
    let d ← readDesc k b.doff
    let bc := Cap.of k.bcap
    check (attnBlockOk (zeroBad l) && decide (trig.tag ≤ 3) && decide (b.head < bc.ext 1 / 2)) cILLFN (iword i)
    check (!t.mx.rows.isEmpty && !t.mx.prows.isEmpty) cNOGRANT (iword i)
    let q ← attnTileOf b.qh b.qoff
    let o ← attnTileOf b.oh b.ooff
    attnCaps t bc q o
    check (decide (q.m.cap.ext 1 ≤ t.mxRows) && decide (q.m.cap.ext 1 ≤ t.mxProws)) cKRANGE (iword i)
    checkEach (contractElem q.m ⟨[], []⟩ .read) (List.range q.m.cap.count)
    checkEach (contractElem o.m ⟨[], []⟩ .write) (List.range o.m.cap.count)
    let _ ← checkStatic o.m.h o.m.o 64 .write 64
    let all ← resolveAll k d (List.range d.nlb)
    let blocks := attnBlocks k all
    checkEach (fun (x : AttnBlock) => do let _ ← checkStatic k.h x.off (64 + x.fill * k.tokb) .read 1; pure ()) blocks
    let armed ← armTake trig.armed
    let dues := addDues [] ([badDue hd a l, q.due, o.due].filterMap id)
    mxEnqueue
      (.attn { causal := b.causal, topk := b.topk, head := b.head, heads := bc.ext 1 / 2, scale := b.scale, qslot := b.qslot, pool := k,
               q := q.m.ref ⟨[], []⟩, out := o.m.ref ⟨[], []⟩, blocks := blocks })
      armed (some trig.tag) 0 dues
    modT fun u => u.ws sd (w64 (all.filter fun x => x.2.2.st == .evicting || x.2.2.st == .remote).length)

/-! ## The computation (R409) -/

/-- A result of FP32 arithmetic: its bits, and the flags so far. -/
def f32 (fl : Flags) (v : Val) : Nat × Flags :=
  let (b, fl') := fp32.round .rne v
  (b, fl ||| fl')

/-- The head dimension. -/
def AttnOp.dh (a : AttnOp) : Nat := (Cap.of a.pool.bcap).ext 0

/-- Query rows. -/
def AttnOp.rows (a : AttnOp) : Nat := (Cap.of a.q.cap).ext 1

/-- Products of a step (R342). -/
def AttnOp.depth (a : AttnOp) : Nat := let f := (Cap.of a.pool.bcap).f; (mxDepth f f).getD 1

/-- Values of `n` elements from flat element `f` on; their fault. -/
def elemVals (elem : Nat → M (Val × Option (Nat × Word))) (f : Nat) : Nat → M (List Val × Option (Nat × Word))
  | 0 => pure ([], none)
  | n + 1 => do
    let (v, due) ← elem f
    let (vs, due') ← elemVals elem (f + 1) n
    pure (v :: vs, firstDue due due')

/-- A query element. -/
def TileRef.queryVal (r : TileRef) (f : Nat) : M (Val × Option (Nat × Word)) := do
  let (v, _, due) ← r.elemVal f
  pure (v, due)

/-- K steps of `d` products from an accumulator on (R344). -/
def dotSteps (d : Nat) (acc : BitVec 32) (fl : Flags) : Nat → List (Val × Val) → BitVec 32 × Flags
  | 0, _ => (acc, fl)
  | n + 1, l =>
    let (w, fl', _) := accStep true false .rne acc (dotVal .rne (l.take d))
    dotSteps d w (fl ||| fl') n (l.drop d)

/-- A dot product of two lists, from +0. -/
def dotOf (d : Nat) (x y : List Val) (fl : Flags) : Nat × Flags :=
  let (w, fl) := dotSteps d 0 fl (ceilDiv x.length d) (x.zip y)
  (w.toNat, fl)

/-- A key of a row: its block's place in the list, its token, its slot and its score. -/
structure AttnKey where
  blk : Nat
  tok : Nat
  slot : Nat
  score : Nat
deriving DecidableEq, Repr

/-- FP32 as the format of a key (R318). -/
def scoreCap : Cap := { Cap.blank with fmt := (Fmt.fp fp32).code }

/-- Whether a key stands before another: the greater score, then the lower slot. -/
def AttnKey.before (x y : AttnKey) : Bool :=
  let a := ordOf scoreCap x.score
  let b := ordOf scoreCap y.score
  decide (b < a) || (a == b && decide (x.slot ≤ y.slot))

/-- Inserts a key in order. -/
def insertKey (x : AttnKey) : List AttnKey → List AttnKey
  | [] => [x]
  | y :: r => if x.before y then x :: y :: r else y :: insertKey x r

/-- The keys that a row keeps. -/
def keptKeys (topk : Option Nat) (l : List AttnKey) : List AttnKey :=
  match topk with
  | none => l
  | some k => ((l.filter fun x => keyValid false scoreCap x.score).foldr insertKey []).take k

/-- The scores of a row's tokens from token `j` on, in block `n` of the list: `cnt` tokens. -/
def scoreTokens (a : AttnOp) (x : AttnBlock) (n row : Nat) (q : List Val) (j : Nat) (fl : Flags) : Nat → M (List AttnKey × Flags × Option (Nat × Word))
  | 0 => pure ([], fl, none)
  | cnt + 1 => do
    if a.causal && decide (a.qslot + row < x.slot + j) then scoreTokens a x n row q (j + 1) fl cnt
    else do
      let (k, due) ← elemVals (a.pool.elemVal x.off) (a.dh * (a.head + 2 * a.heads * j)) a.dh
      let (w, fl) := dotOf a.depth q k fl
      let (b, fl) := f32 fl ((fp32.val w).mul (fp32.val a.scale))
      let (r, fl, due') ← scoreTokens a x n row q (j + 1) fl cnt
      pure (⟨n, j, x.slot + j, b⟩ :: r, fl, firstDue due due')

/-- The scores of a row over blocks from the `n`-th on. -/
def scoreBlocks (a : AttnOp) (row : Nat) (q : List Val) (fl : Flags) : Nat → List AttnBlock → M (List AttnKey × Flags × Option (Nat × Word))
  | _, [] => pure ([], fl, none)
  | n, x :: xs => do
    let (l, fl, due) ← scoreTokens a x n row q 0 fl x.fill
    let (r, fl, due') ← scoreBlocks a row q fl (n + 1) xs
    pure (l ++ r, fl, firstDue due due')

/-- The rows from row `row` on at the start: m −∞, L +0, o +0, and the kept keys. -/
def startRows (a : AttnOp) (row : Nat) (fl : Flags) : Nat → M (List AttnRow × Flags × List (Nat × Word))
  | 0 => pure ([], fl, [])
  | cnt + 1 => do
    let (q, due) ← elemVals a.q.queryVal (a.dh * row) a.dh
    let (l, fl, due') ← scoreBlocks a row q fl 0 a.blocks
    let kept := (keptKeys a.topk l).map fun x => (x.blk, x.tok, x.score)
    let (r, fl, due'') ← startRows a (row + 1) fl cnt
    pure (⟨0xFF800000, 0, List.replicate a.dh 0, kept⟩ :: r, fl, addDues (addDues due.toList due'.toList) due'')

/-- Rows of V of a block's tokens: a list for each of the dh elements. -/
def valueColumns (a : AttnOp) (x : AttnBlock) (d : Nat) : Nat → M (List (List Val) × Option (Nat × Word))
  | 0 => pure ([], none)
  | cnt + 1 => do
    let (v, due) ← valueTokens d 0 x.fill
    let (vs, due') ← valueColumns a x (d + 1) cnt
    pure (v :: vs, firstDue due due')
where
  valueTokens (d j : Nat) : Nat → M (List Val × Option (Nat × Word))
    | 0 => pure ([], none)
    | n + 1 => do
      let (v, due) ← a.pool.elemVal x.off (a.dh * (a.heads + a.head + 2 * a.heads * j) + d)
      let (vs, due') ← valueTokens d (j + 1) n
      pure (v :: vs, firstDue due due')

/-- e to the difference of two FP32 values, each operation rounded. -/
def expDiff (x y : Nat) (fl : Flags) : Nat × Flags :=
  let (d, fl) := f32 fl ((fp32.val x).add .rne (fp32.val y).negate)
  f32 fl (fp32.val d).exp

/-- One element of o after a block: o × a, then the block's sum added. -/
def accumulate (d : Nat) (ab : Nat) (pe : List Val) (o : Nat) (v : List Val) (fl : Flags) : Nat × Flags :=
  let (o, fl) := f32 fl ((fp32.val o).mul (fp32.val ab))
  let (x, fl) := dotOf d pe v fl
  f32 fl ((fp32.val o).add .rne (fp32.val x))

/-- The elements of o after a block. -/
def accumulateAll (d : Nat) (ab : Nat) (pe : List Val) : List Nat → List (List Val) → Flags → List Nat × Flags
  | o :: os, v :: vs, fl =>
    let (x, fl) := accumulate d ab pe o v fl
    let (xs, fl) := accumulateAll d ab pe os vs fl
    (x :: xs, fl)
  | _, _, fl => ([], fl)

/-- e^(score − mn) of each of `cnt` tokens from `j` on; +0 for those not kept. -/
def tokenExps (s : List (Nat × Nat × Nat)) (mn : Nat) (j : Nat) (fl : Flags) : Nat → List Nat × Flags
  | 0 => ([], fl)
  | cnt + 1 =>
    let (x, fl) := match s.find? (·.2.1 == j) with
      | some k => expDiff k.2.2 mn fl
      | none => (0, fl)
    let (xs, fl) := tokenExps s mn (j + 1) fl cnt
    (x :: xs, fl)

/-- The probabilities of a block's tokens converted into V's format. -/
def probVals (f : Fmt) : List Nat → Flags → List Val × Flags
  | [], fl => ([], fl)
  | x :: xs, fl =>
    let (b, fl', _) := convertVal f .rne (fp32.val x)
    let (vs, fl) := probVals f xs (fl ||| fl')
    (f.val 0 b :: vs, fl)

/-- A row after the `n`-th block. -/
def rowBlock (a : AttnOp) (n : Nat) (x : AttnBlock) (vs : List (List Val)) (r : AttnRow) (fl : Flags) : AttnRow × Flags :=
  let s := r.kept.filter (·.1 == n)
  match s with
  | [] => (r, fl)
  | _ =>
    let mn := s.foldl (fun m k => (fpMinMax fp32 .rne true (fp32.val m) (fp32.val k.2.2)).1) r.m
    let (ab, fl) := expDiff r.m mn fl
    let (pe, fl) := tokenExps s mn 0 fl x.fill
    let (l, fl) := f32 fl ((fp32.val r.l).mul (fp32.val ab))
    let (sum, fl') := sumPairwise .rne (pe.map fp32.val)
    let (l, fl) := f32 (fl ||| fl') ((fp32.val l).add .rne (fp32.val sum))
    let (ps, fl) := probVals (Cap.of a.pool.bcap).f pe fl
    let (o, fl) := accumulateAll a.depth ab ps r.o vs fl
    ({ r with m := mn, l := l, o := o }, fl)

/-- Every row after the `n`-th block. -/
def rowsBlock (a : AttnOp) (n : Nat) (x : AttnBlock) (vs : List (List Val)) : List AttnRow → Flags → List AttnRow × Flags
  | [], fl => ([], fl)
  | r :: rs, fl =>
    let (r, fl) := rowBlock a n x vs r fl
    let (rs, fl) := rowsBlock a n x vs rs fl
    (r :: rs, fl)

/-- The output elements: o / L converted once, +0 where L is +0. -/
def attnOutputs (f : Fmt) : List AttnRow → Flags → List Nat × Flags
  | [], fl => ([], fl)
  | r :: rs, fl =>
    let outs := r.o.map fun o => if r.l = 0 then (0, (0 : Flags), false) else convertVal f .rne ((fp32.val o).div (fp32.val r.l))
    let (l, fl) := attnOutputs f rs (outs.foldl (fun a x => a ||| x.2.1) fl)
    (outs.map (·.1) ++ l, fl)

/-- Tile a3 on both units and its step count hold free values (R408). -/
def attnScratch (poison : Bool) : M Unit := do
  let t ← getT
  let s ← getS
  let free (n base : Nat) : List (Nat × BitVec 32) :=
    (List.range n).foldl (fun w k => setWordAt w k ((Config.freeWord (s.fresh + base + k)).setWidth 32)) []
  let n := 128 * t.mxRows
  let m := 128 * t.mxProws
  setS { s with fresh := s.fresh + n + m + 1 }
  modT fun u =>
    let u := u.putTile 3 { words := free n 0, cap := (tileCap (.fp fp32) t.mxRows poison false).bits, bad := [] } ((Config.freeWord (s.fresh + n + m)).setWidth 16)
    { u with mx := { u.mx with ptiles := u.mx.ptiles.set 3 { words := free m n, cap := (tileCap (.fp fp32) t.mxProws poison false).bits, bad := [] } } }

/-- Steps of an ATTN: its start, its blocks, its output. -/
def AttnOp.total (a : AttnOp) : Nat := a.blocks.length + 2

/-- One step of ATTN (R409): the operation as it then stands, and how the step ended. -/
def attnOp (op : MxOp) (a : AttnOp) : M (MxOp × Option Stop) := do
  if op.step = 0 then do
    let (rows, fl, due) ← startRows a 0 op.flags a.rows
    pure ({ op with step := 1, rows := rows, flags := fl, dues := addDues op.dues due }, none)
  else match a.blocks[op.step - 1]? with
    | some x => do
      let (vs, due) ← valueColumns a x 0 a.dh
      let (rows, fl) := rowsBlock a (op.step - 1) x vs op.rows op.flags
      pure ({ op with step := op.step + 1, rows := rows, flags := fl, dues := addDues op.dues due.toList }, none)
    | none => do
      let c := Cap.of a.out.cap
      let q := Cap.of a.q.cap
      let b := Cap.of a.pool.bcap
      let (outs, fl) := attnOutputs c.f op.rows op.flags
      let poison := !op.dues.isEmpty || q.poison || b.poison
      let sat := q.satseen || b.satseen
      attnScratch poison
      let cap := if poison || sat then { c with poison := c.poison || poison, satseen := c.satseen || sat }.bits else a.out.cap
      let ok : Nat → Bool := fun _ => true
      let (_, e) ← putPoints ok a.out (outs.zipIdx.map fun p => (p.2, p.1))
      match e with
      | some e => pure (op, some e)
      | none => do
        match ← attempt (contractCap ok a.out cap) with
        | .error e => pure (op, some e)
        | .ok _ => pure ({ op with step := op.step + 1, rows := [], flags := fl }, none)

end Sys2Proof.Machine
end

