-- ==== Sys2Proof/Machine/MxQueue.lean ====
section
/-! DEFINITION. The steps of a matrix queue (R345): an operation other than MXMAC takes effect, or a K step of the running MXMAC
is made (R344), with the snapshots that overtake it (R349). -/

namespace Sys2Proof.Machine

/-! ## Which operation is next -/

/-- An operation is neither armed nor paused. -/
def MxOp.free (o : MxOp) : Bool := o.armed.isNone && o.paused.isNone

/-- Whether an operation is an MXMAC. -/
def MxKind.isMac : MxKind → Bool
  | .mac _ => true
  | _ => false

/-- Whether an operation is an MXRD. -/
def MxKind.isRd : MxKind → Bool
  | .rd .. => true
  | _ => false

/-- The place of the MXRD that overtakes: every operation before it is an MXMAC that is not armed (R349, R354) (DEDUCED, log 41). -/
def overtaker : List MxOp → Nat → Option (Nat × MxOp)
  | [], _ => none
  | o :: r, n =>
    if o.kind.isRd then (if o.free then some (n, o) else none)
    else if o.kind.isMac && o.armed.isNone then overtaker r (n + 1)
    else none

/-- An MXRD has begun: its snapshot is due before the next K step. -/
def MxOp.begun (o : MxOp) : Bool := decide (1 ≤ o.step)

/-- No MXMAC before a place has made a step. -/
def noneRunning (q : List MxOp) (n : Nat) : Bool := (q.take n).all fun o => o.step == 0

/-- The operation that MX_QUEUE_OP runs: an MXRD that need not wait for a K step, else the head when it is no MXMAC. -/
def nextQueueOp (q : List MxOp) : Option (Nat × MxOp) :=
  match overtaker q 0 with
  | some (n, o) => if o.begun || noneRunning q n then some (n, o) else none
  | none =>
    match q with
    | o :: _ => if o.free && !o.kind.isMac then some (0, o) else none
    | [] => none

/-- The MXMAC that MX_K_STEP advances. -/
def nextMac (q : List MxOp) : Option MxOp :=
  match q with
  | o :: _ =>
    if o.kind.isMac && o.free && !(match overtaker q 0 with | some (_, r) => r.begun | none => false) then some o else none
  | [] => none

/-- An operation may make its accesses now: the side ports (R140), and for CONTRACT the footprint scheduler (R170). -/
def State.mxReady (s : State) (t : Task) (o : MxOp) : Bool :=
  s.mxColumnsFree t o &&
    (match o.kind with
     | .contract c => (match s.job? c.job with | some j => s.jobFree j | none => true)
     | _ => true)

/-! ## One step of an operation -/

/-- What a step leaves of its operation. -/
inductive MxEnd where
  | more (o : MxOp)
  | done (o : MxOp)
  | paused (o : MxOp) (cause addr : Nat)
deriving DecidableEq, Repr

/-- An operation that has failed: it pauses at a translation fault, and stops at any other end. -/
def MxOp.ended (o : MxOp) : Stop → MxEnd
  | .page c a => .paused o c a
  | .trap c v => .done { o with dues := addDues o.dues [(c, v)] }
  | _ => .more o

/-- An operation's step with its failure, and whether it is complete. -/
def mxEnd (r : MxOp × Option Stop) (complete : MxOp → Bool) : MxEnd :=
  match r.2 with
  | some e => r.1.ended e
  | none => if complete r.1 then .done r.1 else .more r.1

/-- An MXLD or MXSCL that has begun, and that no translation fault has paused: it runs to completion whatever stop is asked for (R185,
R357). -/
def MxOp.midway (o : MxOp) : Bool :=
  o.free && decide (0 < o.elem) && (match o.kind with | .ld .. => true | .scl .. => true | _ => false)

/-- One step of an operation. -/
def mxStep (op : MxOp) : M MxEnd := do
  match op.kind with
  | .zero t => do
    modT fun u => { u with mx := u.mx.clearTile t }
    pure (.done op)
  | .mac o => do
    let r ← macStep op o
    pure (if o.kcnt ≤ r.step then .done r else .more r)
  | .ld t x => do
    let r ← ldOp op t x
    pure (mxEnd r fun _ => true)
  | .rd t h o o2 => do
    let r ← rdOp op t h o o2
    pure (mxEnd r fun _ => true)
  | .scl h o => do
    let r ← sclOp op h o
    pure (mxEnd r fun _ => true)
  | .drain d => do
    let r ← drainOp op d
    pure (.done r)
  | .contract c => do
    let s ← getS
    match s.job? c.job with
    | none => pure (.done op)
    | some j => do
      let r ← contractOp op j c
      pure (mxEnd r fun o => match o.kind with | .contract c => c.complete o.step | _ => true)
  | .attn a => do
    let r ← attnOp op a
    pure (mxEnd r fun o => decide (a.total ≤ o.step))

/-- A step with the mode it needs (R141): its end, an early one included. -/
def mxStepIn (op : MxOp) : M MxEnd := do
  let t ← getT
  if op.kind.isMac || !(op.kind.readsCols t).isEmpty || !(op.kind.writesCols t).isEmpty then
    modT fun u => { u with linear := true, heldSwitch := false }
  match ← attempt (mxStep op) with
  | .ok r => pure r
  | .error (.stall w) => stopWith (.stall w)
  | .error e => pure (op.ended e)

/-! ## The queue after a step -/

/-- A matrix operation is complete (R165, R355). -/
def State.finishMx (s : State) (t : Task) (o : MxOp) : State :=
  match o.kind with
  | .contract c =>
    match s.job? c.job with
    | some j => s.finishJob { j with flags := j.flags ||| o.flags, dues := addDues j.dues o.dues }
    | none => s
  | _ =>
    match o.tag with
    | some n => s.completeFor t .mx (some (16 + n)) o.flags o.dues
    | none => s

/-- Runs a step of operation `n` of a task's queue. -/
def State.runMx (s : State) (t : Task) (n : Nat) (op : MxOp) : State :=
  match engineRun s t (mxStepIn op) with
  | .error _ => s
  | .ok (e, s) =>
    match s.task? t.id with
    | none => s
    | some t =>
      match e with
      | .more o => s.setTask { t with mx := { t.mx with queue := t.mx.queue.set n o } }
      | .paused o c a =>
        (s.setTask { t with mx := { t.mx with queue := t.mx.queue.set n { o with paused := some (c, a) } } }).raiseNotice t.vf
          (t.engineNotice c a)
      | .done o =>
        let t := { t with mx := { t.mx with queue := t.mx.queue.eraseIdx n } }
        (s.setTask t).finishMx t o

/-- MX_QUEUE_OP (R345, R349). -/
def execMxQueueOp (t : Nat) (s : State) : Host.Outcome State Fault Refusal :=
  match s.task? t with
  | none => .next s
  | some u =>
    match nextQueueOp u.mx.queue with
    | none => .next s
    | some (n, o) => .next (if (u.working || (u.present && o.midway)) && s.mxReady u o then s.runMx u n o else s)

/-- The snapshot at a K-step boundary: the MXRD that overtakes has begun, and is made at once when its accesses are free
(R349). -/
def State.snapshot (s : State) (t : Nat) : State :=
  match s.task? t with
  | none => s
  | some u =>
    match overtaker u.mx.queue 0 with
    | none => s
    | some (n, o) =>
      let o := { o with step := max 1 o.step }
      let u := { u with mx := { u.mx with queue := u.mx.queue.set n o } }
      let s := s.setTask u
      if s.mxReady u o then s.runMx u n o else s

/-- MX_K_STEP (R344, R348), and the snapshot that its boundary brings (R349). -/
def execMxKStep (t : Nat) (s : State) : Host.Outcome State Fault Refusal :=
  match s.task? t with
  | none => .next s
  | some u =>
    match nextMac u.mx.queue with
    | none => .next s
    | some o => .next (if u.working && s.mxReady u o then (s.runMx u 0 o).snapshot t else s)

/-- A step of its queue that a task is ready for. -/
def State.mxEvent (s : State) (t : Task) : Option Instr :=
  match nextQueueOp t.mx.queue with
  | some (_, o) => if (t.working || (t.present && o.midway)) && s.mxReady t o then some (.mxQueueOp t.id) else none
  | none =>
    match nextMac t.mx.queue with
    | some o => if t.working && s.mxReady t o then some (.mxKStep t.id) else none
    | none => none

end Sys2Proof.Machine
end

