-- ==== Sys2Proof/Machine/Complete.lean ====
section
/-! DEFINITION. How engine jobs end (R165), retry after a pause (R362), and the promises of copies: their rebasing (R167) and
SLEEPTIL (R166, R259). -/

namespace Sys2Proof.Machine

/-! ## Completion -/

/-- When a stream is complete, an outbound queue is idle, an inbound one once it is empty (R367). -/
def State.settleStream (s : State) (j : Job) : State :=
  match j.kind, s.task? j.task with
  | .stream inb q .., some t =>
    let ended := (t.queue q).job == j.id && (s.job? j.id).isNone
    s.setTask (if inb then s.settleQueue t q else if ended then t.setQueue q FQueue.empty else t)
  | _, _ => s

/-- A job whose accesses are made is complete, once its arrival is made, and with a stream its queue. -/
def State.finishForager (s : State) (j : Job) : State := (s.finishJob j).settleStream j

/-- A BAREVT that a job has sent on a port is answered, or not in time: the job is complete (R419). -/
def State.arriveAnswered (s : State) (tag : Nat) (port : Option Nat) : State :=
  let sent (j : Job) : Bool := j.tag == tag &&
    (match j.arrival with | some a => a.stage == .sent && (port.isNone || port == some (portOf a.phys)) | none => false)
  match s.jobs.find? sent with
  | some j => (s.endJob j).settleStream j
  | none => s

/-- The arrival of a job can be made now: its accesses are made, and it is not paused. That of a copy, KVPULL or KVEVICT job is made
during a swap too (R191). -/
def Job.mayArrive (j : Job) (t : Task) : Bool :=
  (t.present || j.cls == .cp) && j.paused.isNone && (match j.arrival with | some a => a.stage == .due | none => false)

/-- Whether a job can complete, or can be run to its completion, now. -/
def State.canComplete (s : State) (t : Task) (j : Job) : Bool :=
  match j.kind with
  | .gather .. | .scatter .. | .scata .. | .stream .. => t.present && j.paused.isNone && s.jobFree j && j.accessesDone t
  | .copy .. => s.copyReady t j
  | .hsrd _ r cells => t.working && j.armed.isNone && s.jobColumnsFree t j && !s.hsrdHeld r cells
  | _ => false

/-- Completes a job, or runs it to its completion. -/
def State.complete (s : State) (t : Task) (j : Job) : State :=
  match j.kind with
  | .copy .. => s.runCopy t j
  | .hsrd .. => s.runHsrd t j
  | _ => s.finishForager j

/-- JOB_COMPLETE (R165). The jobs of KVAPP, KVPULL and KVEVICT complete in steps of their own, those of CONTRACT on the matrix
unit. -/
def execJobComplete (j : Nat) (s : State) : Host.Outcome State Fault Refusal :=
  match s.job? j with
  | none => .next s
  | some x =>
    match s.task? x.task with
    | none => .next s
    | some t =>
      .next (if x.arriving then (if x.mayArrive t then s.finishForager x else s)
        else if s.canComplete t x then s.complete t x else s)

/-! ## Promises (R166, R167) -/

/-- Jobs that a pause of job `j` holds. -/
def State.heldBy (s : State) (j : Job) : List Job := s.heldBehind (·.id == j.id)

/-- The promises of the held copy jobs move by a pause of `d` cycles (R167). -/
def State.rebaseHeld (s : State) (j : Job) (d : Nat) : State :=
  let held := (s.heldBy j).map (·.id)
  { s with jobs := s.jobs.map fun k => if held.contains k.id then { k with rebased := k.promised.map (· + d) } else k }

/-- The earliest pause that holds a job now. -/
def State.pausedSince (s : State) (j : Job) : Option Nat :=
  ((s.jobs.filter fun k => k.paused.isSome && (s.heldBy k).any (·.id == j.id)).map (·.pausedAt)).min?

/-- The time to which a job's promise has been rebased, a pause that still runs included. -/
def State.rebasedTo (s : State) (j : Job) : Option Nat :=
  match s.pausedSince j with
  | some a => j.promised.map (· + (s.cycle.toNat - a))
  | none => j.rebased

/-- The copy jobs of a task whose promise, as issued, is at or below a target, oldest first. -/
def State.promisesDue (s : State) (id target : Nat) : List Job :=
  s.jobs.filter fun j => j.task == id && (match j.promise with | some p => decide (p ≤ target) | none => false)

/-- A job whose promise is broken: neither rebased to a time to come nor paused, nor held behind a paused one (R166, R152). -/
def State.broken (s : State) (j : Job) : Bool :=
  !(s.heldJobs.any (·.id == j.id)) && !(match s.rebasedTo j with | some r => decide (s.cycle.toNat < r) | none => false)

/-- SLEEPTIL (R166, R259). -/
def execSleeptil (p : Pred) (sa : Nat) (s : State) : Host.Outcome State Fault Refusal :=
  runWord .q p (.sleeptil p sa) s fun t => do
    let s ← getS
    let target := (t.rs sa).toNat
    if s.cycle.toNat < target then stopWith (.stall (.sleep target))
    else
      let due := s.promisesDue t.id target
      match due.find? s.broken with
      | some j => trap cPROMISE (w64 (j.promise.getD 0))
      | none =>
        if due.any fun j => s.heldJobs.any (·.id == j.id) then stopWith (.engine none)
        else match (due.filterMap s.rebasedTo).min? with
          | some r => stopWith (.stall (.sleep r))
          | none => pure ()

/-- The cycle a task sleeps until has come: its SLEEPTIL runs again, now checking promises (R166). -/
def execSleeptilWake (t : Nat) (s : State) : Host.Outcome State Fault Refusal :=
  match s.task? t with
  | none => .next s
  | some u =>
    match u.wait with
    | some (.sleep c) => if c ≤ s.cycle.toNat then .next (s.setTask { u with wait := none }) else .next s
    | _ => .next s

/-! ## Retries (R362) -/

/-- A job pauses no longer. -/
def State.unpause (s : State) (id : Nat) : State :=
  { s with jobs := s.jobs.map fun k => if k.id = id then { k with paused := none } else k }

/-- A paused job is free to go on, and the promises that its pause held are rebased. -/
def State.endPause (s : State) (j : Job) : State := (s.rebaseHeld j (s.cycle.toNat - j.pausedAt)).unpause j.id

/-- The retry of a forager's element: made when the forager works for the task, else only tried (R185). -/
def State.retryForager (s : State) (t : Task) (j : Job) : State :=
  if t.working then s.foragerAccess t j
  else match engineRun s t (foragerStep j) with
    | .error (.page c a) => s.pauseJob j c a
    | _ => s

/-- What runs a job, by its kind; of one whose accesses are made, its arrival. -/
def State.runJob (s : State) (t : Task) (j : Job) : Host.Outcome State Fault Refusal :=
  if j.arriving then .next (if j.mayArrive t then s.finishForager j else s)
  else match j.kind with
  | .copy .. => .next (if s.canComplete t j then s.complete t j else s)
  | .kvapp .. => execKvappCommit j.id s
  | .kvpull .. => execKvPullComplete j.id s
  | .kvevict .. => execKvEvictComplete j.id s
  | .gather .. | .scatter .. | .scata .. | .stream .. =>
    .next (if s.jobFree j && s.jobColumnsFree t j && !j.accessesDone t && j.streamReady t then s.retryForager t j else s)
  | _ => .next s

/-- ENGINE_RETRY (R362): a paused job retries its element. -/
def execEngineRetry (j : Nat) (s : State) : Host.Outcome State Fault Refusal :=
  match s.job? j with
  | none => .next s
  | some x =>
    if x.paused.isNone then .next s
    else
      let s := s.endPause x
      match s.job? j, s.task? x.task with
      | some x, some t => s.runJob t x
      | _, _ => .next s

/-- A step of a job that can be made now. -/
def State.jobEvent (s : State) (j : Job) : Option Instr :=
  match s.task? j.task with
  | none => none
  | some t =>
    if j.arriving then (if j.mayArrive t then some (.jobComplete j.id) else none)
    else match j.kind with
    | .kvapp .. => if j.paused.isNone && s.jobColumnsFree t j then some (.kvappCommit j.id) else none
    | .kvpull .. => if s.copyReady t j then some (.kvPullComplete j.id) else none
    | .kvevict k _ vs => if s.copyReady t j && !s.evictHeld j k vs then some (.kvEvictComplete j.id) else none
    | _ =>
      if s.canComplete t j then some (.jobComplete j.id)
      else if s.foragerReady t j then some (.foragerAccess j.id)
      else none

end Sys2Proof.Machine
end

