-- ==== Sys2Proof/Machine/Cards.lean ====
section
/-! DEFINITION. Launch cards (R42 to R46, R73, R74, R429, R431), the fetch of a card (R175) and the end of a launch (R47). -/

namespace Sys2Proof.Machine

/-! ## Fields -/

/-- `n` bytes from offset `i` as a number. -/
def byteField (b : List Byte) (i n : Nat) : Nat := leNat ((b.drop i).take n)

/-- The bytes from offset `i`, `n` of them, are zero. -/
def zeroIn (b : List Byte) (i n : Nat) : Bool := ((b.drop i).take n).all (· == 0)

/-- A level from its descriptor (R43). -/
def Level.of (w : Nat) : Level := { kind := fld w 62 2, strip := bitOf w 61, extent := fld w 0 40 }

/-- A descriptor meets R43 and R45. -/
def levelOk (w : Nat) : Bool :=
  fld w 40 21 == 0 && fld w 0 40 != 0 && (!bitOf w 61 || fld w 62 2 == 0)

/-- The fields of a card, in the native layout. -/
structure Card where
  version : Nat
  nstg : Nat
  nlvl : Nat
  flags : Nat
  image : Nat
  arg : Nat
  levels : List Nat
  stgtab : Nat
  fptab : Nat
  fpcnt : Nat
  swtab : Nat
  compl : Nat
  rest : Bool
deriving DecidableEq, Repr

/-- A card from its 128 bytes; one of version 0x00A0 is translated (R431). `rest` says that the reserved bytes are zero. -/
def Card.of (b : List Byte) : Card :=
  let old := byteField b 0 2 == 0x00A0
  { version := byteField b 0 2, nstg := byteField b 2 1, nlvl := byteField b 3 1, flags := byteField b 4 2,
    image := byteField b 8 8, arg := byteField b 16 8, levels := (List.range 4).map fun k => byteField b (24 + 8 * k) 8,
    stgtab := byteField b 56 8, fptab := if old then 0 else byteField b 64 8, fpcnt := if old then 0 else byteField b 72 4,
    swtab := if old then 0 else byteField b 80 8, compl := if old then byteField b 64 8 else byteField b 88 8,
    rest := zeroIn b 6 2 && (old || (zeroIn b 76 4 && zeroIn b 96 32)) }

/-- FLAGS.SWARM. -/
def Card.swarm (c : Card) : Bool := bitOf c.flags 0

/-- FLAGS.IRQ. -/
def Card.irq (c : Card) : Bool := bitOf c.flags 1

/-- The address fields of the card meet R42 (R45, R433); the alignment of FPTAB, which R42 does not give, is not looked at (DEDUCED,
log 46). -/
def Card.addrsOk (c : Card) : Bool :=
  [c.image, c.stgtab, c.fptab, c.swtab, c.compl].all (fun a => decide (a < 2 ^ 56)) && c.image % 128 == 0 &&
    c.stgtab % 64 == 0 && c.compl % 32 == 0

/-- The levels of a card. -/
def Card.lvls (c : Card) : List Level := (c.levels.take c.nlvl).map Level.of

/-- The checks of R45 on the card's own fields and levels, but for the addresses and the share of this chip. -/
def Card.fieldsOk (c : Card) : Bool :=
  let l := c.lvls
  let count (k : Nat) : Nat := (l.filter (·.kind == k)).length
  (c.version == 0x0100 || c.version == 0x00A0) && decide (1 ≤ c.nstg) && decide (c.nstg ≤ 8) && decide (c.nlvl ≤ 4) &&
    c.rest && decide (c.flags < 4) && decide (c.fpcnt ≤ 4096) && (c.levels.take c.nlvl).all levelOk && decide (count 0 ≤ 3) &&
    decide ((l.filter (·.strip)).length ≤ 1) && decide (count 2 ≤ 1) && decide (count 3 ≤ 1) && (c.swarm || (count 3 == 0 && c.swtab == 0))

/-- The image header meets R429. -/
def imageOk (b : List Byte) : Bool :=
  byteField b 0 4 == 0x4C484D45 && byteField b 4 1 == 0 && byteField b 5 1 == 1 && zeroIn b 6 2 && zeroIn b 32 96

/-- A stage from its 32 bytes (R44). -/
def Stage.of (b : List Byte) : Stage :=
  let shape := byteField b 8 1
  { entry := byteField b 0 8, combs := 16 * 2 ^ fld shape 0 2, mx := bitOf shape 2, stream := bitOf shape 3, out := byteField b 9 1,
    live := BitVec.ofNat 32 (byteField b 12 4), qdepth := byteField b 16 4, maxt := byteField b 20 2, inq := byteField b 24 8,
    head := 0, count := 0 }

/-- A power of two from 64 to 65,536. -/
def depthOk (n : Nat) : Bool := (List.range 11).any fun k => n == 64 * 2 ^ k

/-- Entry `k` of a stage table of `n` entries meets R44 and R45; the image lies at `image`, `len` bytes long. -/
def stageOk (b : List Byte) (n image len k : Nat) : Bool :=
  let g := Stage.of b
  let shape := byteField b 8 1
  fld shape 0 2 != 3 && fld shape 4 4 == 0 && zeroIn b 10 2 && zeroIn b 22 2 && g.entry % 8 == 0 && decide (image ≤ g.entry) &&
    decide (g.entry < image + len) && decide (g.entry < 2 ^ 56) && g.live.getLsbD 0 && decide (g.inq < 2 ^ 56) && g.inq % 64 == 0 &&
    (g.out == 0 || (decide (k < g.out) && decide (g.out < n))) &&
    (if k = 0 then !g.stream && g.qdepth == 0 && g.inq == 0 else depthOk g.qdepth)

/-- The stage table meets R44 and R45. -/
def stagesOk (b : List Byte) (n image len : Nat) : Bool :=
  let entry (k : Nat) : List Byte := (b.drop (32 * k)).take 32
  (List.range n).all (fun k => stageOk (entry k) n image len k) &&
    (List.range n).all fun k => k == 0 || (List.range n).any fun j => (Stage.of (entry j)).out == k

/-- The swarm table's header meets R73. -/
def swarmHeaderOk (b : List Byte) : Bool :=
  byteField b 0 2 == 0x0100 && zeroIn b 2 2 && decide (1 ≤ byteField b 4 4) && decide (byteField b 4 4 ≤ 4096) && zeroIn b 16 48

/-- An entry of the swarm table meets R73. -/
def swarmEntryOk (b : List Byte) : Bool :=
  let port (i : Nat) : Bool := decide (byteField b i 1 ≤ 7) || byteField b i 1 == 0xFF
  port 16 && port 17 && zeroIn b 18 14

/-- The entries of the swarm table that name this device (R74). -/
def swarmRanks (b : List Byte) (n : Nat) : List Nat :=
  (List.range n).filter fun k => byteField b (32 * k) 16 == Config.devid.toNat

/-! ## Records -/

/-- The 32 bytes of a completion record (R46). -/
def recordBytes (status dropped tasks start stop : Nat) : List Byte :=
  leBytes 2 status ++ leBytes 2 0 ++ leBytes 4 (dropped % 2 ^ 32) ++ leBytes 8 tasks ++ leBytes 8 start ++ leBytes 8 stop

/-- Writes a completion record, or none where COMPL is zero; where it cannot be written, the queue stops (R433). The host is
signalled where the card asks for it (R47, R414). -/
def State.writeRecord (s : State) (vf k compl : Nat) (irq : Bool) (b : List Byte) : State :=
  let s := if compl = 0 then s else
    match s.part? vf with
    | none => s
    | some p =>
      match State.devWrite p compl b s with
      | .ok s => s
      | .error _ => s.stopQueue vf k
  if irq then s.send (.msix vf 0) else s

/-- Why a card is not started: its status, and the fault that is reported (R46). -/
structure Rejected where
  status : Nat
  fault : Option (Nat × Nat)
deriving DecidableEq, Repr

/-- Reads bytes for the command processor: a translation or permission fault is reported, an uncorrectable byte is logged
(R46, R200). -/
def State.cardRead (s : State) (p : Partition) (a n : Nat) : Except (Rejected × State) (List Byte × State) :=
  match State.devRead p a n s with
  | .error .unmapped => .error (⟨4, some (cLPF, a)⟩, s)
  | .error .denied => .error (⟨4, some (cPROT, a)⟩, s)
  | .ok (b, s) =>
    if anyBad b then .error (⟨4, none⟩, s.hostCause cHBMUE (w64 (a + b.findIdx (·.2))))
    else .ok (bytesOf b, s)

/-- The first instruction word of stage 0 can be fetched (R46). -/
def State.entryRead (s : State) (p : Partition) (a : Nat) : Except (Rejected × State) State :=
  match s.hbmReadN p.ctx 2 true false .fetch a 8 with
  | .error .unmapped => .error (⟨4, some (cIPF, a)⟩, s)
  | .error .denied => .error (⟨4, some (cPROT, a)⟩, s)
  | .ok ((_, bad), s) => if bad then .error (⟨4, none⟩, s.hostCause cHBMUE (w64 a)) else .ok s

/-- What a swarm table gives this chip: its rank, the number of ranks, GEN, and the ports toward its neighbours. -/
structure Swarm where
  rank : Nat
  ranks : Nat
  gen : Option Word
  ports : List Nat
deriving DecidableEq, Repr

/-- The swarm of a card (R73, R74); rank 0 of one without a table. -/
def State.swarmOf (s : State) (p : Partition) (c : Card) : Except (Rejected × State) (Swarm × State) :=
  if !c.swarm then .ok (⟨0, 1, none, []⟩, s)
  else match s.cardRead p c.swtab 64 with
    | .error e => .error e
    | .ok (h, s) =>
      if !swarmHeaderOk h then .error (⟨1, none⟩, s)
      else
        let n := byteField h 4 4
        match s.cardRead p (c.swtab + 64) (32 * n) with
        | .error e => .error e
        | .ok (b, s) =>
          if !((List.range n).all fun k => swarmEntryOk ((b.drop (32 * k)).take 32)) then .error (⟨1, none⟩, s)
          else match swarmRanks b n with
            | [r] => .ok (⟨r, n, some (w64 (byteField h 8 8)), [byteField b (32 * r + 16) 1, byteField b (32 * r + 17) 1]⟩, s)
            | _ => .error (⟨3, none⟩, s)

/-- LSTART goes to the neighbours of a swarm's launch, on ports of interface version 0x0101 (R419, R420). -/
def State.sendLstart (s : State) (w : Swarm) : State :=
  match w.gen with
  | none => s
  | some g => w.ports.foldl (fun s k =>
      match (if k < 8 then s.ports.toArray[k]? else none) with
      | some q => if 0x0101 ≤ q.version ∧ s.portLive k then s.send (.lstart k g w.rank) else s
      | none => s) s

/-- The launch that a card starts, or why it is rejected: the checks of R45, R73, R74 and R429. Of several that fail the first in this order
gives STATUS: fields and levels, image header, swarm table, product, stage table, entry word (DESIGN CHOICE, log 90); an image header
that cannot be read gives FETCH (DESIGN CHOICE, log 91). -/
def State.checkCard (s : State) (p : Partition) (k serial : Nat) (c : Card) : Except (Rejected × State) (Launch × State) :=
  if !c.fieldsOk then .error (⟨1, none⟩, s)
  else match s.cardRead p c.image 128 with
  | .error e => .error e
  | .ok (h, s) =>
    if !imageOk h then .error (⟨1, none⟩, s)
    else match s.swarmOf p c with
    | .error e => .error e
    | .ok (w, s) =>
      let l : Launch :=
        { id := p.nextLaunch, queue := k, serial := serial, irq := c.irq, arg := w64 c.arg, levels := c.lvls, stages := [],
          fptab := c.fptab, fpcnt := c.fpcnt, compl := c.compl,
          nexts := List.replicate (if c.lvls.any (·.kind == 2) then p.stacks else 1) 0, created := 0, start := none,
          dropped := 0, rank := w.rank, ranks := w.ranks, gen := w.gen, killed := false }
      if !decide (c.lvls.foldl (fun a v => a * (if v.kind = 2 then v.extent else l.localExtent 1 0 v)) 1 ≤ 2 ^ 32) then
        .error (⟨1, none⟩, s)
      else match s.cardRead p c.stgtab (32 * c.nstg) with
      | .error e => .error e
      | .ok (b, s) =>
        if !stagesOk b c.nstg c.image (byteField h 8 8) then .error (⟨2, none⟩, s)
        else
          let stages := (List.range c.nstg).map fun j => Stage.of ((b.drop (32 * j)).take 32)
          match s.entryRead p (byteField b 0 8) with
          | .error e => .error e
          | .ok s => .ok ({ l with stages := stages }, s.sendLstart w)

/-- The notice of a fault that a card meets: no task is concerned, so the spec gives NTASK and NHIVE no value (DESIGN CHOICE, log 17). -/
def State.cardNotice (s : State) (vf cause addr : Nat) : State :=
  let n : Notice :=
    { cause := cause, engine := false, unhandled := false, double := false, frame := 0xFFFFFFFF,
      ntask := Config.freeWord s.fresh, ntval := w64 addr, nhive := (Config.freeWord (s.fresh + 1)).toNat % 2 ^ 16, task := none,
      svc := false }
  { s with fresh := s.fresh + 2 }.raiseNotice vf n

/-- A rejected card: its notice, then its record, or, without a valid COMPL, the stop of the queue (R45, R46, R433). -/
def State.rejectCard (s : State) (vf k : Nat) (compl : Option Nat) (irq : Bool) (r : Rejected) : State :=
  let s := match r.fault with
    | some (c, a) => s.cardNotice vf c a
    | none => s
  match compl with
  | some a => s.writeRecord vf k a irq (recordBytes r.status 0 0 s.cycle.toNat s.cycle.toNat)
  | none =>
    let s := s.stopQueue vf k
    if irq then s.send (.msix vf 0) else s

/-! ## CARD_FETCH (R175) -/

/-- The command processor may fetch queue `k`'s next card: it is enabled, not in error and holds cards, and its previous
launch has no index point left to create. -/
def Partition.cardReady (p : Partition) (k : Nat) : Bool :=
  let q := p.queue k
  q.en && !q.err && q.prod != q.cons && !(p.launches.any fun l => l.queue == k && l.pointsLeft p.stacks)

/-- A checkpoint runs (R428). -/
def State.checkpointing (s : State) : Bool := s.keeper.busy && s.keeper.mbcmd == 8 && s.keeper.result.isNone

/-- A card can be fetched: READY.CP is set, no checkpoint runs, and the queue has a card for it (R422, R428). -/
def State.mayFetch (s : State) (p : Partition) (k : Nat) : Bool := s.ready.getLsbD 26 && !s.checkpointing && p.cardReady k

/-- CARD_FETCH (R175): fetches, checks and starts or rejects the next card of a queue. The address fields and COMPL of a card of any CARDV
are read at the places of the layout of R42, before its version is refused (DESIGN CHOICE, log 92). -/
def execCardFetch (vf k : Nat) (s : State) : Host.Outcome State Fault Refusal :=
  match s.part? vf with
  | none => .next s
  | some p =>
    if !s.mayFetch p k then .next s
    else
      let q := p.queue k
      let a := q.base.toNat * 128 + 128 * (q.cons.toNat % 2 ^ q.log.toNat)
      let serial := p.serials.getD k 0
      let p := { p.setQueue k { q with cons := q.cons + 1 } with serials := p.serials.set k ((serial + 1) % 2 ^ 28) }
      let s := s.setPart p
      .next (match s.cardRead p a 128 with
        | .error (r, s) => s.rejectCard vf k none false r
        | .ok (b, s) =>
          let c := Card.of b
          if !c.addrsOk then s.rejectCard vf k none c.irq ⟨1, none⟩
          else match s.checkCard p k serial c with
            | .error (r, s) => s.rejectCard vf k (some c.compl) c.irq r
            | .ok (l, s) =>
              match s.part? vf with
              | none => s
              | some p => s.setPart { p with launches := p.launches ++ [l], nextLaunch := p.nextLaunch + 1 })

/-! ## LAUNCH_END (R47) -/

/-- A launch has ended: no task of it exists, and nothing of it remains to create one. -/
def State.launchDone (s : State) (p : Partition) (l : Launch) : Bool :=
  !(s.tasks.any fun t => t.vf == p.vf && t.launch == l.id) && !l.pointsLeft p.stacks && l.stages.all (·.count == 0)

/-- Every dirty line of the hive caches of a partition is written back, so that what its tasks wrote is visible at SYS
scope (R47). -/
def State.releasePartition (s : State) (p : Partition) : State :=
  (s.hiveLines.filter fun k => k.2.dirty != 0 && decide (p.firstHive ≤ k.1) && decide (k.1 < p.firstHive + p.nHives)).foldl
    (fun s k => s.writeBackLines { p.ctx with hive := k.1 } [k.2]) s

/-- LAUNCH_END (R47, R180): the launch's writes become visible, its record is written, and hives tagged for it become
OPEN. START of a launch that ran no instruction has no value (DESIGN CHOICE, log 18). -/
def execLaunchEnd (vf l : Nat) (s : State) : Host.Outcome State Fault Refusal :=
  match s.part? vf with
  | none => .next s
  | some p =>
    match p.launch? l with
    | none => .next s
    | some x =>
      if !s.launchDone p x then .next s
      else
        let s := s.releasePartition p
        let start := x.start.getD (Config.freeWord s.fresh).toNat
        let s := { s with fresh := s.fresh + 1 }
        let s := s.writeRecord vf x.queue x.compl x.irq
          (recordBytes (if x.killed then 5 else 0) x.dropped x.created start s.cycle.toNat)
        .next (match s.part? vf with
          | none => s
          | some p =>
            let s := s.setPart { p with launches := p.launches.filter (·.id != l) }
            { s with hives := s.hives.map fun h =>
                match h.tag with
                | some (v, m, _) => if v = vf ∧ m = l then { h with tag := none } else h
                | none => h })

end Sys2Proof.Machine
end

