-- ==== Sys2Proof/Machine/Draw.lean ====
section
/-! DEFINITION. Index points (R48, R49, R51), placement (R58, R188, R192), the lottery (R176 to R178), the clearing of combs (R59)
and the stage scheduler (R179, R180, R55). -/

namespace Sys2Proof.Machine

/-! ## Index points -/

/-- Coordinates of a local place along the levels, the innermost fastest; a temporal level has one place. -/
def localCoords (ext : Level → Nat) : List Level → Nat → List Nat
  | [], _ => []
  | _ :: r, n =>
    let inner := r.foldl (fun a w => a * ext w) 1
    (n / inner) :: localCoords ext r (n % inner)

/-- The coordinate of a local place along a level, on stack `d` of `n` (R49). -/
def Launch.coordinate (l : Launch) (n d : Nat) (v : Level) (k : Nat) : Nat :=
  match v.kind with
  | 2 => d + n * k
  | 3 => l.rank + l.ranks * k
  | _ => k

/-- Coordinates of the next point of stack `d` of `n`, level by level (R48, R49). -/
def Launch.point (l : Launch) (n d : Nat) : List Nat :=
  l.levels.zipWith (fun v k => l.coordinate n d v k) (localCoords (l.localExtent n d) l.levels (l.nexts.getD d 0))

/-- Lexicographic order of coordinates. -/
def lexBefore : List Nat → List Nat → Bool
  | [], _ => true
  | _, [] => true
  | a :: r, b :: q => decide (a < b) || (a == b && lexBefore r q)

/-- The stacks that have a point left, in the order of their next points (R48, R176). -/
def Launch.pointOrder (l : Launch) (n : Nat) : List Nat :=
  sortBy (fun d e => lexBefore (l.point n d) (l.point n e))
    ((List.range l.nexts.length).filter fun d => !l.killed && decide (l.nexts.getD d 0 < l.share n d))

/-- ix0 to ix3 of a task with `vlmax` cells (R51): the point's coordinates for a stage 0 task, extents and strips for temporal
levels. -/
def Launch.ixs (l : Launch) (point : Option (List Nat)) (vlmax : Nat) : Vector (BitVec 40) 4 :=
  Vector.ofFn fun k : Fin 4 =>
    match l.levels[k.val]? with
    | none => 0
    | some v =>
      if v.kind = 0 then BitVec.ofNat 40 (if v.strip then (v.extent + vlmax - 1) / vlmax else v.extent)
      else match point with
        | some c => BitVec.ofNat 40 (c.getD k.val 0)
        | none => 0

/-- The strip-mined level's extent and the counter it is bound to (R50, R63). -/
def Launch.stripLevel (l : Launch) : Option (Nat × Nat) :=
  let t := l.levels.filter (·.kind == 0)
  (t.findIdx? (·.strip)).map fun k => ((t.getD k ⟨0, false, 0⟩).extent, k)

/-! ## Room (R23, R58, R188, R192) -/

/-- Tasks that hold combs of a hive: those in its VLCs, or in shadow store with the combs they return to. -/
def State.heldIn (s : State) (h : Nat) : List Task :=
  s.tasks.filter fun t => t.hive == h && t.holdsCombs

/-- A run of `n` combs from `c` is unowned. -/
def runFree (l : List Task) (c n : Nat) : Bool :=
  l.all fun t => decide (t.firstComb + t.combs ≤ c) || decide (c + n ≤ t.firstComb)

/-- The lowest aligned run of `n` unowned combs of a hive. -/
def State.freeRun (s : State) (h n : Nat) : Option Nat :=
  ((List.range (64 / n)).map (· * n)).find? fun c => runFree (s.heldIn h) c n

/-- The lowest free VLC of a hive (DESIGN CHOICE, log 19). -/
def State.freeVlc (s : State) (h : Nat) : Option Nat := (List.range 4).find? fun v => !((s.heldIn h).any (·.vlc == v))

/-- Swap slots of a partition (R188). -/
def Partition.slots (p : Partition) : Nat := if p.swcnt.toNat < 4 * p.nHives then 4 * p.nHives else p.swcnt.toNat

/-- The lowest free swap slot of a partition. -/
def State.freeSlot (s : State) (p : Partition) : Option Nat :=
  let used := (s.tasks.filter (·.vf == p.vf)).map (·.slot)
  (List.range p.slots).find? fun k => !used.contains k

/-- The room that a task stalled on a full queue waits for (R55, R192). -/
def State.outRoom (s : State) (t : Task) : Bool :=
  match (s.part? t.vf).bind fun p => p.launch? t.launch with
  | some l => s.queueRoom t.vf l t.out
  | none => true

/-- The wait of an instruction, at an object where it is a BARWAIT, still needs a job or matrix operation that is paused (R152) (DEDUCED,
log 65). -/
def State.waitNeedsPaused (s : State) (t : Task) (i : Instr) (obj : Option Nat) : Bool :=
  let counts (w : Option Word) : Bool :=
    classes.any fun c => decide (waitLimit w c < t.counter c) && decide (waitLimit w c < s.pausedIn t c)
  match i with
  | .wait _ w => counts w
  | .halt _ => counts none
  | .sleeptil _ sa =>
    s.heldJobs.any fun j => j.task == t.id && (match j.promise with | some p => decide (p ≤ (t.rs sa).toNat) | none => false)
  | .barwait .. => s.arrivalHeld t obj
  | .wgwait _ _ n => s.waggleNeedsPaused t ((s.hive t.hive).term n)
  | _ => false

/-- A task in its frame awaits its restore (R192): its pages have arrived, the queue has room, or no job that its wait needs is
paused. One that is ending there does not return (R204, R426). -/
def State.awaitsRestore (s : State) (t : Task) : Bool :=
  !t.isEnding && match t.place with
  | .frame (.fault _ _) _ ready => ready
  | .frame .fullQueue _ _ => s.outRoom t
  | .frame (.engineWait i obj) _ _ => !s.waitNeedsPaused t i obj
  | .frame .preempt _ _ => true
  | _ => false

/-- Whether a restore into a hive waits. -/
def State.restoreInto (s : State) (h : Nat) : Bool := s.tasks.any fun t => t.hive == h && s.awaitsRestore t

/-- A hive can take a task of a stage: a run, a VLC, no waiting restore, a stack that has not failed (R432), and, for MX, 32 rows neither granted nor reserved. -/
def State.hiveTakes (s : State) (g : Stage) (h : Nat) : Bool :=
  (s.freeRun h g.combs).isSome && (s.freeVlc h).isSome && !s.restoreInto h && !s.failed.getLsbD (9 + dieOf h) &&
    (!g.mx || decide ((s.runsTaken (h / 4)).length + s.runsReserved (h / 4) s.nextTask < 4))

/-- The hives of a partition that a point's stack allows; every hive without one (R49) (DEDUCED, log 47). -/
def Partition.candidates (p : Partition) (die : Option Nat) : List Nat :=
  ((List.range p.nHives).map (p.firstHive + ·)).filter fun h =>
    match die with
    | some d => dieOf h == dieOf p.firstHive + d
    | none => true

/-- The hive for a task of a stage (R58, R180): the lowest that serves the stage, else the lowest empty one given to it. -/
def State.placeIn (s : State) (p : Partition) (l : Launch) (k : Nat) (die : Option Nat) : Option Nat :=
  if (s.freeSlot p).isNone then none
  else
    let g := l.stage k
    let ok := (p.candidates die).filter (s.hiveTakes g)
    let serves (h : Nat) : Bool := (s.heldIn h).any fun t => t.vf == p.vf && t.launch == l.id && t.stage == k
    let given (h : Nat) : Bool :=
      (s.heldIn h).isEmpty && (match (s.hive h).tag with | none => true | some g => g == (p.vf, l.id, k))
    match ok.find? serves with
    | some h => some h
    | none => ok.find? given

/-! ## What a draw places (R176) -/

/-- A stage can be given a task now, room apart (R44, R52). -/
def State.creatable (s : State) (p : Partition) (l : Launch) (k : Nat) : Bool :=
  let g := l.stage k
  (g.maxt == 0 || decide ((s.tasks.filter fun t => t.vf == p.vf && t.launch == l.id && t.stage == k).length < g.maxt)) &&
    (if k = 0 then l.pointsLeft p.stacks else g.count != 0)

/-- A task that can be placed: its launch, stage, the stack of its point, and its hive. -/
structure Placing where
  launch : Launch
  stage : Nat
  point : Option Nat
  hive : Nat
deriving DecidableEq, Repr

/-- The first task of a stage that can be placed. -/
def State.placeStage (s : State) (p : Partition) (l : Launch) (k : Nat) : Option Placing :=
  if !s.creatable p l k then none
  else if k = 0 then
    let dies := l.levels.any (·.kind == 2)
    (l.pointOrder p.stacks).findSome? fun d => (s.placeIn p l 0 (if dies then some d else none)).map fun h => ⟨l, 0, some d, h⟩
  else (s.placeIn p l k none).map fun h => ⟨l, k, none, h⟩

/-- The task that queue `k` would place: oldest launch first, then lowest stage, then point or queue order. -/
def State.placeQueue (s : State) (p : Partition) (k : Nat) : Option Placing :=
  (p.launches.filter (·.queue == k)).findSome? fun l => (List.range l.stages.length).findSome? fun j => s.placeStage p l j

/-- The eligible queues with what each would place (R176). -/
def State.eligible (s : State) (p : Partition) : List (Nat × Placing) :=
  (List.range 16).filterMap fun k =>
    let q := p.queue k
    if q.tickets = 0 ∨ !q.en then none else (s.placeQueue p k).map fun x => (k, x)

/-- A draw is due: the partition runs, four cycles have passed, and a queue is eligible (R177, R194). -/
def State.drawDue (s : State) (p : Partition) : Bool :=
  p.psState == 0 && decide (p.drawAt ≤ s.cycle.toNat) && !(s.eligible p).isEmpty

/-! ## The lottery (R177) -/

/-- One step of the lottery's state. -/
def lottery (x : BitVec 32) : BitVec 32 :=
  let x := x ^^^ (x <<< 13)
  let x := x ^^^ (x >>> 17)
  x ^^^ (x <<< 5)

/-- The queue whose tickets hold the drawn number. -/
def ticketOf (r : Nat) : Nat → List (Nat × Nat) → Option Nat
  | _, [] => none
  | sum, (q, n) :: l => if r < sum + n then some q else ticketOf r (sum + n) l

/-- The winner among eligible queues for a drawn state. -/
def Partition.winner (p : Partition) (el : List Nat) (x : BitVec 32) : Option Nat :=
  match el.find? fun q => decide ((p.queue q).age = 4096) with
  | some q => some q
  | none =>
    let l := el.map fun q => (q, (p.queue q).tickets.toNat)
    ticketOf (x.toNat % (l.map (·.2)).sum) 0 l

/-- The draw's effect on the ages of the eligible queues. -/
def Partition.ageQueues (p : Partition) (w : Nat) (el : List Nat) : Partition :=
  el.foldl (fun p q => p.setQueue q { p.queue q with age := if q = w then 0 else min 4096 ((p.queue q).age + 1) }) p

/-! ## Creation (R58, R60, R63, R188) -/

/-- Creates the task that a draw places; a per-item task consumes its item (R52), and taking it is an acquire (R54). -/
def State.create (s : State) (p : Partition) (x : Placing) : State :=
  let l := x.launch
  let g := l.stage x.stage
  match s.freeRun x.hive g.combs, s.freeVlc x.hive, s.freeSlot p with
  | some run, some vlc, some slot =>
    let n := p.stacks
    let perItem := x.stage != 0 && !g.stream
    let b : Birth :=
      { id := s.nextTask, vf := p.vf, launch := l.id, stage := x.stage, out := g.out, sup := (p.queue l.queue).sup, hive := x.hive,
        vlc := vlc, firstComb := run, combs := g.combs, live := g.live, slot := slot, mx := g.mx, entry := g.entry, arg := l.arg,
        avl := (l.stripLevel.map (·.1)).getD 0, slc := l.stripLevel.map (·.2),
        ix := l.ixs (x.point.map fun d => l.point n d) (g.combs * Config.cellsPerComb), queue := l.queue, serial := l.serial,
        seq := l.created, rank := l.rank, itemAt := if perItem then some (g.itemAddr g.head) else none }
    let l := { l with created := l.created + 1 }
    let l := match x.point with
      | some d => { l with nexts := l.nexts.set d (l.nexts.getD d 0 + 1) }
      | none => l
    let l := if perItem then l.setStage x.stage { g with head := g.head + 1, count := g.count - 1 } else l
    let s := { s.setPart (p.setLaunch l) with tasks := s.tasks ++ [b.task], nextTask := s.nextTask + 1 }
    if perItem then s.acquireHive { p.ctx with hive := x.hive } else s
  | _, _, _ => s

/-- DRAW (R177): the lottery of a partition places one task. -/
def execDraw (vf _l : Nat) (s : State) : Host.Outcome State Fault Refusal :=
  match s.part? vf with
  | none => .next s
  | some p =>
    if !s.drawDue p then .next s
    else
      let el := s.eligible p
      let x := lottery p.lseed
      match p.winner (el.map (·.1)) x with
      | none => .next s
      | some w =>
        let p := { p.ageQueues w (el.map (·.1)) with lseed := x, drawAt := s.cycle.toNat + 4 }
        match el.find? (·.1 == w) with
        | some (_, y) => .next ((s.setPart p).create p y)
        | none => .next s

/-- COMB_CLEAR (R59): the 260 passes that clear a placed task's combs are done. -/
def execCombClear (t : Nat) (s : State) : Host.Outcome State Fault Refusal :=
  match s.task? t with
  | none => .next s
  | some u => .next (if u.cleared then s else s.setTask u.clear)

/-! ## The stage scheduler (R179, R180) -/

/-- The hives of a partition that hold no task and into which none waits to be restored. -/
def State.freeHives (s : State) (p : Partition) : List Nat :=
  (p.candidates none).filter fun h => (s.heldIn h).isEmpty && !s.restoreInto h

/-- A (launch, stage) pair with its weight. -/
structure Weighed where
  launch : Nat
  stage : Nat
  weight : Nat
deriving DecidableEq, Repr

/-- The weight of a stage. -/
def State.weigh (s : State) (p : Partition) (l : Launch) (k : Nat) : Nat :=
  let g := l.stage k
  let o := l.stage g.out
  let t := (p.queue l.queue).tickets.toNat
  if !s.creatable p l k then 0
  else if g.out ≠ 0 ∧ 3 * o.qdepth ≤ 4 * o.count then 0
  else if k = 0 then t
  else t * (1 + 1024 * g.count / g.qdepth)

/-- The pairs of a partition in the order of queue, launch, stage. -/
def State.pairs (s : State) (p : Partition) : List Weighed :=
  ((List.range 16).flatMap fun q => p.launches.filter (·.queue == q)).flatMap fun l =>
    (List.range l.stages.length).map fun k => ⟨l.id, k, s.weigh p l k⟩

/-- How many of `f` hives each pair receives. -/
def shares (f : Nat) (w : List Weighed) : List Nat :=
  let total := (w.map (·.weight)).sum
  let base := w.map fun x => f * x.weight / total
  let r (k : Nat) : Nat := f * ((w.map (·.weight)).getD k 0) % total
  let order := sortBy (fun i j => decide (r j < r i) || (r i == r j && decide (i ≤ j))) (List.range w.length)
  let extra := order.take (f - base.sum)
  base.zipIdx.map fun b => if extra.contains b.2 then b.1 + 1 else b.1

/-- The tags handed out, in the order of the pairs. -/
def tagList (vf : Nat) (w : List Weighed) (n : List Nat) : List (Nat × Nat × Nat) :=
  (w.zip n).flatMap fun x => List.replicate x.2 (vf, x.1.launch, x.1.stage)

/-- Tags the free hives of a partition. -/
def State.tagHives (s : State) (p : Partition) : State :=
  let f := s.freeHives p
  let w := s.pairs p
  let tags := if (w.map (·.weight)).sum = 0 then [] else tagList p.vf w (shares f.length w)
  f.zipIdx.foldl (fun s h => s.setHive { s.hive h.1 with tag := tags[h.2]? }) s

/-- A producer still stalled at the second epoch boundary, without room for a consumer, is chosen for a swap (R55), and one that had
room there at the first later boundary without room (DESIGN CHOICE, log 95). -/
def State.stallSwaps (s : State) (p : Partition) : State :=
  let chosen (t : Task) : Bool :=
    t.vf == p.vf && t.place == .vlc && t.wait == some .enq && t.stop.isNone &&
      (match t.stallSince with | some c => decide ((c / 4096 + 2) * 4096 ≤ s.cycle.toNat) | none => false) &&
      (match p.launch? t.launch with | some l => (s.placeIn p l t.out none).isNone | none => false)
  { s with tasks := s.tasks.map fun t => if chosen t then { t with stop := some .fullQueue, stopAt := s.cycle.toNat } else t }

/-- STAGE_EPOCH (R57, R179, R55), skipped while a partition saves, is saved or restores (R205). -/
def execStageEpoch (s : State) : Host.Outcome State Fault Refusal :=
  .next (s.parts.foldl (fun s p => if p.psState = 0 then (s.tagHives p).stallSwaps p else s) s)

end Sys2Proof.Machine
end

