-- ==== Sys2Proof/Machine/Scalar.lean ====
section
/-! DEFINITION. Scalar integer operations, compares and predicate operations: OPC 0x01 to 0x05 (R234 to R240). -/

namespace Sys2Proof.Machine

/-! ## Results (R235 to R237) -/

/-- Bits [127:64] of the signed product. -/
def mulhW (a b : Word) : Word := BitVec.ofInt 64 (a.toInt * b.toInt / 2 ^ 64)
/-- Bits [127:64] of the unsigned product. -/
def mulhuW (a b : Word) : Word := BitVec.ofNat 64 (a.toNat * b.toNat / 2 ^ 64)
/-- Signed quotient, truncated (R236). -/
def divW (a b : Word) : Word := if b = 0 then BitVec.allOnes 64 else BitVec.ofInt 64 (a.toInt.tdiv b.toInt)
/-- Unsigned quotient (R236). -/
def divuW (a b : Word) : Word := if b = 0 then BitVec.allOnes 64 else BitVec.ofNat 64 (a.toNat / b.toNat)
/-- Signed remainder, with the dividend's sign (R236). -/
def remW (a b : Word) : Word := if b = 0 then a else BitVec.ofInt 64 (a.toInt.tmod b.toInt)
/-- Unsigned remainder (R236). -/
def remuW (a b : Word) : Word := if b = 0 then a else BitVec.ofNat 64 (a.toNat % b.toNat)
/-- Left shift; 0 from 64 up. -/
def shlW (a : Word) (n : Nat) : Word := if 64 ≤ n then 0 else a <<< n
/-- Right shift; 0 from 64 up. -/
def shrW (a : Word) (n : Nat) : Word := if 64 ≤ n then 0 else a >>> n
/-- Arithmetic right shift; 64 and more act as 63. -/
def sraW (a : Word) (n : Nat) : Word := a.sshiftRight (min n 63)
/-- Leading zero bits. -/
def clzW (a : Word) : Word := w64 (64 - bitLen a.toNat)
/-- Trailing zero bits from bit `64 - n` up. -/
def ctzFrom (a : Word) : Nat → Nat
  | 0 => 64
  | n + 1 => if a.getLsbD (64 - (n + 1)) then 64 - (n + 1) else ctzFrom a n
/-- Trailing zero bits. -/
def ctzW (a : Word) : Word := w64 (ctzFrom a 64)
/-- One bits among the low `n`. -/
def popCount (a : Nat) : Nat → Nat
  | 0 => 0
  | n + 1 => a % 2 + popCount (a / 2) n
/-- One bits. -/
def popcW (a : Word) : Word := w64 (popCount a.toNat 64)
/-- Position and length of a field descriptor, the length cut at bit 63 (R237). -/
def fieldOf (b : Word) : Nat × Nat := (fld b.toNat 0 6, min (fld b.toNat 8 6 + 1) (64 - fld b.toNat 0 6))
/-- Field of `a`, zero-extended (R237). -/
def extzW (a b : Word) : Word := w64 (fld a.toNat (fieldOf b).1 (fieldOf b).2)
/-- Field of `a`, sign-extended (R237). -/
def extsW (a b : Word) : Word := BitVec.ofInt 64 (toSigned (fieldOf b).2 (fld a.toNat (fieldOf b).1 (fieldOf b).2))
/-- `c` with a field replaced from the low bits of `a` (R237). -/
def insW (a b c : Word) : Word :=
  let (pos, n) := fieldOf b
  let m : Word := BitVec.ofNat 64 ((2 ^ n - 1) * 2 ^ pos)
  (c &&& ~~~m) ||| ((a <<< pos) &&& m)

/-! ## Meanings -/

/-- Writes a result register. -/
def aluWord (p : Pred) (i : Instr) (s : State) (sd : Nat) (v : Task → Word) : Host.Outcome State Fault Refusal :=
  runTask .q p i s fun t => t.ws sd (v t)

/-- Writes a predicate. -/
def cmpWord (p : Pred) (i : Instr) (s : State) (qd : Nat) (v : Task → Bool) : Host.Outcome State Fault Refusal :=
  runTask .q p i s fun t => t.wq qd (v t)

/-- ADD (R235). -/
def execAdd (p : Pred) (sd sa sb : Nat) (s : State) : Host.Outcome State Fault Refusal :=
  aluWord p (.add p sd sa sb) s sd fun t => t.rs sa + t.rs sb

/-- SUB (R235). -/
def execSub (p : Pred) (sd sa sb : Nat) (s : State) : Host.Outcome State Fault Refusal :=
  aluWord p (.sub p sd sa sb) s sd fun t => t.rs sa - t.rs sb

/-- MUL (R235). -/
def execMul (p : Pred) (sd sa sb : Nat) (s : State) : Host.Outcome State Fault Refusal :=
  aluWord p (.mul p sd sa sb) s sd fun t => t.rs sa * t.rs sb

/-- MULH (R235). -/
def execMulh (p : Pred) (sd sa sb : Nat) (s : State) : Host.Outcome State Fault Refusal :=
  aluWord p (.mulh p sd sa sb) s sd fun t => mulhW (t.rs sa) (t.rs sb)

/-- MULHU (R235). -/
def execMulhu (p : Pred) (sd sa sb : Nat) (s : State) : Host.Outcome State Fault Refusal :=
  aluWord p (.mulhu p sd sa sb) s sd fun t => mulhuW (t.rs sa) (t.rs sb)

/-- DIV (R235). -/
def execDiv (p : Pred) (sd sa sb : Nat) (s : State) : Host.Outcome State Fault Refusal :=
  aluWord p (.div p sd sa sb) s sd fun t => divW (t.rs sa) (t.rs sb)

/-- DIVU (R235). -/
def execDivu (p : Pred) (sd sa sb : Nat) (s : State) : Host.Outcome State Fault Refusal :=
  aluWord p (.divu p sd sa sb) s sd fun t => divuW (t.rs sa) (t.rs sb)

/-- REM (R235). -/
def execRem (p : Pred) (sd sa sb : Nat) (s : State) : Host.Outcome State Fault Refusal :=
  aluWord p (.rem p sd sa sb) s sd fun t => remW (t.rs sa) (t.rs sb)

/-- REMU (R235). -/
def execRemu (p : Pred) (sd sa sb : Nat) (s : State) : Host.Outcome State Fault Refusal :=
  aluWord p (.remu p sd sa sb) s sd fun t => remuW (t.rs sa) (t.rs sb)

/-- AND (R235). -/
def execAndS (p : Pred) (sd sa sb : Nat) (s : State) : Host.Outcome State Fault Refusal :=
  aluWord p (.andS p sd sa sb) s sd fun t => t.rs sa &&& t.rs sb

/-- OR (R235). -/
def execOrS (p : Pred) (sd sa sb : Nat) (s : State) : Host.Outcome State Fault Refusal :=
  aluWord p (.orS p sd sa sb) s sd fun t => t.rs sa ||| t.rs sb

/-- XOR (R235). -/
def execXorS (p : Pred) (sd sa sb : Nat) (s : State) : Host.Outcome State Fault Refusal :=
  aluWord p (.xorS p sd sa sb) s sd fun t => t.rs sa ^^^ t.rs sb

/-- SHL (R235). -/
def execShl (p : Pred) (sd sa sb : Nat) (s : State) : Host.Outcome State Fault Refusal :=
  aluWord p (.shl p sd sa sb) s sd fun t => shlW (t.rs sa) (t.rs sb).toNat

/-- SHR (R235). -/
def execShr (p : Pred) (sd sa sb : Nat) (s : State) : Host.Outcome State Fault Refusal :=
  aluWord p (.shr p sd sa sb) s sd fun t => shrW (t.rs sa) (t.rs sb).toNat

/-- SRA (R235). -/
def execSra (p : Pred) (sd sa sb : Nat) (s : State) : Host.Outcome State Fault Refusal :=
  aluWord p (.sra p sd sa sb) s sd fun t => sraW (t.rs sa) (t.rs sb).toNat

/-- ROL (R235). -/
def execRol (p : Pred) (sd sa sb : Nat) (s : State) : Host.Outcome State Fault Refusal :=
  aluWord p (.rol p sd sa sb) s sd fun t => (t.rs sa).rotateLeft ((t.rs sb).toNat % 64)

/-- MIN (R235). -/
def execMinS (p : Pred) (sd sa sb : Nat) (s : State) : Host.Outcome State Fault Refusal :=
  aluWord p (.minS p sd sa sb) s sd fun t => if sltW (t.rs sb) (t.rs sa) then t.rs sb else t.rs sa

/-- MAX (R235). -/
def execMaxS (p : Pred) (sd sa sb : Nat) (s : State) : Host.Outcome State Fault Refusal :=
  aluWord p (.maxS p sd sa sb) s sd fun t => if sltW (t.rs sa) (t.rs sb) then t.rs sb else t.rs sa

/-- MINU (R235). -/
def execMinu (p : Pred) (sd sa sb : Nat) (s : State) : Host.Outcome State Fault Refusal :=
  aluWord p (.minu p sd sa sb) s sd fun t => if ultW (t.rs sb) (t.rs sa) then t.rs sb else t.rs sa

/-- MAXU (R235). -/
def execMaxu (p : Pred) (sd sa sb : Nat) (s : State) : Host.Outcome State Fault Refusal :=
  aluWord p (.maxu p sd sa sb) s sd fun t => if ultW (t.rs sa) (t.rs sb) then t.rs sb else t.rs sa

/-- EXTS (R235). -/
def execExts (p : Pred) (sd sa sb : Nat) (s : State) : Host.Outcome State Fault Refusal :=
  aluWord p (.exts p sd sa sb) s sd fun t => extsW (t.rs sa) (t.rs sb)

/-- EXTZ (R235). -/
def execExtz (p : Pred) (sd sa sb : Nat) (s : State) : Host.Outcome State Fault Refusal :=
  aluWord p (.extz p sd sa sb) s sd fun t => extzW (t.rs sa) (t.rs sb)

/-- CLZ (R235). -/
def execClz (p : Pred) (sd sa : Nat) (s : State) : Host.Outcome State Fault Refusal :=
  aluWord p (.clz p sd sa) s sd fun t => clzW (t.rs sa)

/-- CTZ (R235). -/
def execCtz (p : Pred) (sd sa : Nat) (s : State) : Host.Outcome State Fault Refusal :=
  aluWord p (.ctz p sd sa) s sd fun t => ctzW (t.rs sa)

/-- POPC (R235). -/
def execPopc (p : Pred) (sd sa : Nat) (s : State) : Host.Outcome State Fault Refusal :=
  aluWord p (.popc p sd sa) s sd fun t => popcW (t.rs sa)

/-- SEL (R235). -/
def execSel (p : Pred) (sd sa sb sc : Nat) (s : State) : Host.Outcome State Fault Refusal :=
  aluWord p (.sel p sd sa sb sc) s sd fun t => if t.rs sc ≠ 0 then t.rs sa else t.rs sb

/-- INS (R237). -/
def execIns (p : Pred) (sd sa sb sc : Nat) (s : State) : Host.Outcome State Fault Refusal :=
  aluWord p (.ins p sd sa sb sc) s sd fun t => insW (t.rs sa) (t.rs sb) (t.rs sc)

/-- ADDI (R238). -/
def execAddi (p : Pred) (sd sa : Nat) (imm : Imm 32) (s : State) : Host.Outcome State Fault Refusal :=
  aluWord p (.addi p sd sa imm) s sd fun t => t.rs sa + immVal imm

/-- MULI (R238). -/
def execMuli (p : Pred) (sd sa : Nat) (imm : Imm 32) (s : State) : Host.Outcome State Fault Refusal :=
  aluWord p (.muli p sd sa imm) s sd fun t => t.rs sa * immVal imm

/-- ANDI (R238). -/
def execAndi (p : Pred) (sd sa : Nat) (imm : Imm 32) (s : State) : Host.Outcome State Fault Refusal :=
  aluWord p (.andi p sd sa imm) s sd fun t => t.rs sa &&& immVal imm

/-- ORI (R238). -/
def execOri (p : Pred) (sd sa : Nat) (imm : Imm 32) (s : State) : Host.Outcome State Fault Refusal :=
  aluWord p (.ori p sd sa imm) s sd fun t => t.rs sa ||| immVal imm

/-- XORI (R238). -/
def execXori (p : Pred) (sd sa : Nat) (imm : Imm 32) (s : State) : Host.Outcome State Fault Refusal :=
  aluWord p (.xori p sd sa imm) s sd fun t => t.rs sa ^^^ immVal imm

/-- SHLI (R238). -/
def execShli (p : Pred) (sd sa : Nat) (imm : Imm 32) (s : State) : Host.Outcome State Fault Refusal :=
  aluWord p (.shli p sd sa imm) s sd fun t => shlW (t.rs sa) (immValU imm).toNat

/-- SHRI (R238). -/
def execShri (p : Pred) (sd sa : Nat) (imm : Imm 32) (s : State) : Host.Outcome State Fault Refusal :=
  aluWord p (.shri p sd sa imm) s sd fun t => shrW (t.rs sa) (immValU imm).toNat

/-- SRAI (R238). -/
def execSrai (p : Pred) (sd sa : Nat) (imm : Imm 32) (s : State) : Host.Outcome State Fault Refusal :=
  aluWord p (.srai p sd sa imm) s sd fun t => sraW (t.rs sa) (immValU imm).toNat

/-- MOVI (R238). -/
def execMovi (p : Pred) (sd : Nat) (imm : Imm 32) (s : State) : Host.Outcome State Fault Refusal :=
  aluWord p (.movi p sd imm) s sd fun _ => immVal imm

/-- CMPEQ (R239). -/
def execCmpeq (p : Pred) (qd sa sb : Nat) (s : State) : Host.Outcome State Fault Refusal :=
  cmpWord p (.cmpeq p qd sa sb) s qd fun t => t.rs sa == t.rs sb

/-- CMPNE (R239). -/
def execCmpne (p : Pred) (qd sa sb : Nat) (s : State) : Host.Outcome State Fault Refusal :=
  cmpWord p (.cmpne p qd sa sb) s qd fun t => t.rs sa != t.rs sb

/-- CMPLT (R239). -/
def execCmplt (p : Pred) (qd sa sb : Nat) (s : State) : Host.Outcome State Fault Refusal :=
  cmpWord p (.cmplt p qd sa sb) s qd fun t => sltW (t.rs sa) (t.rs sb)

/-- CMPLTU (R239). -/
def execCmpltu (p : Pred) (qd sa sb : Nat) (s : State) : Host.Outcome State Fault Refusal :=
  cmpWord p (.cmpltu p qd sa sb) s qd fun t => ultW (t.rs sa) (t.rs sb)

/-- CMPLE (R239). -/
def execCmple (p : Pred) (qd sa sb : Nat) (s : State) : Host.Outcome State Fault Refusal :=
  cmpWord p (.cmple p qd sa sb) s qd fun t => sleW (t.rs sa) (t.rs sb)

/-- CMPLEU (R239). -/
def execCmpleu (p : Pred) (qd sa sb : Nat) (s : State) : Host.Outcome State Fault Refusal :=
  cmpWord p (.cmpleu p qd sa sb) s qd fun t => uleW (t.rs sa) (t.rs sb)

/-- CMPEQI (R239). -/
def execCmpeqi (p : Pred) (qd sa : Nat) (imm : Imm 32) (s : State) : Host.Outcome State Fault Refusal :=
  cmpWord p (.cmpeqi p qd sa imm) s qd fun t => t.rs sa == immVal imm

/-- CMPLTI (R239). -/
def execCmplti (p : Pred) (qd sa : Nat) (imm : Imm 32) (s : State) : Host.Outcome State Fault Refusal :=
  cmpWord p (.cmplti p qd sa imm) s qd fun t => sltW (t.rs sa) (immVal imm)

/-- QAND (R240). -/
def execQand (p : Pred) (qd qa qb : Nat) (s : State) : Host.Outcome State Fault Refusal :=
  cmpWord p (.qand p qd qa qb) s qd fun t => t.rq qa && t.rq qb

/-- QOR (R240). -/
def execQor (p : Pred) (qd qa qb : Nat) (s : State) : Host.Outcome State Fault Refusal :=
  cmpWord p (.qor p qd qa qb) s qd fun t => t.rq qa || t.rq qb

/-- QXOR (R240). -/
def execQxor (p : Pred) (qd qa qb : Nat) (s : State) : Host.Outcome State Fault Refusal :=
  cmpWord p (.qxor p qd qa qb) s qd fun t => t.rq qa != t.rq qb

/-- QNOT (R240). -/
def execQnot (p : Pred) (qd qa : Nat) (s : State) : Host.Outcome State Fault Refusal :=
  cmpWord p (.qnot p qd qa) s qd fun t => !t.rq qa

end Sys2Proof.Machine
end

