-- ==== Sys2Proof/Machine/Power.lean ====
section
/-! DEFINITION. The honey store's refresh windows (R30, R31), the activity forecast (R183, R184) and the arithmetic clock (R427). -/

namespace Sys2Proof.Machine

/-! ## Refresh (R30, R31) -/

/-- The bank group that refreshes at a cycle: group `g` in the first 384 of its 1,536 cycles (R30). -/
def refreshAt (c : Nat) : Option Nat := if c % 1536 < 384 then some (c / 1536 % 16) else none

/-- REFRESH_START (R30): what refreshes is what the schedule names at this cycle; reads of it are held. -/
def execRefreshStart (s : State) : Host.Outcome State Fault Refusal := .next { s with refreshing := refreshAt s.cycle.toNat }

/-- REFRESH_END (R31): when the window has ended, what it held proceeds at its next turn. -/
def execRefreshEnd (s : State) : Host.Outcome State Fault Refusal := .next { s with refreshing := refreshAt s.cycle.toNat }

/-! ## The activity forecast (R183, R184) -/

/-- The combs owned by tasks that are not blocked: they are in a VLC, no stop has been asked of them, and they wait for nothing
(DEDUCED, log 20). -/
def State.busyCombs (s : State) : Nat := ((s.tasks.filter fun t => t.working && t.wait.isNone).map (·.combs)).sum

/-- The waiting tasks of stage `k` of a launch: its index points or items left, within what MAXT lets exist at a time (DEDUCED, log 20). -/
def State.waitingTasks (s : State) (p : Partition) (l : Launch) (k : Nat) : Nat :=
  let g := l.stage k
  let n := if k = 0 then (if l.killed then 0 else (l.nexts.zipIdx.map fun x => l.share p.stacks x.2 - x.1).sum) else g.count
  if g.maxt = 0 then n
  else min n (g.maxt - (s.tasks.filter fun t => t.vf == p.vf && t.launch == l.id && t.stage == k).length)

/-- The combs that the placeable waiting tasks of a launch need: those of its stages of which a task can be placed now. -/
def State.waitingIn (s : State) (p : Partition) (l : Launch) : Nat :=
  ((List.range l.stages.length).map fun k =>
    if (s.placeStage p l k).isSome then (l.stage k).combs * s.waitingTasks p l k else 0).sum

/-- The combs that placeable waiting tasks need, over the queues that are enabled and hold tickets. -/
def State.waitingCombs (s : State) : Nat :=
  (s.parts.flatMap fun p => p.launches.map fun l =>
    if (p.queue l.queue).en && (p.queue l.queue).tickets != 0 then s.waitingIn p l else 0).sum

/-- The accumulator rows that hold a grant with a matrix operation issued and not complete. -/
def State.busyRows (s : State) : Nat := ((s.tasks.filter fun t => !t.mx.queue.isEmpty).map fun t => t.mxRows + t.mxProws).sum

/-- Bytes of `n` elements of a format code. -/
def fmtBytes (c : BitVec 8) (n : Nat) : Nat := packedSize ((Fmt.of c.toNat).getD .none) n

/-- Bytes of one block of a pool. -/
def KvPool.blockBytes (k : KvPool) : Nat := 64 + 2 ^ k.lp * k.tokb

/-- Elements that a stream has moved: read for an inbound one, written for an outbound one. -/
def Job.streamed (j : Job) (t : Task) : Nat :=
  match j.kind with
  | .stream true q .. => (t.queue q).moved
  | .stream false q .. => (t.queue q).written
  | _ => 0

/-- Bytes of HBM that an engine job has still to move, `moved` elements of a stream being done; those of a CONTRACT are its operation's
(DEDUCED, log 20). -/
def Job.hbmBytes (j : Job) (moved : Nat) : Nat :=
  match j.kind with
  | .copy dst src _ _ len rows _ _ => hbmPart dst (len * rows - j.progress) + hbmPart src (len * rows - j.progress)
  | .gather _ f h l => hbmPart h (fmtBytes f (l.length - j.progress))
  | .scatter f h l => hbmPart h (fmtBytes f (l.length - j.progress))
  | .scata f _ h l => hbmPart h (2 * fmtBytes f (l.length - j.progress))
  | .stream _ _ f h _ _ n => if j.progress = 0 then hbmPart h (fmtBytes f (n - moved)) else 0
  | .hsrd .. => 0
  | .contract => 0
  | .kvapp k _ src _ ws _ => hbmPart k.h (k.tokb * ws.length - j.progress) + hbmPart src (k.tokb * ws.length - j.progress)
  | .kvpull k .. => hbmPart k.h (k.blockBytes - j.progress)
  | .kvevict k _ vs => hbmPart k.h (k.blockBytes * vs.length - j.progress)

/-- Bytes of a tile's payload: of the present elements alone when it is sparse (R79, R97). -/
def TileRef.bytes (r : TileRef) : Nat :=
  let c := Cap.of r.cap
  if c.spr = 0 then denseSize c.f c.count else packedSize c.f (r.maps.map fun x => popCount x 128).sum

/-- Bytes of HBM that a matrix operation has still to move (DEDUCED, log 20). -/
def MxOp.hbmBytes (o : MxOp) : Nat :=
  match o.kind with
  | .ld _ r => hbmPart r.h r.bytes
  | .rd _ h .. => hbmPart h (72 + 4 * 128 * 32)
  | .scl h _ => hbmPart h 1024
  | .contract c => hbmPart c.a.h c.a.bytes + hbmPart c.b.h c.b.bytes + hbmPart c.c.h c.c.bytes
  | .attn a => hbmPart a.q.h a.q.bytes + hbmPart a.out.h a.out.bytes + hbmPart a.pool.h (a.pool.blockBytes * a.blocks.length)
  | _ => 0

/-- Bytes of HBM of the vector and scalar accesses of a task that are outstanding (DEDUCED, log 20). -/
def Task.missBytes (t : Task) : Nat :=
  (t.vld.map (·.bytes)).sum + t.vst.sum + (match t.pend with | some q => hbmPart q.handle q.size | none => 0)

/-- b of R184, before its cap. -/
def State.hbmTraffic (s : State) : Nat :=
  (s.jobs.map fun j => j.hbmBytes (((s.task? j.task).map j.streamed).getD 0)).sum + (s.tasks.map fun t => t.missBytes + (t.mx.queue.map MxOp.hbmBytes).sum).sum

/-- AFR.HBM, AFR.MX and AFR.PASS as R184 computes them. -/
def State.forecast (s : State) : Nat × Nat × Nat :=
  let c := min 32768 (s.busyCombs + s.waitingCombs)
  let b := min 81920000 s.hbmTraffic
  (255 * b / 81920000, 255 * s.busyRows / 16384, 255 * c / 32768)

/-- AFR_UPDATE (R183): the forecast is written; power management chooses a step with it (R427). -/
def execAfrUpdate (s : State) : Host.Outcome State Fault Refusal :=
  let (b, x, p) := s.forecast
  .next { s with afrSeq := s.afrSeq + 1, afrHbm := BitVec.ofNat 8 b, afrMx := BitVec.ofNat 8 x, afrPass := BitVec.ofNat 8 p }

/-! ## The arithmetic clock (R427) -/

/-- A step of `f` times 50 MHz stays within the power limit, both sides multiplied by 255 times 24. -/
def State.stepFits (s : State) (f : Nat) : Bool :=
  decide (24 * (411 * 255 + 320 * s.afrHbm.toNat) + (564 * s.afrPass.toNat + 905 * s.afrMx.toNat) * f ≤
    24 * 255 * min 2200 s.keeper.powerLimit)

/-- The step that power management chooses: the highest that fits, else 0.6 GHz; under the thermal hold 0.6 GHz. -/
def State.clockChoice (s : State) : Nat :=
  if s.thermalHold then 12 else (((List.range 13).map (24 - ·)).find? s.stepFits).getD 12

/-- CLOCK_STEP_CHANGE (R35, R36, R427): the clock takes the step that was chosen. -/
def execClockStepChange (s : State) : Host.Outcome State Fault Refusal := .next { s with clock := s.clockChoice }

/-- The change of the clock that is due. -/
def State.clockEvent (s : State) : Option Instr := if s.clock = s.clockChoice then none else some .clockStepChange

end Sys2Proof.Machine
end

