-- ==== Sys2Proof/Machine/Swap.lean ====
section
/-! DEFINITION. Task swap and restore (R185 to R192, R195, R434), partition save and restore (R193, R194) and the writing of notices
(R197). -/

namespace Sys2Proof.Machine

/-! ## Saving a task (R185, R189, R190) -/

/-- The instruction that a task waits in can be executed afresh (R260); another one has begun, and completes first. -/
def WaitFor.afresh : WaitFor → Bool
  | .remote .. => false
  | .notice .. => false
  | .load => false
  | .ending .. => false
  | .leaving => false
  | _ => true

/-- A task has reached its pre-emption points (R185): what it has issued is complete, queued stores apart, and no MXLD or MXSCL has
begun that is not complete (R357). -/
def Task.stopped (t : Task) : Bool :=
  t.place == .vlc && t.cleared && t.stop.isSome && t.pend.isNone && t.vld.isEmpty && t.vst.isEmpty && !t.mx.queue.any (·.midway) &&
    (match t.wait with | none => true | some w => w.afresh)

/-- The groups of 8 columns that a save keeps: those of LIVE, scratch apart (R190, R19). -/
def Task.savedCol (t : Task) (c : Nat) : Bool := t.live.getLsbD (c / 8) && decide (c < 216)

/-- A save reads the LIVE columns with parity checked: failing groups poison their registers, and the lowest is raised after the
restore (R434). -/
def Task.saveParity (t : Task) : Task :=
  let fails := t.parityFails ((List.range 256).filter fun c => t.live.getLsbD (c / 8))
  match (fails.map (·.2)).min? with
  | none => t
  | some v => { fails.foldl (fun t f => t.poisonGroup f.1) t with combpar := t.combpar ++ [w64 v] }

/-- Registers marked by VDISC are not saved: they read back as zero, DISCARD set (R110, R190). -/
def Task.dropDiscarded (t : Task) : Task :=
  let gone (c : Nat) : Bool := (List.range 32).any fun n =>
    match t.vreg n with
    | some r => r.discard && decide (r.base ≤ c) && decide (c < r.base + r.width)
    | none => false
  { t with
    cols := t.cols.zipIdx.map fun x => if gone x.2 then 0 else x.1
    regs := t.regs.map fun r => r.map fun r => if r.discard then { r with cap := { Cap.of r.cap with discard := true }.bits } else r }

/-- An MXRD that would overtake the running MXMAC takes its snapshot after the restore, at the saved boundary (R357). -/
def Matrix.markOvertaker (m : Matrix) : Matrix :=
  match overtaker m.queue 0 with
  | some (n, o) => { m with queue := m.queue.set n { o with step := max 1 o.step } }
  | Option.none => m

/-- The scratch columns of a held instruction, with its staged sources, are part of its record while it is swapped out (R187,
R276) (DEDUCED, log 79). -/
def Task.keepScratch (t : Task) : Task :=
  { t with resume := t.resume.map fun r => { r with staged := (List.range 40).map fun k => (216 + k, t.col (216 + k)) } }

/-- What the frame or the shadow store receives of a task at a cycle (R190, R144, R260): a count-tree sum on its way reaches its register
first, since a boundary stands only when the sums fed before it are in effect (R186, R312); a stalled instruction is executed afresh,
and a lease keeps its remaining length, which it holds already when the task has not come to an instruction since its last
restore. -/
def Task.saved (t : Task) (cycle : Nat) : Task :=
  let t := t.takeSum.saveParity.dropDiscarded.keepScratch
  { t with
    mx := t.mx.markOvertaker, lease := if t.restored.isSome then t.lease else t.lease.map (· - cycle)
    wait := none, stallSince := none, stop := none, yield := [] }

/-- The bytes of a context reach the frame of a slot: which and what they are is free (DESIGN CHOICE, log 22). -/
def State.writeFrame (s : State) (p : Partition) (slot : Nat) : State :=
  let base := p.swbase.toNat * 2 ^ 24 + 2 ^ 24 * slot
  ((Config.contextBytes s.fresh).filter fun x => decide (x.1 < 2 ^ 24)).foldl
    (fun s x => match s.devWriteByte p ((base + x.1) % 2 ^ 56) x.2 with | .ok s => s | .error _ => s) { s with fresh := s.fresh + 1 }

/-- The task's stores leave their queues, and a FENCE.rel.PKG is performed for it (R185, R190). -/
def State.settleStores (s : State) (t : Task) (p : Partition) : State :=
  (s.drainStores t.id (t.stores.length + 1)).releaseTask (t.ctx p)

/-- Something that a task stored is still on its way: a store in its queues, or bytes that it made dirty in its hive's cache. -/
def State.unsettled (s : State) (t : Task) : Bool :=
  !t.stores.isEmpty || s.hiveLines.any fun k => k.1 == t.hive && k.2.dirty != 0 && k.2.writers.contains t.id

/-- TASK_SWAP (R189): a stopped task's context is written and its VLC is released, once its stores are drained and released (R185, R190);
a translation fault raises its notice. While the partition saves, the task goes to shadow store instead (R194, R205). -/
def execTaskSwap (t : Nat) (s : State) : Host.Outcome State Fault Refusal :=
  match s.task? t with
  | none => .next s
  | some u =>
    match s.part? u.vf, u.stop with
    | some p, some why =>
      if !u.stopped then .next s
      else
        let s := s.settleStores u p
        .next (match s.task? t with
          | none => s
          | some u =>
            if s.unsettled u then s else
            let now := s.cycle.toNat
            let v := u.saved now
            if p.psState ≠ 0 then s.setTask { v with place := .shadow now }
            else
              let v := { v with place := .frame why now false }
              let s := ((s.tagLast u).setTask v).writeFrame p u.slot
              match why with
              | .fault c a =>
                let s := s.raiseNotice p.vf { u.notice c (BitVec.ofNat 32 u.slot) (w64 a) with task := some t }
                if p.pfdones.contains u.slot then
                  let s := s.pagesArrived p.vf u.slot
                  match s.part? p.vf with
                  | some p => s.setPart { p with pfdones := p.pfdones.filter (· != u.slot) }
                  | none => s
                else s
              | _ => s)
    | _, _ => .next s

/-! ## Restoring a task (R190 to R192, R195) -/

/-- The scratch columns of a held instruction return. -/
def Task.bringScratch (t : Task) : Task :=
  match t.resume with
  | some r => { r.staged.foldl (fun t x => t.setCol x.1 x.2) t with resume := some { r with staged := [] } }
  | none => t

/-- Columns that were not saved hold free values; the parity of columns and of the loop buffer is even afresh (R190, R434). -/
def Task.refill (t : Task) (fresh : Nat) : Task :=
  let t := (List.range 256).foldl (fun t c => if t.savedCol c then t else t.setCol c (Config.freeColumn (fresh + c) % 2 ^ t.vlmax)) t
  let t := t.bringScratch
  { t with par := (List.range 8).map (fun g => (List.range 32).foldl (fun a k => a ^^^ t.col (32 * g + k)) 0), lbad := [] }

/-- The completions of a swap are applied in order; a term that a pulse makes ready fires before the next pulse comes (R72,
R191). -/
def State.applyLate (s : State) (id : Nat) : State :=
  match s.task? id with
  | none => s
  | some t =>
    t.latePulses.foldl (fun s n => (s.latch t.hive t.id n).fireTerms t.hive) (s.setTask { t.takeLate with latePulses := [] })

/-- The promises of a task's copy jobs move by D (R167, R191). -/
def State.rebaseSwap (s : State) (id d : Nat) : State :=
  { s with jobs := s.jobs.map fun j => if j.task = id ∧ j.cls = .cp then { j with rebased := j.promised.map (· + d) } else j }

/-- A restored task is told of its stop (R195), unless INTEG.COMBPAR came first: the notice is then dropped (R434), since the task is
in its handler. -/
def State.tellRestored (s : State) (t : Task) (cause : Nat) (v : Word) : State :=
  if t.tnote && !t.tin then s.takeTrap t cause v t.pc else s

/-- A restored task comes to its first instruction: D ends, its lease goes on from here, the promises of its copies move by D, and
it is told (R144, R167, R191, R195). -/
def State.firstAgain (s : State) (t : Task) : State :=
  match t.restored with
  | none => s
  | some (cause, v) =>
    let now := s.cycle.toNat
    let d := now - t.stopAt
    let t := { t with restored := none, lease := t.lease.map (· + now) }
    ((s.setTask t).rebaseSwap t.id d).tellRestored t cause (v.getD (w64 d))

/-- A task returns to a VLC, what completed meanwhile is applied, and it awaits its first instruction. One that has not come to an
instruction since an earlier restore is told of that one. -/
def State.putBack (s : State) (t : Task) (cause : Nat) (v : Option Word) : State :=
  let t := { t.refill s.fresh with place := .vlc, restored := some (t.restored.getD (cause, v)) }
  ({ s with fresh := s.fresh + 256 }.setTask t).applyLate t.id

/-- A restore can be made: it is asked for, the partition runs, and the task's notice is written (R192, R197). -/
def State.restorable (s : State) (t : Task) : Bool :=
  s.awaitsRestore t &&
    (match s.part? t.vf with
     | some p => p.psState == 0 && !(p.notices.any fun n => n.task == some t.id)
     | none => false)

/-- TASK_RESTORE (R192): into its own hive, the lowest aligned run of its size that is unowned, and a free VLC. -/
def execTaskRestore (t hv vlc : Nat) (s : State) : Host.Outcome State Fault Refusal :=
  match s.task? t with
  | none => .next s
  | some u =>
    match s.freeRun u.hive u.combs with
    | none => .next s
    | some run =>
      if !s.restorable u || u.hive != hv || s.freeVlc hv != some vlc then .next s
      else
        let v := { u with firstComb := run, vlc := vlc }
        .next (match u.place with
          | .frame (.fault _ a) _ _ => s.putBack v cRESUMED (some (w64 a))
          | _ => s.putBack v cPREEMPTED none)

/-- The restore of a task that can be made. -/
def State.restoreEvent (s : State) (t : Task) : Option Instr :=
  if s.restorable t && (s.freeRun t.hive t.combs).isSome then (s.freeVlc t.hive).map fun v => .taskRestore t.id t.hive v else none

/-! ## Partition save and restore (R193, R194) -/

/-- The save command to psctl: ignored unless the partition runs; draws and epochs stop, and every task in a VLC is asked to
stop (DEDUCED, log 49). -/
def State.savePartition (s : State) (p : Partition) : State :=
  if p.psState ≠ 0 then s
  else
    let s := s.setPart { p with psState := 1 }
    { s with tasks := s.tasks.map fun t =>
        if t.vf == p.vf && t.place == .vlc && t.stop.isNone && !t.isEnding then
          { t with stop := some .preempt, stopAt := if t.restored.isSome then t.stopAt else s.cycle.toNat }
        else t }

/-- PSCTL_SAVE (R194). -/
def execPsctlSave (vf : Nat) (s : State) : Host.Outcome State Fault Refusal :=
  match s.part? vf with
  | none => .next s
  | some p => .next (s.savePartition p)

/-- Whether a partition's image is complete: no task is left in a VLC, and no copy job is incomplete. -/
def State.saveDone (s : State) (p : Partition) : Bool :=
  p.psState == 1 && !(s.tasks.any fun t => t.vf == p.vf && t.place == .vlc) && !(s.jobs.any fun j => j.vf == p.vf && j.cls == .cp)

/-- PARTITION_SAVED (R194): the partition's state becomes saved; the shadow store holds the images of its hives. -/
def execPartitionSaved (vf : Nat) (s : State) : Host.Outcome State Fault Refusal :=
  match s.part? vf with
  | none => .next s
  | some p =>
    if !s.saveDone p then .next s
    else .next { s.setPart { p with psState := 2 } with shadow := s.shadow ++ p.candidates none }

/-- The restore command to psctl: ignored unless the partition is saved. -/
def State.restorePartition (s : State) (p : Partition) : State := if p.psState ≠ 2 then s else s.setPart { p with psState := 3 }

/-- PSCTL_RESTORE (R194). -/
def execPsctlRestore (vf : Nat) (s : State) : Host.Outcome State Fault Refusal :=
  match s.part? vf with
  | none => .next s
  | some p => .next (s.restorePartition p)

/-- PARTITION_RESTORED (R194, R195): every task returns to the VLC and combs it held and is told, and the reports of pages recorded
meanwhile act. -/
def execPartitionRestored (vf : Nat) (s : State) : Host.Outcome State Fault Refusal :=
  match s.part? vf with
  | none => .next s
  | some p =>
    if p.psState ≠ 3 then .next s
    else
      let mine := s.tasks.filter fun t => t.vf == vf && (match t.place with | .shadow _ => true | _ => false)
      let s := { s.setPart { p with psState := 0, pfdones := [] } with
        shadow := s.shadow.filter fun h => !(p.candidates none).contains h }
      let s := mine.foldl (fun s t => s.putBack t cPREEMPTED none) s
      .next (p.pfdones.foldl (fun s k => s.pagesArrived vf k) s)

/-! ## Notices (R196, R197, R433) -/

/-- The 32 bytes of a notice. -/
def Notice.bytes (n : Notice) : List Byte :=
  leBytes 2 n.cause ++ leBytes 1 (b2n n.engine + 2 * b2n n.unhandled + 4 * b2n n.double) ++ leBytes 1 0 ++ leBytes 4 n.frame.toNat ++
    leBytes 8 n.ntask.toNat ++ leBytes 8 n.ntval.toNat ++ leBytes 2 n.nhive ++ leBytes 6 0

/-- The words of a record, entered in the error log. -/
def State.logRecord (s : State) (code : Nat) (b : List Byte) : State :=
  (List.range (b.length / 8)).foldl (fun s k => s.logError code (w64 (byteField b (8 * k) 8))) s

/-- A SVC whose notice has been dealt with goes on with the index in its register (R265). -/
def State.endSvc (s : State) (n : Notice) (v : Word) : State :=
  match (if n.svc then n.task.bind s.task? else none) with
  | some t =>
    match t.wait with
    | some (.notice i sd) => s.setTask ((t.awake.ws sd v).retire i)
    | _ => s
  | none => s

/-- A notice waits and the ring has room for it. -/
def Partition.noticeReady (p : Partition) : Bool :=
  !p.notices.isEmpty && decide ((p.snqprod - p.snqcons).toNat < Config.noticeRing)

/-- A task whose last notice has been dealt with ends (R204). -/
def State.endLeaving (s : State) (n : Notice) : State :=
  match n.task.bind s.task? with
  | some t => s.leave t
  | none => s

/-- NOTICE_WRITE (R197): the oldest notice is written at SNQPROD mod 4,096, and the host is signalled; one that cannot be written
goes to the error log (R433). -/
def execNoticeWrite (vf : Nat) (s : State) : Host.Outcome State Fault Refusal :=
  match s.part? vf with
  | none => .next s
  | some p =>
    match p.notices with
    | [] => .next s
    | n :: rest =>
      if !p.noticeReady then .next s
      else
        let q := { p with notices := rest }
        let a := p.snqbase.toNat * 2 ^ 17 + 32 * (p.snqprod.toNat % 4096)
        .next (match State.devWrite p a n.bytes s with
          | .ok s =>
            (((s.setPart { q with snqprod := p.snqprod + 1 }).send (.msix vf 1)).endSvc n (p.snqprod.setWidth 64)).endLeaving n
          | .error _ => ((((s.setPart q).logRecord n.cause n.bytes).send (.msix 0 1)).endSvc n (BitVec.allOnes 64)).endLeaving n)

end Sys2Proof.Machine
end

