-- ==== Sys2Proof/Machine/Keeper.lean ====
section
/-! DEFINITION. The keeper: readiness (R422), the configuration image (R423), mailbox commands (R424 to R428), resets (R6, R34, R427)
and the thermal hold (R427). -/

namespace Sys2Proof.Machine

/-! ## Readiness (R422) -/

/-- READY changes to a value; the host is signalled when a bit changes (R414). -/
def State.setReady (s : State) (r : BitVec 28) : State :=
  if s.ready = r then s else { s with ready := r, everReady := s.everReady ||| r }.send (.msix 0 2)

/-- A bit of a 28-bit word. -/
def bit28 (n : Nat) : BitVec 28 := BitVec.ofNat 28 (2 ^ n)

/-- A port. -/
def State.port (s : State) (p : Nat) : Port := s.ports.toArray.getD p Port.reset

/-- Replaces a port. -/
def State.setPort (s : State) (p : Nat) (q : Port) : State := { s with ports := s.ports.setIfInBounds p q }

/-- Whether a function can set its bit: it has not failed, the keeper has received an image, the host port has a link, a peer port a
link and an agreed version. -/
def State.mayBeReady (s : State) (bit : Nat) : Bool :=
  decide (bit < 28) && !s.failed.getLsbD bit && (bit != 27 || s.keeper.cfgstat != 0) &&
    (bit != 0 || (s.port 8).up) &&
    (!(decide (1 ≤ bit) && decide (bit ≤ 8)) || ((s.port (bit - 1)).up && (s.port (bit - 1)).version != 0))

/-- READY_SET (R422): a function completes bring-up. -/
def execReadySet (bit : Nat) (s : State) : Host.Outcome State Fault Refusal :=
  .next (if s.mayBeReady bit then s.setReady (s.ready ||| bit28 bit) else s)

/-- The causes that R198 delivers to a task, but for the two asynchronous ones. -/
def taskCauses : List Nat :=
  [cILLOP, cILLFN, cRSVNZ, cPRIV, cOVERLAP, cLOOPDEPTH, cLOOPBODY, cSWTRAP] ++ (List.range 7).map (0x100 + ·) ++
    (List.range 7).map (0x183 + ·) ++ [cPROMISE, cBARCORRUPT, cDEFEROVF, cSPOVERRUN] ++ (List.range 4).map (0x280 + ·) ++
    [0x300, 0x301, 0x302, 0x305, 0x306, cCOMBPAR, cHONEYECC, cHBMUE]

/-- A task of a failed stack ends with a cause. -/
def Task.failWith (t : Task) (cause : Nat) (tval : Word) : Task :=
  { t.takeLate with latePulses := [], pend := none, stop := none, wait := some (.ending cause t.tin false tval) }

/-- The tasks of a failed stack end as R204 says, with notices. The spec names no cause and no value for them: the cause is some cause of
R198 that goes to a task, the value is free, and both are one for all the tasks (DESIGN CHOICE, log 23). A cause of class 7 is logged
for each (R198). -/
def State.failTasks (s : State) (d : Nat) : State :=
  let hit (t : Task) : Bool := dieOf t.hive == d && !t.isEnding
  let cause := taskCauses.getD ((Config.freeWord s.fresh).toNat % taskCauses.length) cILLOP
  let tval := Config.freeWord (s.fresh + 1)
  { (s.logDues ((s.tasks.filter hit).map fun _ => (cause, tval))) with
    fresh := s.fresh + 2
    tasks := s.tasks.map fun t => if hit t then t.failWith cause tval else t }

/-- The port whose READY bit is `bit`, if it is one (R422). -/
def bitPort (bit : Nat) : Option Nat := if bit = 0 then some 8 else if bit ≤ 8 then some (bit - 1) else none

/-- The failure of a port is an event of it that has not been told (R416). -/
def State.portEvent (s : State) (bit : Nat) : State :=
  match bitPort bit with
  | some p => if s.failed.getLsbD bit then s else s.setPort p { s.port p with told := false }
  | none => s

/-- FUNCTION_FAIL (R422, R432): FAILED is set and READY clears; the tasks of a failed stack end. -/
def execFunctionFail (bit : Nat) (s : State) : Host.Outcome State Fault Refusal :=
  .next (
    if 28 ≤ bit then s
    else
      let s := { (s.portEvent bit) with failed := s.failed ||| bit28 bit }.setReady (s.ready &&& ~~~ bit28 bit)
      if 9 ≤ bit ∧ bit ≤ 16 then s.failTasks (bit - 9) else s)

/-! ## The configuration image (R423) -/

/-- The longest image: the window's 512 KiB. -/
def windowLen : Nat := 0x80000

/-- The image that a length takes from the window. -/
def Keeper.takeImage (k : Keeper) (n : Nat) : List Byte := (List.range n).map fun i => k.window.getD i 0

/-- What the keeper's check reports. -/
def imageStat (k : Keeper) (n : Nat) : Nat :=
  if windowLen < n then 2
  else match Config.imageVerdict (k.takeImage n) with
    | 1 => 1 | 3 => 3 | 4 => 4 | _ => 2

/-- An applied image sets the roles of the peer ports and the power limit. -/
def State.applyImage (s : State) (b : List Byte) : State :=
  { s with
    keeper := { s.keeper with image := b, powerLimit := min 2200 (Config.imagePowerLimit b) }
    ports := s.ports.mapIdx fun i q => if i < 8 then { q with endpoint := Config.imageEndpoint b i } else q }

/-- CFGLEN (R423): the image in the window, which the host has placed there, is checked and applied; ignored once one is applied. `image`
is what the host places with it, from the window's first byte on; a write arrives only while the host port answers (R412). -/
def execCfglen (len : Word) (image : List Byte) (s : State) : Host.Outcome State Fault Refusal :=
  .next (
    if s.keeper.cfgstat = 1 ∨ ¬s.portLive 8 then s
    else
      let k := { s.keeper with window := (image ++ s.keeper.window.drop image.length).take windowLen, cfglen := len }
      let st := imageStat k len.toNat
      let s := { s with keeper := { k with cfgstat := BitVec.ofNat 8 st } }
      let s := if st = 1 then s.applyImage (k.takeImage len.toNat) else s
      if s.mayBeReady 27 then s.setReady (s.ready ||| bit28 27) else s)

/-! ## The mailbox (R425) -/

/-- An argument of the running command. -/
def Keeper.arg (k : Keeper) (n : Nat) : Nat := (k.run.toArray.getD n 0).toNat

/-- The mailbox's registers after writes of MBARG0 on. -/
def Keeper.putArgs (k : Keeper) (args : List Word) : Keeper :=
  { k with mbarg := Vector.ofFn fun i : Fin 15 => args.getD i.val k.mbarg[i] }

/-- A command starts with the arguments that stand in the mailbox, and `f` answers its status where it is known at once. -/
def startCommand (n : Nat) (s : State) (f : State → State × Option Nat) : State :=
  let (s, r) := f { s with keeper := { s.keeper with mbcmd := w64 n, run := s.keeper.mbarg, busy := true, result := none } }
  { s with keeper := { s.keeper with result := r } }

/-- A write of MBCMD, `args` having been written to MBARG0 on: ignored while BUSY is set, the keeper is not ready or the host port does
not answer; else the command starts (R412, R425, R422) (DEDUCED, log 55). -/
def mailbox (n : Nat) (args : List Word) (s : State) (f : State → State × Option Nat) : Host.Outcome State Fault Refusal :=
  .next (
    if s.keeper.busy ∨ ¬s.ready.getLsbD 27 ∨ ¬s.portLive 8 then s
    else startCommand n { s with keeper := s.keeper.putArgs args } f)

/-- A status that the spec does not state (DESIGN CHOICE, log 24). -/
def State.freeStatus (s : State) : State × Option Nat :=
  ({ s with fresh := s.fresh + 1 }, some ((Config.freeWord s.fresh).toNat % 2 ^ 16))

/-- A hive set is one that R40 allows. -/
def hiveSetOk (first n : Nat) : Bool :=
  decide (first + n ≤ Config.hives) &&
    ((n == 16 && first % 16 == 0) || (n == 32 && first % 32 == 0) || (n != 0 && n % 64 == 0 && first % 64 == 0))

/-- PCREATE's status (R425, R422). -/
def State.createStatus (s : State) (first n vf asid base : Nat) : Nat :=
  if !hiveSetOk first n || vf = 0 || 16 < vf || 2 ^ 16 ≤ asid || 2 ^ 56 ≤ base then 1
  else if s.parts.any fun p => p.vf == vf || (decide (first < p.firstHive + p.nHives) && decide (p.firstHive < first + n)) then 2
  else if s.keeper.cfgstat != 1 || !((List.range 8).all fun d => s.ready.getLsbD (17 + d)) ||
      !((List.range 8).all fun d => s.ready.getLsbD (9 + d) || !(decide (first < 64 * d + 64) && decide (64 * d < first + n))) then 3
  else 0

/-- PCREATE (R425): a partition of a hive set, bound to a virtual function. -/
def execPcreate (args : List Word) (s : State) : Host.Outcome State Fault Refusal :=
  mailbox 1 args s fun s =>
    let k := s.keeper
    let st := s.createStatus (k.arg 0) (k.arg 1) (k.arg 2) (k.arg 3) (k.arg 4)
    (if st = 0 then
      let p := Partition.create (k.arg 2) (k.arg 0) (k.arg 1) (k.arg 4) (BitVec.ofNat 16 (k.arg 3))
      { s with
        parts := s.parts ++ [p]
        hives := s.hives.map fun h => if (p.candidates none).contains h.id then { h with tag := none } else h }
    else s, some st)

/-- PDESTROY (R425): refused while tasks exist or a queue is enabled. -/
def execPdestroy (args : List Word) (s : State) : Host.Outcome State Fault Refusal :=
  mailbox 2 args s fun s =>
    match s.part? (s.keeper.arg 0) with
    | none => s.freeStatus
    | some p =>
      if s.tasks.any (·.vf == p.vf) || (List.range 16).any (fun k => (p.queue k).en) then (s, some 2)
      else
        ({ s with
          parts := s.parts.filter (·.vf != p.vf)
          handles := s.handles.filter (·.vf != p.vf)
          shadow := s.shadow.filter fun h => !(p.candidates none).contains h }, some 0)

/-- What PSAVE does: its end comes when the partition is saved. -/
def State.startPsave (s : State) : State × Option Nat :=
  match s.part? (s.keeper.arg 0) with
  | some p => if p.psState = 0 then (s.savePartition p, none) else (s, some 2)
  | none => (s, some 2)

/-- PSAVE (R425, R194). One requested while a checkpoint runs waits for its end (R432). -/
def execPsave (args : List Word) (s : State) : Host.Outcome State Fault Refusal :=
  if s.keeper.busy ∧ s.keeper.mbcmd = 8 ∧ s.portLive 8 then
    .next (if s.keeper.later.isSome then s else
      { s with keeper := { s.keeper.putArgs args with later := some (s.keeper.putArgs args).mbarg } })
  else mailbox 3 args s State.startPsave

/-- PRESTORE (R425, R194): its end comes when the partition runs. -/
def execPrestore (args : List Word) (s : State) : Host.Outcome State Fault Refusal :=
  mailbox 4 args s fun s =>
    match s.part? (s.keeper.arg 0) with
    | some p => if p.psState = 2 then (s.restorePartition p, none) else (s, some 2)
    | none => (s, some 2)

/-- QSUP (R425, R174): sets LQCTL.SUP of a queue. -/
def execQsup (args : List Word) (s : State) : Host.Outcome State Fault Refusal :=
  mailbox 5 args s fun s =>
    let k := s.keeper.arg 1
    match s.part? (s.keeper.arg 0) with
    | some p =>
      if k < 16 ∧ s.keeper.arg 2 ≤ 1 then
        (s.setPart (p.setQueue k { p.queue k with sup := s.keeper.arg 2 == 1 }), some 0)
      else (s, some 1)
    | none => (s, some 1)

/-- PEERWIN (R417, R425): sets an inbound window of a peer port; a length of 0 closes it (DESIGN CHOICE, log 25). -/
def execPeerwin (args : List Word) (s : State) : Host.Outcome State Fault Refusal :=
  mailbox 6 args s fun s =>
    let a := s.keeper.arg
    let ok := decide (a 0 < 8) && decide (a 1 < 16) && decide (a 2 < 2 ^ 45) && decide (a 3 < 2 ^ 45) && decide (a 2 + a 3 ≤ 2 ^ 45) && decide (a 4 < 2 ^ 16) &&
      decide (a 5 < 2 ^ 56) && decide (a 6 < 8)
    if !ok then (s, some 1)
    else
      let q := s.port (a 0)
      let w : Window := { base := a 2, len := a 3, asid := a 4, vbase := a 5, r := bitOf (a 6) 0, w := bitOf (a 6) 1, a := bitOf (a 6) 2 }
      let rest := q.windows.filter (·.1 != a 1)
      (s.setPort (a 0) { q with windows := if w.len = 0 then rest else (a 1, w) :: rest }, some 0)

/-- Physical address of an address in host memory (R150, R415). -/
def hostAddr (a : Nat) : Nat := Config.hostBase + a % 2 ^ 48

/-- Writes bytes into host memory; dropped while the host port does not answer (R416). -/
def State.hostWrite (s : State) (a : Nat) (b : List Byte) : State :=
  if s.portAnswers 8 then b.zipIdx.foldl (fun s x => s.physWrite (hostAddr (a + x.2)) x.1) s else s

/-- Reads `n` bytes of host memory; all ones while the host port does not answer (R416). -/
def State.hostRead (s : State) (a n : Nat) : List Byte :=
  (List.range n).map fun i => if s.portAnswers 8 then memRead s.mem (hostAddr (a + i)) else 0xFF

/-- ATTEST (R424): the signed report over the host's nonce and the digests goes to host memory. -/
def execAttest (args : List Word) (s : State) : Host.Outcome State Fault Refusal :=
  mailbox 7 args s fun s =>
    let nonce := (List.range 8).flatMap fun k => leBytes 8 (s.keeper.arg k)
    (s.hostWrite (s.keeper.arg 8) (Config.attestation nonce s.keeper.image), some 0)

/-- A checkpoint may run (R428): every partition has no task or is saved, and no peer window is open. -/
def State.checkpointOk (s : State) : Bool :=
  (s.parts.all fun p => p.psState == 2 || !(s.tasks.any fun t => t.vf == p.vf)) &&
    (List.range 8).all fun k => (s.port k).windows.isEmpty

/-- CHECKPOINT (R428): its end comes with the copy. -/
def execCheckpoint (args : List Word) (s : State) : Host.Outcome State Fault Refusal :=
  mailbox 8 args s fun s => (s, if s.checkpointOk then none else some 2)

/-- CFGNEXT (R425): an image in host memory for the next reset, refused where its signature fails. -/
def execCfgnext (args : List Word) (s : State) : Host.Outcome State Fault Refusal :=
  mailbox 9 args s fun s =>
    let b := s.hostRead (s.keeper.arg 0) windowLen
    if Config.imageVerdict b = 1 then ({ s with keeper := { s.keeper with nextImage := some b } }, some 0) else (s, some 4)

/-- The launch that LKILL's arguments name. -/
def State.killable (s : State) : Option (Partition × Launch) :=
  (s.part? (s.keeper.arg 0)).bind fun p =>
    (p.launches.find? fun l => l.queue == s.keeper.arg 1 && l.serial == s.keeper.arg 2 && !l.killed).map fun l => (p, l)

/-- LKILL (R426): the launch creates nothing more, what it had queued is discarded, and its tasks are to end; its end comes with the
record. -/
def execLkill (args : List Word) (s : State) : Host.Outcome State Fault Refusal :=
  mailbox 0x0A args s fun s =>
    match s.killable with
    | none => (s, some 1)
    | some (p, l) =>
      (s.setPart (p.setLaunch { l with
        killed := true, dropped := l.dropped + (l.stages.map (·.count)).sum
        stages := l.stages.map fun g => { g with head := g.head + g.count, count := 0 } }), none)

/-- UNKNOWN_COMMAND (R425): a code that the table does not assign. -/
def execUnknownCommand (c : Nat) (args : List Word) (s : State) : Host.Outcome State Fault Refusal :=
  if 1 ≤ c ∧ c ≤ 0x0A then .next s else mailbox c args s fun s => (s, some 5)

/-! ## Checkpoint copies (R428) -/

/-- The dirty bytes of the die caches go to memory; the lines stay, clean. -/
def State.flushDies (s : State) : State :=
  s.dieLines.foldl (fun s l =>
    { (l.dirtyBytes.foldl (fun s x => s.physWrite (l.frame + x.1) x.2) s) with
      dieLines := s.dieLines.map fun k => if k.key = l.key then { k with dirty := 0, writers := [] } else k }) s

/-- Bytes of the host buffer. -/
def checkpointLen : Nat := Config.honeyEnd + Config.hbmEnd

/-- Cells of a range, moved to another. -/
def rangeCells (l : List Host.Cell) (a n b : Nat) : List Host.Cell :=
  (l.filter fun c => decide (a ≤ c.1) && decide (c.1 < a + n)).map fun c => (c.1 - a + b, c.2)

/-- `n` cells of all ones from an address on. -/
def onesFrom (a n : Nat) : List Host.Cell := (List.range n).map fun i => (a + i, 0xFF)

/-- The cell that an address has with a byte. -/
def cellAt (n : Nat) (b : Byte) : List Host.Cell := if b = 0 then [] else [(n, b)]

/-- The cells of the first `n` addresses: of one list where a test holds, else of another. -/
def pickCells (p : Nat → Bool) (x y : List Host.Cell) : Nat → List Host.Cell
  | 0 => []
  | n + 1 => pickCells p x y n ++ cellAt n (if p n then memRead x n else memRead y n)

/-- The honey store has been usable and is no longer: requests to it complete as R416 states (R432). -/
def State.honeyDead (s : State) : Bool := s.everReady.getLsbD 25 && !s.ready.getLsbD 25

/-- Some HBM stack has failed. -/
def State.someHbmFailed (s : State) : Bool := (List.range 8).any fun d => s.failed.getLsbD (17 + d)

/-- The honey store as it reads: all ones once it is dead (R416, R432). -/
def State.honeyOut (s : State) : List Host.Cell := if s.honeyDead then onesFrom 0 Config.honeyEnd else s.honey

/-- HBM as it reads: all ones in a stack that has failed (R416, R432). -/
def State.hbmOut (s : State) : List Host.Cell :=
  if s.someHbmFailed then pickCells s.hbmFailed (onesFrom 0 Config.hbmEnd) s.mem Config.hbmEnd else s.mem

/-- The honey store and HBM take contents; what has failed takes none (R416, R432). The caches hold nothing of them afterwards. -/
def State.takeCopy (s : State) (honey hbm : List Host.Cell) : State :=
  { s with
    honey := if s.honeyDead then s.honey else honey
    mem := (if s.someHbmFailed then pickCells s.hbmFailed s.mem hbm Config.hbmEnd else hbm) ++
      s.mem.filter fun c => decide (Config.hbmEnd ≤ c.1)
    badMem := s.badMem.filter fun x => decide (Config.hbmEnd ≤ x) || s.hbmFailed x
    badHoney := if s.honeyDead then s.badHoney else []
    dieLines := [], hiveLines := [], icLines := [] }

/-- Saves the honey store and HBM in the host buffer at a physical address. -/
def State.checkpointSave (s : State) (a : Nat) : State :=
  let s := s.flushDies
  { s with mem := s.mem.filter (fun c => decide (c.1 < a)) ++ rangeCells s.honeyOut 0 Config.honeyEnd a ++
      rangeCells s.hbmOut 0 Config.hbmEnd (a + Config.honeyEnd) ++ s.mem.filter fun c => decide (a + checkpointLen ≤ c.1) }

/-- Restores the honey store and HBM from the host buffer. -/
def State.checkpointRestore (s : State) (a : Nat) : State :=
  s.takeCopy (rangeCells s.mem a Config.honeyEnd 0) (rangeCells s.mem (a + Config.honeyEnd) Config.hbmEnd 0)

/-- Restores all ones, which reads on a port that does not answer return (R416). -/
def State.checkpointOnes (s : State) : State := s.takeCopy (onesFrom 0 Config.honeyEnd) (onesFrom 0 Config.hbmEnd)

/-- The copy of a checkpoint. The buffer lies in host memory; a save to a port that does not answer is dropped, and a restore from it
reads all ones (R416). -/
def State.runCheckpoint (s : State) : State :=
  let a := s.keeper.arg 0
  if 2 ^ 48 < a + checkpointLen then s
  else if s.keeper.arg 1 = 0 then (if s.portAnswers 8 then s.checkpointSave (Config.hostBase + a) else s)
  else if s.portAnswers 8 then s.checkpointRestore (Config.hostBase + a)
  else s.checkpointOnes

/-- MAILBOX_COMPLETE's status for the running command, once it can end (R425). -/
def State.mailboxEnd (s : State) : Option Nat :=
  if !s.keeper.busy then none
  else match s.keeper.result with
    | some r => some r
    | none =>
      let p := s.part? (s.keeper.arg 0)
      match s.keeper.mbcmd.toNat with
      | 3 => if (p.map (·.psState)).getD 2 = 2 then some 0 else none
      | 4 => if (p.map (·.psState)).getD 0 = 0 then some 0 else none
      | 8 => some 0
      | _ =>
        if (p.map fun p => p.launches.any fun l => l.queue == s.keeper.arg 1 && l.serial == s.keeper.arg 2).getD false then none
        else some 0

/-- The PSAVE that waited for a checkpoint starts (R432). -/
def State.startLater (s : State) : State :=
  match s.keeper.later with
  | none => s
  | some v => startCommand 3 { s with keeper := { s.keeper with mbarg := v, later := none } } State.startPsave

/-- MAILBOX_COMPLETE (R425): the running command ends, MBSTAT is written and the host is signalled. -/
def execMailboxComplete (s : State) : Host.Outcome State Fault Refusal :=
  match s.mailboxEnd with
  | none => .next s
  | some r =>
    let s := if s.keeper.mbcmd = 8 ∧ s.keeper.result = none then s.runCheckpoint else s
    .next ({ s with keeper := { s.keeper with busy := false, result := none, status := BitVec.ofNat 16 r } }.send (.msix 0 0)).startLater

/-! ## Heat and resets (R6, R34, R427) -/

/-- THERMAL_HOLD (R427): the clock is held at 0.6 GHz, and the error log gets an entry, of which the spec gives no value; or the
hold ends. -/
def execThermalHold (on : Bool) (s : State) : Host.Outcome State Fault Refusal :=
  .next (
    if on then { s.logError ((Config.freeWord s.fresh).toNat % 1024) (Config.freeWord (s.fresh + 1)) with
      thermalHold := true, clock := 12, fresh := s.fresh + 2 }
    else { s with thermalHold := false })

/-- A device reset: every register at its reset value, no partition, no task, the shadow store lost (R34); memory keeps its bytes
(DESIGN CHOICE, log 26). An image that CFGNEXT left is the image of the new start (DESIGN CHOICE, log 27). -/
def State.deviceReset (s : State) : State :=
  let r := { State.reset with
    mem := s.mem, honey := s.honey, badMem := s.badMem, badHoney := s.badHoney, msgs := s.msgs, fresh := s.fresh }
  match s.keeper.nextImage with
  | none => r
  | some b => ({ r with keeper := { r.keeper with cfgstat := 1 } }.applyImage b).setReady (bit28 27)

/-- THERMAL_RESET (R427): at 115 °C the keeper resets the device. -/
def execThermalReset (s : State) : Host.Outcome State Fault Refusal := .next s.deviceReset

/-- DEVICE_RESET (R6). -/
def execDeviceReset (s : State) : Host.Outcome State Fault Refusal := .next s.deviceReset

end Sys2Proof.Machine
end

