-- ==== Sys2Proof/Machine/Bars.lean ====
section
/-! DEFINITION. BAR0 of the functions (R413), with the capability list (R421), the mailbox's registers (R425) and the configuration window
(R423), as the host reads and writes them. -/

namespace Sys2Proof.Machine

/-! ## The capability list (R421) -/

/-- An entry of the capability list: its TYPE and the bytes after its header, a whole number of 8-byte words. -/
structure CapEntry where
  type : Nat
  body : List Byte
deriving DecidableEq, Repr

/-- Bytes with zeros up to a multiple of 8. -/
def padTo8 (b : List Byte) : List Byte := b ++ List.replicate (ceilDiv b.length 8 * 8 - b.length) 0

/-- LEN: the entry's 8-byte words, its header included. -/
def CapEntry.len (e : CapEntry) : Nat := 1 + e.body.length / 8

/-- The entry of a TYPE whose contents are some numbers. -/
def capEntry (type : Nat) (fields : List Nat) : CapEntry := ⟨type, padTo8 (Config.capContents type fields)⟩

/-- What the Port entry of a port tells. -/
def Port.contents (p : Nat) (q : Port) : List Nat :=
  [p, b2n q.endpoint, q.version, b2n q.down, b2n q.mismatch, b2n q.insecure, q.dropped, q.gen.toNat, q.rank]

/-- The Readiness entry: the READY and FAILED words as R422 lays them out, and the CFGSTAT byte, in the order that R421 names them. -/
def State.readinessEntry (s : State) : CapEntry :=
  ⟨2, padTo8 (leBytes 8 s.ready.toNat ++ leBytes 8 s.failed.toNat ++ leBytes 1 s.keeper.cfgstat.toNat)⟩

/-- The entries in the order of their TYPEs, the ports ascending; the Memory entry tells the three sizes and the four page sizes (DESIGN
CHOICE, log 89). -/
def State.capEntries (s : State) : List CapEntry :=
  [⟨1, padTo8 (leBytes 16 Config.devid.toNat ++ Config.identity)⟩, s.readinessEntry] ++
    ((List.range 9).map fun p => capEntry 3 ((s.port p).contents p)) ++
    [capEntry 4 [Config.hbmEnd, Config.honeyEnd, 2 ^ 33, 2 ^ 16, 2 ^ 21, 2 ^ 29, 2 ^ 35],
     capEntry 5 [s.keeper.powerLimit, s.clock]]

/-- The list's bytes from an offset on: each header names the next entry's offset, 0 after the last. -/
def capBytes : Nat → List CapEntry → List Byte
  | _, [] => []
  | off, e :: es =>
    leBytes 1 e.type ++ [Config.capVersion e.type] ++ leBytes 2 e.len ++ leBytes 4 (if es.isEmpty then 0 else off + 8 * e.len) ++ e.body ++
      capBytes (off + 8 * e.len) es

/-! ## Reads -/

/-- MBSTAT (R425). -/
def Keeper.mbstat (k : Keeper) : Word := w64 (b2n k.busy * 2 ^ 63 + k.status.toNat)

/-- The byte at an offset of BAR0 of the physical function (R413). -/
def State.pfByte (s : State) (off : Nat) : Byte :=
  let k := s.keeper
  let at_ (v : Word) : Byte := (leBytes 8 v.toNat).getD (off % 8) 0
  if off < 0x1000 then (capBytes 0 s.capEntries).getD off 0
  else if off < 0x1008 then at_ k.mbcmd
  else if off < 0x1080 then at_ (k.mbarg.toArray.getD ((off - 0x1008) / 8) 0)
  else if off < 0x1088 then at_ k.mbstat
  else if off < 0x1090 then at_ k.cfglen
  else if off = 0x1090 then k.cfgstat
  else if 0x80000 ≤ off then k.window.getD (off - 0x80000) 0
  else 0

/-- `n` bytes from an offset of a function's BAR0; nothing, which is Unsupported Request, for a virtual function bound to no partition
(R413). -/
def State.barBytes (s : State) (vf off n : Nat) : Option (List Byte) :=
  if vf = 0 then some ((List.range n).map fun i => s.pfByte (off + i))
  else (s.part? vf).map fun p => (List.range n).map fun i => (leBytes 8 (s.barWord p ((off + i) / 8)).toNat).getD ((off + i) % 8) 0

/-- The host reads BAR0 of a function. A read arrives only while the host port answers (R412). -/
def State.readBar (s : State) (vf off n : Nat) : State :=
  if !s.portLive 8 then s
  else match s.barBytes vf off n with
  | some b => s.send (.completion 8 b)
  | none => s.send (.unsupported 8)

/-- A configuration read: Configuration Request Retry Status until READY.HOST is set (R422); what it returns then the spec does not
give (DESIGN CHOICE, log 89). -/
def State.readConfig (s : State) (vf n : Nat) : State :=
  if !s.ready.getLsbD 0 then s.send (.retry vf)
  else { s with fresh := s.fresh + 1 }.send (.completion 8 (leBytes n (Config.freeWord s.fresh).toNat))

/-! ## Writes -/

/-- Bytes put into a list at a place; what lies before them and is not there yet is zero. -/
def placeBytes (l : List Byte) (at_ : Nat) (b : List Byte) : List Byte :=
  (List.range (max l.length (at_ + b.length))).map fun i => if at_ ≤ i ∧ i < at_ + b.length then b.getD (i - at_) 0 else l.getD i 0

/-- A write of MBCMD by its value (R425). -/
def execMbcmdWrite (v : Nat) (s : State) : Host.Outcome State Fault Refusal :=
  match v with
  | 1 => execPcreate [] s
  | 2 => execPdestroy [] s
  | 3 => execPsave [] s
  | 4 => execPrestore [] s
  | 5 => execQsup [] s
  | 6 => execPeerwin [] s
  | 7 => execAttest [] s
  | 8 => execCheckpoint [] s
  | 9 => execCfgnext [] s
  | 0x0A => execLkill [] s
  | n => execUnknownCommand n [] s

/-- The host writes the physical function's BAR0: the configuration window by bytes, the mailbox's registers and CFGLEN as whole words;
any other write changes nothing (DESIGN CHOICE, log 89). -/
def State.writePf (s : State) (off : Nat) (b : List Byte) : Host.Outcome State Fault Refusal :=
  let v := leNat b
  if 0x80000 ≤ off then .next { s with keeper := { s.keeper with window := (placeBytes s.keeper.window (off - 0x80000) b).take windowLen } }
  else if b.length ≠ 8 ∨ off % 8 ≠ 0 then .next s
  else if off = 0x1000 then execMbcmdWrite v s
  else if 0x1008 ≤ off ∧ off < 0x1080 then
    .next { s with keeper := { s.keeper with mbarg := s.keeper.mbarg.setIfInBounds ((off - 0x1008) / 8) (w64 v) } }
  else if off = 0x1088 then execCfglen (w64 v) [] s
  else .next s

/-- The host writes BAR0 of a function (R413). A write arrives only while the host port answers (R412). -/
def State.writeBar (s : State) (vf off : Nat) (b : List Byte) : Host.Outcome State Fault Refusal :=
  if !s.portLive 8 then .next s
  else if vf = 0 then s.writePf off b
  else if (s.part? vf).isNone then .next (s.send (.unsupported 8))
  else if b.length = 8 ∧ off % 8 = 0 ∧ off / 8 < 0x90 then execBarRegisterWrite vf (BitVec.ofNat 12 (0x800 + off / 8)) (w64 (leNat b)) s
  else .next s

end Sys2Proof.Machine
end

