-- ==== Sys2Proof/Machine/Ports.lean ====
section
/-! DEFINITION. Ports: links, IDE and versions (R412, R416, R420), inbound memory requests (R147, R417, R418), vendor-defined messages
(R419), and the caches' own steps (R148, R159). -/

namespace Sys2Proof.Machine

/-! ## Links (R412, R416, R420) -/

/-- LINK_UP (R420): a port trains or retrains; a peer link negotiates its version anew. A peer port stays down unless an image is
applied (R423). -/
def execLinkUp (port : Nat) (s : State) : Host.Outcome State Fault Refusal :=
  .next (
    let q := s.port port
    if port = 8 then s.setPort 8 { q with up := true, down := false, mute := false, told := false }
    else if 8 < port ∨ s.keeper.cfgstat ≠ 1 then s
    else
      ((s.setPort port { q with up := true, down := false, version := 0, mismatch := false, mute := false, told := false }).setReady
        (s.ready &&& ~~~ bit28 (1 + port))).send (.version port 0x0101 0x0100))

/-- LINK_DOWN (R416): a port goes down, sets DOWN and delivers INTEG.LINK; its ready bit clears. -/
def execLinkDown (port : Nat) (s : State) : Host.Outcome State Fault Refusal :=
  .next (
    let q := s.port port
    if 8 < port ∨ !q.up then s
    else
      ((s.setPort port { q with up := false, down := true, version := 0, told := true }).hostCause cLINK (w64 port)).setReady
        (s.ready &&& ~~~ bit28 (if port = 8 then 0 else 1 + port)))

/-- IDE_CHECK_FAIL (R412): the TLP is dropped, the stream becomes insecure and INTEG.LINK is delivered. -/
def execIdeCheckFail (port : Nat) (s : State) : Host.Outcome State Fault Refusal :=
  .next (if 8 < port then s else (s.setPort port { s.port port with insecure := true, down := true, told := true }).hostCause cLINK (w64 port))

/-- IDE_REKEY (R412): the port leaves the insecure state; that its partner answers nothing is then an event not yet told. -/
def execIdeRekey (port : Nat) (s : State) : Host.Outcome State Fault Refusal :=
  .next (if 8 < port then s else s.setPort port
    { s.port port with insecure := false, told := (s.port port).told && !(s.port port).mute })

/-- VERSION (R420): the smaller of the two highest values is agreed where it is at least both lowest. -/
def execVersion (port hi lo : Nat) (s : State) : Host.Outcome State Fault Refusal :=
  .next (
    let q := s.port port
    if 8 ≤ port ∨ !q.up then s
    else
      let v := min hi 0x0101
      if max lo 0x0100 ≤ v then
        let s := s.setPort port { q with version := v, mismatch := false, told := q.told && (!q.mute || q.version != 0) }
        if s.mayBeReady (1 + port) then s.setReady (s.ready ||| bit28 (1 + port)) else s
      else (s.setPort port { q with version := 0, mismatch := true, told := q.told && q.version == 0 }).setReady (s.ready &&& ~~~ bit28 (1 + port)))

/-! ## Inbound memory requests (R417, R418, R147) -/

/-- The partition with an ASID, through whose page tables a window's requests go. -/
def State.asidPart (s : State) (asid : Nat) : Option Partition := s.parts.find? fun p => p.asid.toNat == asid

/-- The window that `n` bytes at an address of a peer port fall in. -/
def Port.window (q : Port) (addr n : Nat) : Option Window :=
  (q.windows.map (·.2)).find? fun w => decide (w.base ≤ addr) && decide (addr + n ≤ w.base + w.len)

/-- How an inbound request of a peer is decoded: the partition and the virtual address; nothing where it completes with Unsupported
Request. -/
def State.decodeInbound (s : State) (port addr n : Nat) (ok : Window → Bool) : Option (Partition × Nat) :=
  let q := s.port port
  if !(q.endpoint && s.portLive port) || s.checkpointing then none
  else (q.window addr n).bind fun w =>
    if !ok w then none else (s.asidPart w.asid).map fun p => (p, (w.vbase + (addr - w.base)) % 2 ^ 56)

/-- A byte of HBM as the host port reads it, by physical address (DEDUCED, log 28): the home die cache's, else memory's (R147). -/
def State.homeByte (s : State) (pa : Nat) : Byte × Bool :=
  match s.dieLines.find? fun l => l.frame == pa / 128 * 128 with
  | some l => s.lineByte l (pa % 128)
  | none => if s.hbmFailed pa then (0xFF, false) else (memRead s.mem pa, s.badMem.contains pa)

/-- Writes a byte of HBM for the host port, by physical address. -/
def State.homeWrite (s : State) (pa : Nat) (b : Byte) : State :=
  match s.dieLines.find? fun l => l.frame == pa / 128 * 128 with
  | some l => s.setDieLine (l.setByte (pa % 128) b true)
  | none => s.physWrite pa b

/-- The host port's request falls in HBM. -/
def hostInHbm (addr n : Nat) : Bool := decide (addr + n ≤ Config.hbmEnd)

/-- Answers an inbound read: its bytes, or Completer Abort where one is uncorrectable (R200). -/
def State.answerRead (s : State) (port : Nat) (l : List (Byte × Bool)) (a : Nat) : State :=
  if anyBad l then (s.send (.abort port)).hostCause cHBMUE (w64 (a + l.findIdx (·.2))) else s.send (.completion port (bytesOf l))

/-- A memory read that arrives at a port (R417, R418): a strong load at SYS scope, served through the home die cache. -/
def State.portRead (s : State) (port addr len : Nat) : State :=
    if port = 8 then
      if s.portLive 8 && hostInHbm addr len then s.answerRead 8 ((List.range len).map fun i => s.homeByte (addr + i)) addr
      else s.send (.unsupported 8)
    else match s.decodeInbound port addr len (·.r) with
    | none => s.send (.unsupported port)
    | some (p, va) =>
      match State.devRead p va len s with
      | .error _ => s.send (.unsupported port)
      | .ok (l, s) => s.answerRead port l va

/-- INBOUND_READ (R413, R417, R418, R422). -/
def execInboundRead (at_ : Inbound) (addr len : Nat) (s : State) : Host.Outcome State Fault Refusal :=
  match at_ with
  | .port p => .next (s.portRead p addr len)
  | .bar vf => .next (s.readBar vf addr len)
  | .config vf => .next (s.readConfig vf len)

/-- A memory write that arrives at a port (R417, R418): a strong store at SYS scope; dropped where no window takes it. -/
def State.portWrite (s : State) (port addr : Nat) (bytes : List Byte) : State :=
    if port = 8 then
      if s.portLive 8 && hostInHbm addr bytes.length then bytes.zipIdx.foldl (fun s x => s.homeWrite (addr + x.2) x.1) s
      else s.send (.unsupported 8)
    else match s.decodeInbound port addr bytes.length (·.w) with
    | none => s.send (.unsupported port)
    | some (p, va) =>
      match State.devWrite p va bytes s with
      | .error _ => s.send (.unsupported port)
      | .ok s => s

/-- INBOUND_WRITE (R413, R417, R418). A write of a function's configuration space changes nothing that the spec names. -/
def execInboundWrite (at_ : Inbound) (addr : Nat) (bytes : List Byte) (s : State) : Host.Outcome State Fault Refusal :=
  match at_ with
  | .port p => .next (s.portWrite p addr bytes)
  | .bar vf => s.writeBar vf addr bytes
  | .config _ => .next s

/-- The new value of an inbound AtomicOp: FetchAdd, Swap, CAS (`b` compares); nothing for no store. -/
def inboundNew (op n old a b : Nat) : Option Nat :=
  match op with
  | 0 => some ((old + a) % 2 ^ (8 * n))
  | 1 => some (a % 2 ^ (8 * n))
  | 2 => if old = b % 2 ^ (8 * n) then some (a % 2 ^ (8 * n)) else none
  | _ => none

/-- Reads bytes at the memory controller (R164). -/
def State.ctrlRead (p : Partition) : Nat → Nat → State → Except XErr (List (Byte × Bool) × State)
  | _, 0, s => .ok ([], s)
  | va, n + 1, s =>
    match s.hbmRead p.ctx 2 true true .atomic (va % 2 ^ 56) with
    | .error x => .error x
    | .ok (b, s) =>
      match State.ctrlRead p (va + 1) n s with
      | .error x => .error x
      | .ok (bs, s) => .ok (b :: bs, s)

/-- Writes bytes at the memory controller. -/
def State.ctrlWrite (p : Partition) : Nat → List Byte → State → Except XErr State
  | _, [], s => .ok s
  | va, b :: bs, s =>
    match s.hbmWrite p.ctx 2 true true .atomic (va % 2 ^ 56) b with
    | .error x => .error x
    | .ok s => State.ctrlWrite p (va + 1) bs s

/-- The die cache's lines of a frame are written back and dropped. -/
def State.evictFrame (s : State) (f : Nat) : State :=
  let s' := (s.dieLines.filter (·.frame == f)).foldl (fun (s : State) l =>
    l.dirtyBytes.foldl (fun (s : State) x => s.physWrite (f + x.1) x.2) s) s
  { s' with dieLines := s'.dieLines.filter (·.frame != f) }

/-- INBOUND_ATOMIC (R417, R164): an atomic at SYS scope; the old value is returned. -/
def execInboundAtomic (port addr op : Nat) (w4 : Bool) (a b : Word) (s : State) : Host.Outcome State Fault Refusal :=
  let n := if w4 then 4 else 8
  .next (
    if port = 8 then
      if s.portLive 8 && hostInHbm addr n then
        let s := s.evictFrame (addr / 128 * 128)
        let l := (List.range n).map fun i => s.homeByte (addr + i)
        let s' := match (if anyBad l then none else inboundNew op n (leNat (bytesOf l)) a.toNat b.toNat) with
          | some v => (leBytes n v).zipIdx.foldl (fun (s : State) (x : Byte × Nat) => s.physWrite (addr + x.2) x.1) s
          | none => s
        s'.answerRead 8 l addr
      else s.send (.unsupported 8)
    else match s.decodeInbound port addr n (·.a) with
    | none => s.send (.unsupported port)
    | some (p, va) =>
      match State.ctrlRead p va n s with
      | .error _ => s.send (.unsupported port)
      | .ok (l, s) =>
        match (if anyBad l then none else inboundNew op n (leNat (bytesOf l)) a.toNat b.toNat) with
        | none => s.answerRead port l va
        | some v =>
          match State.ctrlWrite p va (leBytes n v) s with
          | .error _ => s.send (.unsupported port)
          | .ok s => s.answerRead port l va)

/-! ## Vendor-defined messages (R419) -/

/-- A peer port takes messages other than VERSION: it answers, and a version is agreed (R420). -/
def State.takesMessages (s : State) (port : Nat) : Bool := decide (port < 8) && s.portLive port

/-- GEN is that of a swarm launch that this chip runs (R74). -/
def State.runsGen (s : State) (gen : Word) : Bool := s.parts.any fun p => p.launches.any fun l => l.gen == some gen

/-- The event that BAREVT's code names. -/
def barEventOf (event : Nat) (g : Word) : Option BarEvent :=
  match event with
  | 0 => some (.arrive g.toNat)
  | 1 => some (.init (g.toNat % 2 ^ 32))
  | 2 => some .kill
  | _ => none

/-- The code of a vendor-defined message (R419). -/
def OutMsg.code : OutMsg → Option Nat
  | .version .. => some 0x01
  | .barevt .. => some 0x10
  | .barrsp .. => some 0x11
  | .lstart .. => some 0x20
  | _ => none

/-- The 4-byte header with which a vendor-defined message leaves: its code, its length in 8-byte words, zeros (R419). -/
def OutMsg.header (m : OutMsg) : Option (List Byte) := m.code.map fun c => [BitVec.ofNat 8 c, Config.vdmLength c, 0, 0]

/-- Answers a BAREVT with a status that the spec does not state (DESIGN CHOICE, log 29). -/
def State.freeResponse (s : State) (port tag : Nat) : State :=
  { s with fresh := s.fresh + 1 }.send (.barrsp port tag (Config.freeWord s.fresh))

/-- An event that is applied to an object: an init with count 0 is not (R173). -/
def BarEvent.applies : BarEvent → Bool
  | .init e => e != 0
  | _ => true

/-- Applies an event to the object at an address of a partition, and answers it (R173, R419); for one that does not reach a sound object,
a corrupt one included, the status is free (DESIGN CHOICE, log 29). -/
def State.applyBarevt (s : State) (p : Partition) (va : Nat) (ev : BarEvent) (port tag : Nat) : State :=
  match State.devRead p va 64 s with
  | .error _ => s.freeResponse port tag
  | .ok (l, s) =>
    if anyBad l then (s.hostCause cHBMUE (w64 (va + l.findIdx (·.2)))).freeResponse port tag
    else match barrierApply (bytesOf l) ev with
    | none => s.freeResponse port tag
    | some (b, st) =>
      match State.devWrite p va b s with
      | .error _ => s.freeResponse port tag
      | .ok s =>
        let s := s.send (.barrsp port tag (w64 st))
        match s.translate p.ctx va none with
        | .error _ => s
        | .ok (e, s) => s.releaseWaiters (e.phys va) ev st s.tasks

/-- BAREVT (R419, R74, R173): the event is applied at the object's home slice through an inbound window, and answered; with a GEN that no
launch here has, it is discarded and answered with status 2. -/
def execBarevt (port : Nat) (gen : Word) (addr event : Nat) (g : Word) (tag : Nat) (s : State) : Host.Outcome State Fault Refusal :=
  .next (
    if !s.takesMessages port then s
    else if !s.runsGen gen then s.send (.barrsp port tag 2)
    else match s.decodeInbound port addr 64 (fun w => w.r && w.w), barEventOf event g with
    | some (p, va), some ev => if ev.applies then s.applyBarevt p va ev port tag else s.freeResponse port tag
    | _, _ => s.freeResponse port tag)

/-- A remote barrier instruction that waits on a port ends with a value in its register. -/
def State.endRemote (s : State) (t : Task) (port : Nat) (v : Word) : State :=
  match t.wait with
  | some (.remote i sd k _ _) => if k = port then s.setTask ((t.awake.ws sd v).retire i) else s
  | _ => s

/-- BARRSP (R419): the answer completes the remote barrier instruction or the engine job that awaited it. -/
def execBarrsp (port tag : Nat) (status : Word) (s : State) : Host.Outcome State Fault Refusal :=
  .next (
    if !s.takesMessages port then s
    else match s.task? tag with
    | some t => s.endRemote t port status
    | none => s.arriveAnswered tag (some port))

/-- BARRSP_TIMEOUT (R419), for the task or job of a tag: status 2 for BARARR; for BARINIT and BARKILL the unchanged BGEN of the object, which lies at the other end of the
link (DESIGN CHOICE, log 29). -/
def execBarrspTimeout (t : Nat) (s : State) : Host.Outcome State Fault Refusal :=
  .next (
    match s.task? t with
    | some u =>
      match u.wait with
      | some (.remote _ _ k arrive phys) => s.endRemote u k (if arrive then 2 else w64 (leNat (memReadN s.mem phys 8)))
      | _ => s
    | none => s.arriveAnswered t none)

/-- LSTART (R419, R420): the port records the GEN and the rank received; under version 0x0100 it is dropped (DEDUCED, log 48), and one with a
GEN that no launch here has is discarded (R74). -/
def execLstart (port : Nat) (gen : Word) (rank : Nat) (s : State) : Host.Outcome State Fault Refusal :=
  .next (
    let q := s.port port
    if s.takesMessages port ∧ 0x0101 ≤ q.version ∧ s.runsGen gen then s.setPort port { q with gen := gen, rank := rank } else s)

/-- UNKNOWN_VENDOR_MESSAGE (R419): a message of an unassigned code is dropped and counted, on the host port too (R412, R421). -/
def execUnknownVendorMessage (port code : Nat) (s : State) : Host.Outcome State Fault Refusal :=
  .next (
    let q := s.port port
    if (s.takesMessages port || (port == 8 && s.portLive 8)) ∧ code ≠ 0x01 ∧ code ≠ 0x10 ∧ code ≠ 0x11 ∧ code ≠ 0x20 then s.setPort port { q with dropped := q.dropped + 1 }
    else s)

/-! ## The caches' own steps (R148, R159) -/

/-- CACHE_WRITE_BACK (R159): a dirty hive-cache line, named by its line number, is evicted; its dirty bytes enter the coherence order. -/
def execCacheWriteBack (hv line : Nat) (s : State) : Host.Outcome State Fault Refusal :=
  .next (
    let mine (k : Nat × Line) : Bool := k.1 == hv && k.2.dirty != 0 && (match k.2.key with | .virt _ _ n => n == line | .honey _ => false)
    match s.hiveLines.find? mine, s.parts.find? fun p => decide (p.firstHive ≤ hv) && decide (hv < p.firstHive + p.nHives) with
    | some (_, l), some p =>
      match s.cleanHiveLine { p.ctx with hive := hv } l true with
      | .ok s => s
      | .error _ => s
    | _, _ => s)

/-- HIVE_CACHE_PREFETCH (R148, R200): a speculative fill of a hive-cache line; nothing where the page is NS, not translated or not cached in
the hive, where a byte is uncorrectable, or where no way of the set is free (DESIGN CHOICE, log 5). -/
def execHiveCachePrefetch (t va : Nat) (s : State) : Host.Outcome State Fault Refusal :=
  .next (
    match s.task? t with
    | none => s
    | some u =>
      match s.part? u.vf with
      | none => s
      | some p =>
        let c := u.ctx p
        let s := s.fillDie c va
        match s.dieLines.find? (·.serves c.asid va) with
        | none => s
        | some l =>
          if l.leaf.ns || !l.leaf.r || decide (2 ≤ l.leaf.cp) || (s.hiveHit c va).isSome || (s.hiveVictim c.hive (va / 128)).isSome then s
          else match s.badClean l with
            | some k => s.hostCause cHBMUE (w64 (va / 128 * 128 + k))
            | none => { s with hiveLines := (c.hive, { l with dirty := 0, writers := [] }) :: s.hiveLines })

end Sys2Proof.Machine
end

