-- ==== Sys2Proof/Machine/Sequencer.lean ====
section
/-! DEFINITION. The steps of the comb sequencer of its own: one pass of an instruction (R25, R283), the count tree's sum (R26) and
a row exchange (R322). -/

namespace Sys2Proof.Machine

/-- A comb instruction as the sequencer runs it. -/
def combOf : Instr → Option (Pred × Comb)
  | .vadd p rm wf vd va src m => some (p, combVadd p rm wf vd va src m)
  | .vsub p rm wf vd va src m => some (p, combVsub p rm wf vd va src m)
  | .vmul p rm wf vd va src m => some (p, combVmul p rm wf vd va src m)
  | .vdiv p rm wf vd va src m => some (p, combVdiv p rm wf vd va src m)
  | .vmin p rm wide vd va src m => some (p, combVmin p rm wide vd va src m)
  | .vmax p rm wide vd va src m => some (p, combVmax p rm wide vd va src m)
  | .vmac p rm sat vd va src m => some (p, combVmac p rm sat vd va src m)
  | .vfma p rm vd va src m => some (p, combVfma p rm vd va src m)
  | .vrcp p rm vd va m => some (p, combVrcp p rm vd va m)
  | .vrsq p rm vd va m => some (p, combVrsq p rm vd va m)
  | .vexp p rm vd va m => some (p, combVexp p rm vd va m)
  | .vabs p rm sat vd va m => some (p, combVabs p rm sat vd va m)
  | .vneg p rm sat vd va m => some (p, combVneg p rm sat vd va m)
  | .vand p vd va src m => some (p, combVand p vd va src m)
  | .vor p vd va src m => some (p, combVor p vd va src m)
  | .vxor p vd va src m => some (p, combVxor p vd va src m)
  | .vnot p vd va m => some (p, combVnot p vd va m)
  | .vshl p vd va src m => some (p, combVshl p vd va src m)
  | .vshr p vd va src m => some (p, combVshr p vd va src m)
  | .vsra p vd va src m => some (p, combVsra p vd va src m)
  | .vcmp p rel mdst vd va src m => some (p, combVcmp p rel mdst vd va src m)
  | .vsel p vd va vb mc m => some (p, combVsel p vd va vb mc m)
  | .vmov p vd va m => some (p, combVmov p vd va m)
  | .vbcast p vd sb fmt m => some (p, combVbcast p vd sb fmt m)
  | .vcvt p rm vd va fmt m => some (p, combVcvt p rm vd va fmt m)
  | .vshift p vd va sb m => some (p, combVshift p vd va sb m)
  | .vrand p vd sb fmt m => some (p, combVrand p vd sb fmt m)
  | .vcvtMem p rm vd sb fmt m => some (p, combVcvtMem p rm vd sb fmt m)
  | .vrsumO p rm nov vd va osb m => some (p, combVrsumO p rm nov vd va osb m)
  | .vrsumT p rm nov vd va osb m => some (p, combVrsumT p rm nov vd va osb m)
  | .vrmax p nov vd va osb m => some (p, combVrmax p nov vd va osb m)
  | .vrmin p nov vd va osb m => some (p, combVrmin p nov vd va osb m)
  | .vcount p nov vd osb m => some (p, combVcount p nov vd osb m)
  | .vrank p vd va m => some (p, combVrank p vd va m)
  | .vdefer p sb path m => some (p, combVdefer p sb path m)
  | .vdrain p vd ma sb path m => some (p, combVdrain p vd ma sb path m)
  | .mand p md ma mb m => some (p, combMand p md ma mb m)
  | .mor p md ma mb m => some (p, combMor p md ma mb m)
  | .mxor p md ma mb m => some (p, combMxor p md ma mb m)
  | .mnot p md ma m => some (p, combMnot p md ma m)
  | .mfirst p md ma m => some (p, combMfirst p md ma m)
  | .pass p vd va vb osb ctl word => some (p, combPass p vd va vb osb ctl word)
  | .search p vd va vb sb ctl word => some (p, combSearch p vd va vb sb ctl word)
  | .pseq p vd va vb osb word => some (p, combPseq p vd va vb osb word)
  | .vmwrite p md sb => some (p, combVmwrite p md sb)
  | .vtopk p nanhi vd ve va sd sa m => some (p, combVtopk p nanhi vd ve va sd sa m)
  | .vbotk p nanhi vd ve va sd sa m => some (p, combVbotk p nanhi vd ve va sd sa m)
  | .vargmax p nanhi nov vd ve va sd m => some (p, combVargmax p nanhi nov vd ve va sd m)
  | .vargmin p nanhi nov vd ve va sd m => some (p, combVargmin p nanhi nov vd ve va sd m)
  | .vsort p nanhi vd ve va sd m => some (p, combVsort p nanhi vd ve va sd m)
  | .vperm p vd va vb m => some (p, combVperm p vd va vb m)
  | .vuniq p vd ve va sd m => some (p, combVuniq p vd ve va sd m)
  | .vsim p vd va vb m => some (p, combVsim p vd va vb m)
  | .vnear p vd ve va vb sd sa m => some (p, combVnear p vd ve va vb sd sa m)
  | .nmsearch p vd va sd sa m => some (p, combNmsearch p vd va sd sa m)
  | _ => none

/-- A task's instruction is under way at a pass boundary: its record is held, its sum has come, and the task runs it. -/
def Task.passReady (t : Task) : Bool :=
  t.place == .vlc && t.cleared && !t.linear && t.stop.isNone && t.wait.isNone && t.restored.isNone && !t.mxReading &&
    (match t.resume with
     | some r => r.pc == t.pc && t.vstart != 0 && r.sum.isNone
     | none => false)

/-- The VLC of a hive that the sequencer serves next, among those under way and the one given (R25). -/
def State.nextPass (s : State) (t : Task) : Option Nat :=
  nextAfter (s.hive t.hive).passServed
    ((s.tasks.filter fun u => u.hive == t.hive && (u.id == t.id || u.passReady)).map (·.vlc))

/-- The sequencer may issue a pass for a task: it is placed and issuing, its combs are in associative mode, and its VLC is
served next (R24, R25). -/
def State.servesPass (s : State) (t : Task) : Bool :=
  t.issuable && t.itemAt.isNone && t.combpar.isEmpty && t.restored.isNone && !t.linear && !t.mxReading && s.nextPass t == some t.vlc

/-- SEQUENCER_PASS: the next pass of the comb instruction at the task's pc; without one nothing happens. -/
def execSequencerPass (t : Nat) (s : State) : Host.Outcome State Fault Refusal :=
  match s.task? t with
  | none => .next s
  | some u =>
    if !s.servesPass u then .next s
    else match s.part? u.vf with
      | none => .next s
      | some p =>
        match s.fetch u p with
        | (.run i, s') =>
          match combOf i, s'.task? t with
          | some (q, c), some u =>
            let s' := s'.setHive { s'.hive u.hive with passServed := u.vlc }
            .next (stepComb q i c s' u)
          | _, _ => .next s
        | _ => .next s

/-- COUNT_TREE_SUM: the sum that a pass fed reaches its register, 14 cycles after the pass (R26, R283). -/
def execCountTreeSum (t : Nat) (s : State) : Host.Outcome State Fault Refusal :=
  match s.task? t with
  | none => .next s
  | some u => .next (s.setTask u.takeSum)

/-- The order of a sort's candidates after `k` of its radix steps, one for each bit that a read of the source cap takes: of a bit-plane
element the top PLANES bits (R91, R327). -/
def radixOrder (l : List Cand) (k : Nat) (c : Cap) : List Nat :=
  let low (x : Cand) : Nat := x.ord / 2 ^ (c.f.width - c.readWidth) % 2 ^ k
  (sortCands (fun a b => if k < c.readWidth then decide (low a ≤ low b) else decide (a.ord ≤ b.ord)) l).map (·.cell)

/-- The permutation that a sort's exchanges have reached (R324, R327, R329). -/
def Resume.orderAt (r : Resume) (t : Task) (k : Nat) : List Nat :=
  match r.instr with
  | .vsort _ nanhi _ _ va _ m => radixOrder (candidates r t nanhi (va, (modsOf m).a)) k (r.cap 0)
  | .vuniq _ _ _ va _ m => radixOrder (candidates r t true (va, (modsOf m).a)) k (r.cap 0)
  | _ => r.order

/-- The held instruction of a task has row exchanges left. -/
def Task.exchangeLeft (t : Task) : Bool :=
  match t.resume with
  | some r => r.pc == t.pc && t.vstart != 0 && decide (r.exchanges < exchangesOf r)
  | none => false

/-- ROW_EXCHANGE: one exchange of a held instruction (R322, R327), for which the sequencer switches the combs to linear mode (R141);
the rows move in the destination, whose columns have no stated value before completion (R324). -/
def execRowExchange (t : Nat) (s : State) : Host.Outcome State Fault Refusal :=
  match s.task? t with
  | none => .next s
  | some u =>
    match u.resume, (u.resume.bind fun r => combOf r.instr) with
    | some r, some (_, c) =>
      if u.place = .vlc ∧ u.exchangeLeft then
        let (r, s, u) := c.blur r u.vstart.toNat s u
        let k := r.exchanges + 1
        .next (s.setTask { u with
          linear := true, heldSwitch := false, resume := some { r with exchanges := k, order := r.orderAt u k } })
      else .next s
    | _, _ => .next s

end Sys2Proof.Machine
end

