-- ==== Sys2Proof/Machine/Events.lean ====
section
/-! DEFINITION. Which step comes next: an instruction of a task or a step of another agent; and what every cycle does. The spec fixes no
order between agents beyond its rules; this order is the model's (DESIGN CHOICE, log 2), and the agenda may put any other before it. -/

namespace Sys2Proof.Machine

/-! ## Steps that can be made now -/

/-- The first term of a hive that fires. -/
def Hive.firing (h : Hive) : Option Nat := (List.range 16).find? fun n => (h.term n).ready

/-- A term of a hive that fires now; the objects of a task that is swapped out wait with it (R72). -/
def State.termEvent (s : State) (h : Hive) : Option Instr :=
  (h.firing).bind fun n =>
    match (h.term n).owner.bind s.task? with
    | some t => if t.place = .vlc then some (.waggleTermFire h.id n) else none
    | none => some (.waggleTermFire h.id n)

/-- A scalar access that a refresh window holds (R31). -/
def State.loadHeld (s : State) (q : PendLoad) : Bool := q.handle.space = .honey && s.refreshing == some (fld q.addr 12 4)

/-- The steps of a task's own accesses, swap and restore that can be made now. -/
def State.taskEvents (s : State) (t : Task) : List Instr :=
  match t.place with
  | .vlc =>
    (match t.wait with | some (.sleep c) => if c ≤ s.cycle.toNat then [Instr.sleeptilWake t.id] else [] | _ => []) ++
      (match t.pend with | some q => if s.loadHeld q then [] else [Instr.scalarLoadReturn t.id] | none => []) ++
      (if t.stores.isEmpty then [] else [Instr.storePerform t.id 0]) ++
      (if t.vld.isEmpty then [] else [Instr.vectorAccessComplete t.id false]) ++
      (if t.vst.isEmpty then [] else [Instr.vectorAccessComplete t.id true]) ++
      (if t.cleared then [] else [Instr.combClear t.id]) ++
      (if t.stopped then [Instr.taskSwap t.id] else [])
  | _ => (s.restoreEvent t).toList

/-- The steps of the command processor for a partition that can be made now. -/
def State.partEvents (s : State) (p : Partition) : List Instr :=
  (((List.range 16).filter fun k => s.mayFetch p k).map fun k => Instr.cardFetch p.vf k) ++
    (if s.drawDue p then [Instr.draw p.vf 0] else []) ++
    ((p.launches.filter fun l => s.launchDone p l).map fun l => Instr.launchEnd p.vf l.id) ++
    (if p.noticeReady then [Instr.noticeWrite p.vf] else []) ++ (if s.saveDone p then [Instr.partitionSaved p.vf] else []) ++
    (if p.psState = 3 then [Instr.partitionRestored p.vf] else [])

/-- Every step of another agent that can be made now, copies apart. -/
def State.events (s : State) : List Instr :=
  s.hives.filterMap s.termEvent ++ s.tasks.flatMap s.taskEvents ++ (s.jobs.filter (·.cls != .cp)).filterMap s.jobEvent ++
    s.tasks.filterMap s.mxEvent ++ s.parts.flatMap s.partEvents ++ s.clockEvent.toList ++
    (if s.mailboxEnd.isSome then [Instr.mailboxComplete] else [])

/-- The next step of another agent: a copy that can complete, so that its promise holds (R166); else one of the others, by the cycle
number. -/
def State.nextEvent (s : State) : Option Instr :=
  match (s.jobs.filter (·.cls == .cp)).findSome? s.jobEvent with
  | some i => some i
  | none => let l := s.events; l[s.cycle.toNat % l.length]?

/-! ## What every cycle does -/

/-- The steps that a cycle number brings (R30, R57, R183). -/
def timedSteps (c : Nat) : List Instr :=
  (if c % 1536 = 0 then [Instr.refreshStart] else []) ++ (if c % 1536 = 384 then [Instr.refreshEnd] else []) ++
    (if c % 1200 = 0 then [Instr.afrUpdate] else []) ++ (if c % 4096 = 0 then [Instr.stageEpoch] else [])

/-- A suspended WGWAIT or BARWAIT that needs a paused job is swapped out (R152, R185). -/
def State.waggleStop (s : State) (t : Task) : Task :=
  if t.place ≠ .vlc then t
  else match t.wait with
    | some (.waggle i _ n) =>
      if s.waggleNeedsPaused t ((s.hive t.hive).term n) then t.askStop (.engineWait i none) s.cycle.toNat else t
    | some (.barrier i _ ph _) => if s.arrivalHeld t ph then t.askStop (.engineWait i ph) s.cycle.toNat else t
    | _ => t

/-- The launch of a task is killed. -/
def State.launchKilled (s : State) (t : Task) : Bool :=
  match (s.part? t.vf).bind fun p => p.launch? t.launch with
  | some l => l.killed
  | none => false

/-- A task of a killed launch ends at its next instruction boundary, wherever it is (R426). -/
def State.killTask (s : State) (t : Task) : Task :=
  if s.launchKilled t && t.pend.isNone && !t.isEnding && (match t.wait with | some (.remote ..) => false | _ => true) then
    { t.takeLate with latePulses := [], wait := some (.ending 0 false true 0), stop := none }
  else t

/-- Ends the tasks that were only waiting for their jobs. -/
def State.endTasks (s : State) : State :=
  (s.tasks.filter (·.isEnding)).foldl (fun s t =>
    let s := s.endStreams t.id
    match s.task? t.id with
    | some t => s.finishEnding t
    | none => s) s

/-- The end of a cycle (DESIGN CHOICE, log 1). -/
def State.tick (s : State) : State :=
  let s := { s with tasks := s.tasks.map fun t => s.killTask (s.waggleStop t) }
  let s := s.endTasks
  let c := s.cycle + 1
  { s with
    cycle := c, cur := none, refreshing := refreshAt c.toNat, agenda := s.agenda ++ timedSteps c.toNat
    tasks := s.tasks.map fun t => t.expireLease c.toNat }

/-! ## The choice of a step -/

/-- What a step does. -/
inductive Choice where
  | event (i : Instr)
  | issue (t : Task)
  | idle
deriving DecidableEq, Repr

/-- An instruction if a task has one, else another agent's step. -/
def State.issueFirst (s : State) : Choice :=
  match s.pickTask with
  | some t => .issue t
  | none => match s.nextEvent with | some i => .event i | none => .idle

/-- What comes next: the head of the agenda; else the other agents and the tasks by turns. -/
def State.choose (s : State) : Choice × State :=
  match s.agenda with
  | i :: r => (.event i, { s with agenda := r })
  | [] =>
    if s.phase then
      match s.nextEvent with
      | some i => (.event i, { s with phase := false })
      | none => (s.issueFirst, { s with phase := false })
    else (s.issueFirst, { s with phase := true })

end Sys2Proof.Machine
end

