-- ==== Sys2Proof/Machine/Sparse.lean ====
section
/-! DEFINITION. The sparse tile instructions: OPC 0x74, FN 0 and 1 (R378, R379). -/

namespace Sys2Proof.Machine

/-! ## SPST (R378) -/

/-- An element is present when it is active and differs from the absent value of R96. -/
def presentElem (c : Cap) (x : Nat) : Bool :=
  match c.f with
  | .fp _ => x != 0
  | f => f.intVal 0 x != c.zpVal

/-- Values packed as R79 packs them. -/
def packValues (f : Fmt) (l : List Nat) : List Byte :=
  leBytes (packedSize f l.length) ((l.zipIdx.map fun p => containerBits f p.1 * 2 ^ (f.container * p.2)).sum)

/-- Bytes with zeros up to a multiple of 16. -/
def padTo16 (b : List Byte) : List Byte := b ++ List.replicate (ceilDiv b.length 16 * 16 - b.length) 0

/-- Record `k`: the bitmap and the present values (R97). -/
def sparseRecord (c : Cap) (n : Nat) (val : Nat → Nat) (active : Nat → Bool) (k : Nat) : List Byte :=
  let js := (List.range (min 128 (n - 128 * k))).filter fun j => active (128 * k + j) && presentElem c (val (128 * k + j))
  padTo16 (leBytes 16 (cellSet js) ++ packValues c.f (js.map fun j => val (128 * k + j)))

/-- The table of offsets of records (R97): one word more than there are records. -/
def recordTable : Nat → List Nat → List Byte
  | o, [] => leBytes 4 o
  | o, n :: ns => leBytes 4 o ++ recordTable (o + n) ns

/-- The lengths of the records that a held SPST keeps before their bytes. -/
def Resume.lengths (r : Resume) : List Nat := (r.order.drop 1).take (r.order.headD 0)

/-- The bytes that a held SPST or SPLD keeps after its lengths or bitmaps. -/
def Resume.kept (r : Resume) : List Byte := (r.order.drop (1 + r.order.headD 0)).map (BitVec.ofNat 8)

/-- Writes record `n` of an SPST; after the last one, the table and the preamble. -/
def spstWrite (hd : Handle) (r : Resume) (n : Nat) : M Unit := do
  let at_ := (r.lengths.take n).sum
  let o := r.key.toNat
  writeBytes hd false false .write (hd.addr (o + r.total + at_)) ((r.kept.drop at_).take (r.lengths.getD n 0))
  if n + 1 < r.lengths.length then pure ()
  else do
    writeBytes hd false false .write (hd.addr (o + 64)) (recordTable 0 r.lengths)
    writeBytes hd false false .write (hd.addr o) (preambleBytes { r.cap 0 with spr := 1 } r.total 0 64 r.kept.length)

/-- One record of an SPST: it stops only between records, and VSTART.PASS holds the next one (R378). -/
def spstStep (i : Instr) (hd : Handle) (r : Resume) (n : Nat) : M Unit := do
  match ← attempt (spstWrite hd r n) with
  | .error (.page c a) => if n = 0 then stopWith (.page c a) else holdAt i r n (.page c a)
  | .error e => stopWith e
  | .ok _ =>
    if n + 1 < r.lengths.length then modT fun u => { u with vstart := BitVec.ofNat 32 (n + 1), resume := some r }
    else do
      modT fun u => { u with ocst := u.ocst + 1, vst := u.vst ++ [hbmPart hd r.kept.length], vstart := 0, resume := none }
      finishWord i id

/-- SPST (R378): its checks in its order, then the records, the table and the preamble. The record keeps the layout and its bytes. -/
def execSpst (p : Pred) (sa va h : Nat) (s : State) : Host.Outcome State Fault Refusal :=
  let i : Instr := .spst p sa va h
  runHeld .cell p i s fun t => do
   match t.held i with
   | some r => do
    let hd ← useHandle h
    sidePort [] (if hd.space = .comblin then combByteCols 0 32 else [])
    spstStep i hd r t.vstart.toNat
   | none => do
    let v ← regOf i va
    let c := v.c
    check (capPasses v.cap) cCAPCHECK (capTval va 1)
    check (!c.discard) cDISCARD (capTval va 1)
    check (c.f.isInt || c.f.isFp) cUNSUPPORTED (capTval va 1)
    check (decide (c.count ≤ t.vl)) cSHAPE (capTval va 1)
    check (!(t.tptrap && c.poison)) cPOISON (capTval va 1)
    if 65535 ≤ t.ocst then stall
    else do
      let hd ← useHandle h
      let o := (t.rs sa).toNat
      let a ← checkAccess hd o 64 .write 64
      let l ← readBytes hd false false .write a 64
      let old ← freeBytes l
      let pre := MemTile.of hd o old
      check (!(capPasses pre.bits && pre.cap.ro)) cROWRITE (w64 a)
      let n := c.count
      let k := ceilDiv n 128
      let active := activeCells p t
      let records := (List.range k).map (sparseRecord c n (t.elem v.base c) (bitOf active))
      let poff := 64 + 64 * ceilDiv (4 * (k + 1)) 64
      let lens := records.map List.length
      let plen := lens.sum
      check (decide (plen ≤ pre.plen)) cSPOVERRUN (w64 a)
      let _ ← checkAccess hd o (poff + plen) .write 64
      sidePort v.readCols (if hd.space = .comblin then combByteCols 0 32 else [])
      spstStep i hd
        { capture i p t with
          key := w64 o, total := poff, caps := [v.cap], order := k :: lens ++ records.flatten.map (·.toNat) } 0

/-! ## SPLD (R379) -/

/-- The bits of an absent element (R96). -/
def absentBits (c : Cap) : Nat :=
  match c.f with
  | .fp _ => 0
  | f => ofInt f.width c.zpVal

/-- The value of element `f` of a sparse tile, and what its read delivers. -/
def spldElem (m : MemTile) (md : TileMeta) (f : Nat) : M (Nat × Option (Nat × Word)) :=
  match m.pieces md f with
  | none => pure (absentBits m.cap, none)
  | some ps => m.readElem ps

/-- The loading phase from cell `from_` on; a translation fault holds the load at its element, as in VLD. -/
def spldElems (i : Instr) (vd : Nat) (r : Resume) (m : MemTile) (md : TileMeta) (from_ : Nat) : M Unit := do
  let t ← getT
  let cells := r.tileCells t m.cap.count from_
  let (got, stopped) ← untilFails (fun e => spldElem m md (r.flat t e)) cells
  let due := firstDue r.due (got.findSome? fun x => x.2.2)
  let cap := { m.cap with spr := 0, discard := false, poison := m.cap.poison || due.isSome }
  let write (u : Task) : Task :=
    (u.writeElems vd (cellSet (got.map (·.1))) m.cap.f (got.map fun x => (x.1, x.2.1))).writeCap vd cap.bits
  match stopped with
  | some (e, .page c a) =>
    if e = 0 then stopWith (.page c a)
    else do
      modT write
      holdAt i { r with due := due } e (.page c a)
  | some (_, x) => stopWith x
  | none => do
    modT fun u =>
      { write u with
        ocld := u.ocld + 1, vld := u.vld ++ [⟨due, hbmPart m.h (packedSize m.cap.f cells.length)⟩], vstart := 0, resume := none }
    finishWord i id

/-- SPLD (R379). The record of a held load keeps the bitmaps and the table. -/
def execSpld (p : Pred) (sa vd h : Nat) (s : State) : Host.Outcome State Fault Refusal :=
  let i : Instr := .spld p sa vd h
  runHeld .cell p i s fun t => do
    match t.held i with
    | some r => do
      let hd ← useHandle h
      sidePort [] (t.regCols vd)
      let c := r.cap 0
      spldElems i vd r { h := hd, o := r.key.toNat, cap := c, bits := c.bits, poff := r.total, soff := 0, moff := 64, plen := 0 }
        ⟨r.kept, r.lengths⟩ t.vstart.toNat
    | none => do
      let v ← regOf i vd
      if 65535 ≤ t.ocld then stall
      else do
        let hd ← useHandle h
        let o := (t.rs sa).toNat
        let (m, b, a, due) ← readPreamble hd o
        check (m.headOk b) cCAPCHECK (w64 a)
        check (m.cap.scl == 0 && m.cap.spr == 1) cUNSUPPORTED (w64 a)
        check (decide (m.cap.f.width ≤ v.width)) cNARROW (capTval vd 0)
        check (!v.c.ro) cROWRITE (capTval vd 0)
        check (!(t.tptrap && m.cap.poison)) cPOISON (w64 a)
        let (md, due') ← readMeta m a
        sidePort [] (t.regCols vd)
        spldElems i vd
          { capture i p t with
            key := w64 o, total := m.poff, caps := [m.cap.bits], due := firstDue due due'
            order := md.maps.length :: md.maps ++ md.bytes.map (·.toNat) } m md 0

end Sys2Proof.Machine
end

