-- ==== Sys2Proof/Machine/Dispatch.lean ====
section
/-! DEFINITION. One arm per instruction of the opcode table, each one call of its meaning. -/

namespace Sys2Proof.Machine

/-- What an instruction does to a state. -/
def exec (i : Instr) (s : State) : Host.Outcome State Fault Refusal :=
  match i with
  | .add p sd sa sb => Sys2Proof.Machine.execAdd p sd sa sb s
  | .sub p sd sa sb => Sys2Proof.Machine.execSub p sd sa sb s
  | .mul p sd sa sb => Sys2Proof.Machine.execMul p sd sa sb s
  | .mulh p sd sa sb => Sys2Proof.Machine.execMulh p sd sa sb s
  | .mulhu p sd sa sb => Sys2Proof.Machine.execMulhu p sd sa sb s
  | .div p sd sa sb => Sys2Proof.Machine.execDiv p sd sa sb s
  | .divu p sd sa sb => Sys2Proof.Machine.execDivu p sd sa sb s
  | .rem p sd sa sb => Sys2Proof.Machine.execRem p sd sa sb s
  | .remu p sd sa sb => Sys2Proof.Machine.execRemu p sd sa sb s
  | .andS p sd sa sb => Sys2Proof.Machine.execAndS p sd sa sb s
  | .orS p sd sa sb => Sys2Proof.Machine.execOrS p sd sa sb s
  | .xorS p sd sa sb => Sys2Proof.Machine.execXorS p sd sa sb s
  | .shl p sd sa sb => Sys2Proof.Machine.execShl p sd sa sb s
  | .shr p sd sa sb => Sys2Proof.Machine.execShr p sd sa sb s
  | .sra p sd sa sb => Sys2Proof.Machine.execSra p sd sa sb s
  | .rol p sd sa sb => Sys2Proof.Machine.execRol p sd sa sb s
  | .clz p sd sa => Sys2Proof.Machine.execClz p sd sa s
  | .ctz p sd sa => Sys2Proof.Machine.execCtz p sd sa s
  | .popc p sd sa => Sys2Proof.Machine.execPopc p sd sa s
  | .minS p sd sa sb => Sys2Proof.Machine.execMinS p sd sa sb s
  | .maxS p sd sa sb => Sys2Proof.Machine.execMaxS p sd sa sb s
  | .minu p sd sa sb => Sys2Proof.Machine.execMinu p sd sa sb s
  | .maxu p sd sa sb => Sys2Proof.Machine.execMaxu p sd sa sb s
  | .sel p sd sa sb sc => Sys2Proof.Machine.execSel p sd sa sb sc s
  | .exts p sd sa sb => Sys2Proof.Machine.execExts p sd sa sb s
  | .extz p sd sa sb => Sys2Proof.Machine.execExtz p sd sa sb s
  | .ins p sd sa sb sc => Sys2Proof.Machine.execIns p sd sa sb sc s
  | .addi p sd sa imm => Sys2Proof.Machine.execAddi p sd sa imm s
  | .muli p sd sa imm => Sys2Proof.Machine.execMuli p sd sa imm s
  | .andi p sd sa imm => Sys2Proof.Machine.execAndi p sd sa imm s
  | .ori p sd sa imm => Sys2Proof.Machine.execOri p sd sa imm s
  | .xori p sd sa imm => Sys2Proof.Machine.execXori p sd sa imm s
  | .shli p sd sa imm => Sys2Proof.Machine.execShli p sd sa imm s
  | .shri p sd sa imm => Sys2Proof.Machine.execShri p sd sa imm s
  | .srai p sd sa imm => Sys2Proof.Machine.execSrai p sd sa imm s
  | .movi p sd imm => Sys2Proof.Machine.execMovi p sd imm s
  | .cmpeq p qd sa sb => Sys2Proof.Machine.execCmpeq p qd sa sb s
  | .cmpne p qd sa sb => Sys2Proof.Machine.execCmpne p qd sa sb s
  | .cmplt p qd sa sb => Sys2Proof.Machine.execCmplt p qd sa sb s
  | .cmpltu p qd sa sb => Sys2Proof.Machine.execCmpltu p qd sa sb s
  | .cmple p qd sa sb => Sys2Proof.Machine.execCmple p qd sa sb s
  | .cmpleu p qd sa sb => Sys2Proof.Machine.execCmpleu p qd sa sb s
  | .cmpeqi p qd sa imm => Sys2Proof.Machine.execCmpeqi p qd sa imm s
  | .cmplti p qd sa imm => Sys2Proof.Machine.execCmplti p qd sa imm s
  | .qand p qd qa qb => Sys2Proof.Machine.execQand p qd qa qb s
  | .qor p qd qa qb => Sys2Proof.Machine.execQor p qd qa qb s
  | .qxor p qd qa qb => Sys2Proof.Machine.execQxor p qd qa qb s
  | .qnot p qd qa => Sys2Proof.Machine.execQnot p qd qa s
  | .lea p sd h sa imm => Sys2Proof.Machine.execLea p sd h sa imm s
  | .hchk p sd h sa sb imm => Sys2Proof.Machine.execHchk p sd h sa sb imm s
  | .br p off => Sys2Proof.Machine.execBr p off s
  | .jmp p sa link => Sys2Proof.Machine.execJmp p sa link s
  | .call p sl off => Sys2Proof.Machine.execCall p sl off s
  | .ret p sa => Sys2Proof.Machine.execRet p sa s
  | .loop p lc sa off => Sys2Proof.Machine.execLoop p lc sa off s
  | .loopi p lc count off => Sys2Proof.Machine.execLoopi p lc count off s
  | .lbrk p lc => Sys2Proof.Machine.execLbrk p lc s
  | .ipref p n off => Sys2Proof.Machine.execIpref p n off s
  | .trap p imm => Sys2Proof.Machine.execTrap p imm s
  | .tret p => Sys2Proof.Machine.execTret p s
  | .halt p => Sys2Proof.Machine.execHalt p s
  | .yield p => Sys2Proof.Machine.execYield p s
  | .ld p str sd h sa imm => Sys2Proof.Machine.execLd p str sd h sa imm s
  | .ldI8 p str sd h sa imm => Sys2Proof.Machine.execLdI8 p str sd h sa imm s
  | .ldI16 p str sd h sa imm => Sys2Proof.Machine.execLdI16 p str sd h sa imm s
  | .ldI32 p str sd h sa imm => Sys2Proof.Machine.execLdI32 p str sd h sa imm s
  | .ldZ8 p str sd h sa imm => Sys2Proof.Machine.execLdZ8 p str sd h sa imm s
  | .ldZ16 p str sd h sa imm => Sys2Proof.Machine.execLdZ16 p str sd h sa imm s
  | .ldZ32 p str sd h sa imm => Sys2Proof.Machine.execLdZ32 p str sd h sa imm s
  | .st p str sd h sa imm => Sys2Proof.Machine.execSt p str sd h sa imm s
  | .stI8 p str sd h sa imm => Sys2Proof.Machine.execStI8 p str sd h sa imm s
  | .stI16 p str sd h sa imm => Sys2Proof.Machine.execStI16 p str sd h sa imm s
  | .stI32 p str sd h sa imm => Sys2Proof.Machine.execStI32 p str sd h sa imm s
  | .aadd p w4 scope sd h sa sb imm => Sys2Proof.Machine.execAadd p w4 scope sd h sa sb imm s
  | .amin p w4 scope sd h sa sb imm => Sys2Proof.Machine.execAmin p w4 scope sd h sa sb imm s
  | .amax p w4 scope sd h sa sb imm => Sys2Proof.Machine.execAmax p w4 scope sd h sa sb imm s
  | .aand p w4 scope sd h sa sb imm => Sys2Proof.Machine.execAand p w4 scope sd h sa sb imm s
  | .aor p w4 scope sd h sa sb imm => Sys2Proof.Machine.execAor p w4 scope sd h sa sb imm s
  | .axor p w4 scope sd h sa sb imm => Sys2Proof.Machine.execAxor p w4 scope sd h sa sb imm s
  | .aswp p w4 scope sd h sa sb imm => Sys2Proof.Machine.execAswp p w4 scope sd h sa sb imm s
  | .acas p w4 scope sd h sa sb imm => Sys2Proof.Machine.execAcas p w4 scope sd h sa sb imm s
  | .fenceAcq p scope => Sys2Proof.Machine.execFenceAcq p scope s
  | .fenceRel p scope => Sys2Proof.Machine.execFenceRel p scope s
  | .fenceAr p scope => Sys2Proof.Machine.execFenceAr p scope s
  | .lsync p => Sys2Proof.Machine.execLsync p s
  | .wait p limits => Sys2Proof.Machine.execWait p limits s
  | .sleeptil p sa => Sys2Proof.Machine.execSleeptil p sa s
  | .barinit p sd h sa sb imm => Sys2Proof.Machine.execBarinit p sd h sa sb imm s
  | .bararr p sd h sa sb imm => Sys2Proof.Machine.execBararr p sd h sa sb imm s
  | .barwait p sd h sa sb imm => Sys2Proof.Machine.execBarwait p sd h sa sb imm s
  | .barkill p sd h sa imm => Sys2Proof.Machine.execBarkill p sd h sa imm s
  | .getc p sd creg => Sys2Proof.Machine.execGetc p sd creg s
  | .setc p creg sa => Sys2Proof.Machine.execSetc p creg sa s
  | .vstartWrite p sa => Sys2Proof.Machine.execVstartWrite p sa s
  | .avlStripWrite p strip sa => Sys2Proof.Machine.execAvlStripWrite p strip sa s
  | .hbaseWrite rw => Sys2Proof.Machine.execHbaseWrite rw s
  | .tlbinv rw => Sys2Proof.Machine.execTlbinv rw s
  | .lseedWrite rw => Sys2Proof.Machine.execLseedWrite rw s
  | .swapSlotWrite base rw => Sys2Proof.Machine.execSwapSlotWrite base rw s
  | .pfdone rw => Sys2Proof.Machine.execPfdone rw s
  | .lqctlWrite k rw => Sys2Proof.Machine.execLqctlWrite k rw s
  | .lqprodDoorbell k rw => Sys2Proof.Machine.execLqprodDoorbell k rw s
  | .svc p sd sa => Sys2Proof.Machine.execSvc p sd sa s
  | .cflush p scope h sa sb => Sys2Proof.Machine.execCflush p scope h sa sb s
  | .cinv p scope icache h sa sb => Sys2Proof.Machine.execCinv p scope icache h sa sb s
  | .enq p sa => Sys2Proof.Machine.execEnq p sa s
  | .deq p sd => Sys2Proof.Machine.execDeq p sd s
  | .launch p sd h sa k => Sys2Proof.Machine.execLaunch p sd h sa k s
  | .wgcfgWr p sd sa term n => Sys2Proof.Machine.execWgcfgWr p sd sa term n s
  | .wgcfgFree p sd sa term n => Sys2Proof.Machine.execWgcfgFree p sd sa term n s
  | .wgcfgRd p sd sa term n => Sys2Proof.Machine.execWgcfgRd p sd sa term n s
  | .wgfire p code => Sys2Proof.Machine.execWgfire p code s
  | .wgwait p sd term => Sys2Proof.Machine.execWgwait p sd term s
  | .vcfg p vd sb m => Sys2Proof.Machine.execVcfg p vd sb m s
  | .vsetvl p sb m => Sys2Proof.Machine.execVsetvl p sb m s
  | .vsetcap p vd sb m => Sys2Proof.Machine.execVsetcap p vd sb m s
  | .vgetcap p sb va m => Sys2Proof.Machine.execVgetcap p sb va m s
  | .vdisc p va m => Sys2Proof.Machine.execVdisc p va m s
  | .vadd p rm wf vd va src m => Sys2Proof.Machine.execVadd p rm wf vd va src m s
  | .vsub p rm wf vd va src m => Sys2Proof.Machine.execVsub p rm wf vd va src m s
  | .vmul p rm wf vd va src m => Sys2Proof.Machine.execVmul p rm wf vd va src m s
  | .vmac p rm sat vd va src m => Sys2Proof.Machine.execVmac p rm sat vd va src m s
  | .vfma p rm vd va src m => Sys2Proof.Machine.execVfma p rm vd va src m s
  | .vdiv p rm wf vd va src m => Sys2Proof.Machine.execVdiv p rm wf vd va src m s
  | .vrcp p rm vd va m => Sys2Proof.Machine.execVrcp p rm vd va m s
  | .vrsq p rm vd va m => Sys2Proof.Machine.execVrsq p rm vd va m s
  | .vexp p rm vd va m => Sys2Proof.Machine.execVexp p rm vd va m s
  | .vmin p rm wide vd va src m => Sys2Proof.Machine.execVmin p rm wide vd va src m s
  | .vmax p rm wide vd va src m => Sys2Proof.Machine.execVmax p rm wide vd va src m s
  | .vabs p rm sat vd va m => Sys2Proof.Machine.execVabs p rm sat vd va m s
  | .vneg p rm sat vd va m => Sys2Proof.Machine.execVneg p rm sat vd va m s
  | .vand p vd va src m => Sys2Proof.Machine.execVand p vd va src m s
  | .vor p vd va src m => Sys2Proof.Machine.execVor p vd va src m s
  | .vxor p vd va src m => Sys2Proof.Machine.execVxor p vd va src m s
  | .vnot p vd va m => Sys2Proof.Machine.execVnot p vd va m s
  | .vshl p vd va src m => Sys2Proof.Machine.execVshl p vd va src m s
  | .vshr p vd va src m => Sys2Proof.Machine.execVshr p vd va src m s
  | .vsra p vd va src m => Sys2Proof.Machine.execVsra p vd va src m s
  | .vcmp p rel mdst vd va src m => Sys2Proof.Machine.execVcmp p rel mdst vd va src m s
  | .vsel p vd va vb mc m => Sys2Proof.Machine.execVsel p vd va vb mc m s
  | .vmov p vd va m => Sys2Proof.Machine.execVmov p vd va m s
  | .vbcast p vd sb fmt m => Sys2Proof.Machine.execVbcast p vd sb fmt m s
  | .vcvt p rm vd va fmt m => Sys2Proof.Machine.execVcvt p rm vd va fmt m s
  | .vcvtMem p rm vd sb fmt m => Sys2Proof.Machine.execVcvtMem p rm vd sb fmt m s
  | .vshift p vd va sb m => Sys2Proof.Machine.execVshift p vd va sb m s
  | .vrand p vd sb fmt m => Sys2Proof.Machine.execVrand p vd sb fmt m s
  | .vld p vd h sb disp => Sys2Proof.Machine.execVld p vd h sb disp s
  | .vst p va h sb disp => Sys2Proof.Machine.execVst p va h sb disp s
  | .vldff p vd h sb disp => Sys2Proof.Machine.execVldff p vd h sb disp s
  | .vrsumO p rm nov vd va osb m => Sys2Proof.Machine.execVrsumO p rm nov vd va osb m s
  | .vrsumT p rm nov vd va osb m => Sys2Proof.Machine.execVrsumT p rm nov vd va osb m s
  | .vrmax p nov vd va osb m => Sys2Proof.Machine.execVrmax p nov vd va osb m s
  | .vrmin p nov vd va osb m => Sys2Proof.Machine.execVrmin p nov vd va osb m s
  | .vcount p nov vd osb m => Sys2Proof.Machine.execVcount p nov vd osb m s
  | .vrank p vd va m => Sys2Proof.Machine.execVrank p vd va m s
  | .vdefer p sb path m => Sys2Proof.Machine.execVdefer p sb path m s
  | .vdrain p vd ma sb path m => Sys2Proof.Machine.execVdrain p vd ma sb path m s
  | .mand p md ma mb m => Sys2Proof.Machine.execMand p md ma mb m s
  | .mor p md ma mb m => Sys2Proof.Machine.execMor p md ma mb m s
  | .mxor p md ma mb m => Sys2Proof.Machine.execMxor p md ma mb m s
  | .mnot p md ma m => Sys2Proof.Machine.execMnot p md ma m s
  | .mfirst p md ma m => Sys2Proof.Machine.execMfirst p md ma m s
  | .pass p vd va vb osb ctl word => Sys2Proof.Machine.execPass p vd va vb osb ctl word s
  | .pseq p vd va vb osb word => Sys2Proof.Machine.execPseq p vd va vb osb word s
  | .ptload p h sb => Sys2Proof.Machine.execPtload p h sb s
  | .search p vd va vb sb ctl word => Sys2Proof.Machine.execSearch p vd va vb sb ctl word s
  | .vmwrite p md sb => Sys2Proof.Machine.execVmwrite p md sb s
  | .cmode p sb => Sys2Proof.Machine.execCmode p sb s
  | .vscrub p => Sys2Proof.Machine.execVscrub p s
  | .vtopk p nanhi vd ve va sd sa m => Sys2Proof.Machine.execVtopk p nanhi vd ve va sd sa m s
  | .vbotk p nanhi vd ve va sd sa m => Sys2Proof.Machine.execVbotk p nanhi vd ve va sd sa m s
  | .vargmax p nanhi nov vd ve va sd m => Sys2Proof.Machine.execVargmax p nanhi nov vd ve va sd m s
  | .vargmin p nanhi nov vd ve va sd m => Sys2Proof.Machine.execVargmin p nanhi nov vd ve va sd m s
  | .vsort p nanhi vd ve va sd m => Sys2Proof.Machine.execVsort p nanhi vd ve va sd m s
  | .vperm p vd va vb m => Sys2Proof.Machine.execVperm p vd va vb m s
  | .vuniq p vd ve va sd m => Sys2Proof.Machine.execVuniq p vd ve va sd m s
  | .vsim p vd va vb m => Sys2Proof.Machine.execVsim p vd va vb m s
  | .vnear p vd ve va vb sd sa m => Sys2Proof.Machine.execVnear p vd ve va vb sd sa m s
  | .nmsearch p vd va sd sa m => Sys2Proof.Machine.execNmsearch p vd va sd sa m s
  | .mxatt p sa sb => Sys2Proof.Machine.execMxatt p sa sb s
  | .mxdet p => Sys2Proof.Machine.execMxdet p s
  | .mxzero p ad => Sys2Proof.Machine.execMxzero p ad s
  | .mxmac p rm sat trig ad va b sa mm1 nm1 km1 => Sys2Proof.Machine.execMxmac p rm sat trig ad va b sa mm1 nm1 km1 s
  | .mxld p trig ad sa h => Sys2Proof.Machine.execMxld p trig ad sa h s
  | .mxrd p trig ad sa sb h => Sys2Proof.Machine.execMxrd p trig ad sa sb h s
  | .mxscl p trig sa h => Sys2Proof.Machine.execMxscl p trig sa h s
  | .mxdrain p rm trig va ad vb sa mm1 nm1 tfmt ozp usep rowt dclr => Sys2Proof.Machine.execMxdrain p rm trig va ad vb sa mm1 nm1 tfmt ozp usep rowt dclr s
  | .fgath p trig vd vi h fset gfmt lsc rbase => Sys2Proof.Machine.execFgath p trig vd vi h fset gfmt lsc rbase s
  | .fscat p trig va vi h fset lsc rbase => Sys2Proof.Machine.execFscat p trig va vi h fset lsc rbase s
  | .fscata p rm trig va vi h fset lsc rbase => Sys2Proof.Machine.execFscata p rm trig va vi h fset lsc rbase s
  | .fstrm p trig sd sa sb h fset sfmt dir q stride => Sys2Proof.Machine.execFstrm p trig sd sa sb h fset sfmt dir q stride s
  | .fgsync p sd mask => Sys2Proof.Machine.execFgsync p sd mask s
  | .vpop p sd vd q => Sys2Proof.Machine.execVpop p sd vd q s
  | .vpush p sd va q => Sys2Proof.Machine.execVpush p sd va q s
  | .copy p trig sd sa sb h fset sh sor => Sys2Proof.Machine.execCopy p trig sd sa sb h fset sh sor s
  | .copy2d p trig sd sa sb h fset sh sor => Sys2Proof.Machine.execCopy2d p trig sd sa sb h fset sh sor s
  | .hsrd p trig sa vd h => Sys2Proof.Machine.execHsrd p trig sa vd h s
  | .hswr p sa sb h sh sor => Sys2Proof.Machine.execHswr p sa sb h sh sor s
  | .spst p sa va h => Sys2Proof.Machine.execSpst p sa va h s
  | .spld p sa vd h => Sys2Proof.Machine.execSpld p sa vd h s
  | .contract p trig sa h fset => Sys2Proof.Machine.execContract p trig sa h fset s
  | .kvseqNew p sd sa sb sc h tag brow bmaxl => Sys2Proof.Machine.execKvseqNew p sd sa sb sc h tag brow bmaxl s
  | .kvseqEnd p sd sa h => Sys2Proof.Machine.execKvseqEnd p sd sa h s
  | .kvseqSeal p sd sa h => Sys2Proof.Machine.execKvseqSeal p sd sa h s
  | .sptag p sa h tag => Sys2Proof.Machine.execSptag p sa h tag s
  | .kvapp p sd sa sc h sh sor => Sys2Proof.Machine.execKvapp p sd sa sc h sh sor s
  | .kvlook p sd sa sb h => Sys2Proof.Machine.execKvlook p sd sa sb h s
  | .kvlookLd p vd sd sa sb h => Sys2Proof.Machine.execKvlookLd p vd sd sa sb h s
  | .kvlookPf p sd sa sb h => Sys2Proof.Machine.execKvlookPf p sd sa sb h s
  | .kvfree p sd sa sb sc h => Sys2Proof.Machine.execKvfree p sd sa sb sc h s
  | .spretHole p sd sa h tag => Sys2Proof.Machine.execSpretHole p sd sa h tag s
  | .spretClose p sd sa h tag => Sys2Proof.Machine.execSpretClose p sd sa h tag s
  | .bmreord p sd sa sb sc h => Sys2Proof.Machine.execBmreord p sd sa sb sc h s
  | .pfxfind p sd sa sb h => Sys2Proof.Machine.execPfxfind p sd sa sb h s
  | .pfxfindDrop p sd sb h => Sys2Proof.Machine.execPfxfindDrop p sd sb h s
  | .pfxins p sd sa sb sc h => Sys2Proof.Machine.execPfxins p sd sa sb sc h s
  | .kvpin p sd sb h => Sys2Proof.Machine.execKvpin p sd sb h s
  | .kvunpin p sd sb h => Sys2Proof.Machine.execKvunpin p sd sb h s
  | .kvpull p trig sd sa sb h fset => Sys2Proof.Machine.execKvpull p trig sd sa sb h fset s
  | .kvevict p trig sd sb h fset => Sys2Proof.Machine.execKvevict p trig sd sb h fset s
  | .attn p trig sd sa h => Sys2Proof.Machine.execAttn p trig sd sa h s
  | .illegalOpcode w x => Sys2Proof.Machine.execIllegalOpcode w x s
  | .scalarLoadReturn t => Sys2Proof.Machine.execScalarLoadReturn t s
  | .storePerform t n => Sys2Proof.Machine.execStorePerform t n s
  | .sleeptilWake t => Sys2Proof.Machine.execSleeptilWake t s
  | .waggleTermFire hv term => Sys2Proof.Machine.execWaggleTermFire hv term s
  | .vectorAccessComplete t store => Sys2Proof.Machine.execVectorAccessComplete t store s
  | .mxQueueOp t => Sys2Proof.Machine.execMxQueueOp t s
  | .mxKStep t => Sys2Proof.Machine.execMxKStep t s
  | .foragerAccess j => Sys2Proof.Machine.execForagerAccess j s
  | .jobComplete j => Sys2Proof.Machine.execJobComplete j s
  | .engineRetry j => Sys2Proof.Machine.execEngineRetry j s
  | .kvappCommit j => Sys2Proof.Machine.execKvappCommit j s
  | .kvEvictComplete j => Sys2Proof.Machine.execKvEvictComplete j s
  | .kvPullComplete j => Sys2Proof.Machine.execKvPullComplete j s
  | .cardFetch vf k => Sys2Proof.Machine.execCardFetch vf k s
  | .draw vf l => Sys2Proof.Machine.execDraw vf l s
  | .combClear t => Sys2Proof.Machine.execCombClear t s
  | .launchEnd vf l => Sys2Proof.Machine.execLaunchEnd vf l s
  | .taskSwap t => Sys2Proof.Machine.execTaskSwap t s
  | .taskRestore t hv vlc => Sys2Proof.Machine.execTaskRestore t hv vlc s
  | .partitionSaved vf => Sys2Proof.Machine.execPartitionSaved vf s
  | .partitionRestored vf => Sys2Proof.Machine.execPartitionRestored vf s
  | .noticeWrite vf => Sys2Proof.Machine.execNoticeWrite vf s
  | .sequencerPass t => Sys2Proof.Machine.execSequencerPass t s
  | .countTreeSum t => Sys2Proof.Machine.execCountTreeSum t s
  | .rowExchange t => Sys2Proof.Machine.execRowExchange t s
  | .modeSwitch t linear => Sys2Proof.Machine.execModeSwitch t linear s
  | .leaseExpire t => Sys2Proof.Machine.execLeaseExpire t s
  | .instructionPageFault t addr => Sys2Proof.Machine.execInstructionPageFault t addr s
  | .stageEpoch => Sys2Proof.Machine.execStageEpoch s
  | .afrUpdate => Sys2Proof.Machine.execAfrUpdate s
  | .clockStepChange => Sys2Proof.Machine.execClockStepChange s
  | .refreshStart => Sys2Proof.Machine.execRefreshStart s
  | .refreshEnd => Sys2Proof.Machine.execRefreshEnd s
  | .psctlSave vf => Sys2Proof.Machine.execPsctlSave vf s
  | .psctlRestore vf => Sys2Proof.Machine.execPsctlRestore vf s
  | .cfglen len image => Sys2Proof.Machine.execCfglen len image s
  | .pcreate args => Sys2Proof.Machine.execPcreate args s
  | .pdestroy args => Sys2Proof.Machine.execPdestroy args s
  | .psave args => Sys2Proof.Machine.execPsave args s
  | .prestore args => Sys2Proof.Machine.execPrestore args s
  | .qsup args => Sys2Proof.Machine.execQsup args s
  | .peerwin args => Sys2Proof.Machine.execPeerwin args s
  | .attest args => Sys2Proof.Machine.execAttest args s
  | .checkpoint args => Sys2Proof.Machine.execCheckpoint args s
  | .cfgnext args => Sys2Proof.Machine.execCfgnext args s
  | .lkill args => Sys2Proof.Machine.execLkill args s
  | .unknownCommand c args => Sys2Proof.Machine.execUnknownCommand c args s
  | .mailboxComplete => Sys2Proof.Machine.execMailboxComplete s
  | .version port hi lo => Sys2Proof.Machine.execVersion port hi lo s
  | .barevt port gen addr event g tag => Sys2Proof.Machine.execBarevt port gen addr event g tag s
  | .barrsp port tag status => Sys2Proof.Machine.execBarrsp port tag status s
  | .barrspTimeout t => Sys2Proof.Machine.execBarrspTimeout t s
  | .lstart port gen rank => Sys2Proof.Machine.execLstart port gen rank s
  | .linkUp port => Sys2Proof.Machine.execLinkUp port s
  | .completionTimeout what => Sys2Proof.Machine.execCompletionTimeout what s
  | .linkDown port => Sys2Proof.Machine.execLinkDown port s
  | .ideCheckFail port => Sys2Proof.Machine.execIdeCheckFail port s
  | .inboundRead at_ addr len => Sys2Proof.Machine.execInboundRead at_ addr len s
  | .inboundWrite at_ addr bytes => Sys2Proof.Machine.execInboundWrite at_ addr bytes s
  | .inboundAtomic port addr op w4 a b => Sys2Proof.Machine.execInboundAtomic port addr op w4 a b s
  | .readySet bit => Sys2Proof.Machine.execReadySet bit s
  | .functionFail bit => Sys2Proof.Machine.execFunctionFail bit s
  | .thermalHold on => Sys2Proof.Machine.execThermalHold on s
  | .thermalReset => Sys2Proof.Machine.execThermalReset s
  | .deviceReset => Sys2Proof.Machine.execDeviceReset s
  | .ideRekey port => Sys2Proof.Machine.execIdeRekey port s
  | .unknownVendorMessage port code => Sys2Proof.Machine.execUnknownVendorMessage port code s
  | .cacheWriteBack hv line => Sys2Proof.Machine.execCacheWriteBack hv line s
  | .hiveCachePrefetch t va => Sys2Proof.Machine.execHiveCachePrefetch t va s
  | .barRegisterWrite vf creg value => Sys2Proof.Machine.execBarRegisterWrite vf creg value s

end Sys2Proof.Machine
end

