-- ==== Sys2Proof/Machine/Issue.lean ====
section
/-! DEFINITION. A task's issue: what comes before its next instruction, and the instruction at its pc (R24, R207, R191, R433, R434). -/

namespace Sys2Proof.Machine

/-- The instruction at a task's pc runs, or what stands there is delivered (R207, R211, R245). -/
def runWordAt (t : Task) (s : State) : Host.Outcome State Fault Refusal :=
  match s.issue t with
  | (.run i, s) => exec i s
  | (.reject r, s) => .next (match s.curTask with | some t => s.refuseWord t r | none => s)
  | (.bad a, s) => .next (match s.curTask with | some t => s.takeTrap t cHBMUE (w64 a) t.pc | none => s)
  | (.body w, s) => .next (match s.curTask with | some t => s.takeTrap t cLOOPBODY w t.pc | none => s)
  | (.fault a, s) => execInstructionPageFault t.id a s

/-- INTEG.COMBPAR found by a save or by side ports is raised: the lowest value, while the other events only go to the error log (R198, R199,
R434). A sum on its way reaches its register first: the boundary stands only then (R186, R312). -/
def State.raiseCombpar (s : State) (t : Task) : State :=
  let t := t.takeSum
  let v := ((t.combpar.map (·.toNat)).min?).getD 0
  (s.logDues ((t.combpar.erase (w64 v)).map fun x => (cCOMBPAR, x))).takeTrap { t with combpar := [] } cCOMBPAR (w64 v) t.pc

/-- A task issues: INTEG.COMBPAR comes first (R434), then its item is read (R433). A restored task comes to its first instruction here,
after what that brings (R191). -/
def runIssue (t : Task) (s : State) : Host.Outcome State Fault Refusal :=
  match t.combpar, t.itemAt with
  | _ :: _, _ => .next (s.raiseCombpar t)
  | [], some a =>
    match s.part? t.vf with
    | some p => .next (s.readItem t p a)
    | none => .next s
  | [], none =>
    if t.restored.isNone then runWordAt t s
    else
      let s := s.firstAgain t
      match s.task? t.id with
      | some u => if u.issuable then runWordAt u s else .next s
      | none => .next s

end Sys2Proof.Machine
end

