-- ==== Sys2Proof/Machine/Step.lean ====
section
/-! DEFINITION. One step of the machine, and the placing of an instruction where the next step fetches. -/

namespace Sys2Proof.Machine

/-- The outcome of a step's own work, with the end of its cycle. -/
def finishStep : Host.Outcome State Fault Refusal → Host.Outcome State Fault Refusal
  | .next s => .next s.tick
  | .fault f => .fault f
  | .refused r => .refused r

/-- One step: one instruction of a task, one step of another agent, or an idle cycle. -/
def step (s : State) : Host.Outcome State Fault Refusal :=
  match s.choose with
  | (.event i, s) => finishStep (exec i s)
  | (.issue t, s) => finishStep (runIssue t s)
  | (.idle, s) => finishStep (.next s)

/-- The state with an instruction where the next step fetches; bits above `nbits` are zero already (DESIGN CHOICE, log 30). -/
def State.withFetchWord (s : State) (_nbits w : Nat) : State := s.placeWord w

end Sys2Proof.Machine
end

