-- ==== Sys2Proof/Safety.lean ====
section
/-! DEFINITION. What the claims call a safe run: memory stays in its canonical form, and no step stops. -/

namespace Sys2Proof.Machine

/-- Both memories are in canonical form. -/
def State.Inv (s : State) : Prop := Memory.wf s.mem = true ∧ Memory.wf s.honey = true

/-- The machine goes on for `k` steps. -/
def State.Runs (k : Nat) (s : State) : Prop := ∃ t, Sys2Proof.core.run k s = .next t

end Sys2Proof.Machine
end

