-- ==== Sys2Proof/Certificates/Slice0/Obligations.lean ====
section
/-! DEFINITION. The statements for the provers, with the tables of the spec that they are stated by. -/

namespace Sys2Proof.Machine

/-! ## Tables of the spec -/

/-- What each scalar integer instruction writes, and into which register: the tables of R235 and R238, with R236 and R237 for
the operations that they name. -/
def scalarResult : Instr → Option (Pred × Nat × (Task → Word))
  | .add p sd sa sb => some (p, sd, fun t => t.rs sa + t.rs sb)
  | .sub p sd sa sb => some (p, sd, fun t => t.rs sa - t.rs sb)
  | .mul p sd sa sb => some (p, sd, fun t => t.rs sa * t.rs sb)
  | .mulh p sd sa sb => some (p, sd, fun t =>
      (((t.rs sa).signExtend 128 * (t.rs sb).signExtend 128) >>> 64).setWidth 64)
  | .mulhu p sd sa sb => some (p, sd, fun t =>
      (((t.rs sa).setWidth 128 * (t.rs sb).setWidth 128) >>> 64).setWidth 64)
  | .div p sd sa sb => some (p, sd, fun t => if t.rs sb = 0 then BitVec.allOnes 64 else (t.rs sa).sdiv (t.rs sb))
  | .divu p sd sa sb => some (p, sd, fun t => if t.rs sb = 0 then BitVec.allOnes 64 else t.rs sa / t.rs sb)
  | .rem p sd sa sb => some (p, sd, fun t => if t.rs sb = 0 then t.rs sa else (t.rs sa).srem (t.rs sb))
  | .remu p sd sa sb => some (p, sd, fun t => if t.rs sb = 0 then t.rs sa else t.rs sa % t.rs sb)
  | .andS p sd sa sb => some (p, sd, fun t => t.rs sa &&& t.rs sb)
  | .orS p sd sa sb => some (p, sd, fun t => t.rs sa ||| t.rs sb)
  | .xorS p sd sa sb => some (p, sd, fun t => t.rs sa ^^^ t.rs sb)
  | .shl p sd sa sb => some (p, sd, fun t => t.rs sa <<< (t.rs sb).toNat)
  | .shr p sd sa sb => some (p, sd, fun t => t.rs sa >>> (t.rs sb).toNat)
  | .sra p sd sa sb => some (p, sd, fun t => (t.rs sa).sshiftRight (min (t.rs sb).toNat 63))
  | .rol p sd sa sb => some (p, sd, fun t => (t.rs sa).rotateLeft ((t.rs sb).toNat % 64))
  | .clz p sd sa => some (p, sd, fun t => w64 ((List.range 64).takeWhile fun k => !(t.rs sa).getMsbD k).length)
  | .ctz p sd sa => some (p, sd, fun t => w64 ((List.range 64).takeWhile fun k => !(t.rs sa).getLsbD k).length)
  | .popc p sd sa => some (p, sd, fun t => w64 ((List.range 64).filter fun k => (t.rs sa).getLsbD k).length)
  | .minS p sd sa sb => some (p, sd, fun t => if (t.rs sb).slt (t.rs sa) then t.rs sb else t.rs sa)
  | .maxS p sd sa sb => some (p, sd, fun t => if (t.rs sa).slt (t.rs sb) then t.rs sb else t.rs sa)
  | .minu p sd sa sb => some (p, sd, fun t => if (t.rs sb).ult (t.rs sa) then t.rs sb else t.rs sa)
  | .maxu p sd sa sb => some (p, sd, fun t => if (t.rs sa).ult (t.rs sb) then t.rs sb else t.rs sa)
  | .sel p sd sa sb sc => some (p, sd, fun t => if t.rs sc = 0 then t.rs sb else t.rs sa)
  | .exts p sd sa sb => some (p, sd, fun t =>
      let pos := ((t.rs sb).extractLsb' 0 6).toNat
      let n := min (((t.rs sb).extractLsb' 8 6).toNat + 1) (64 - pos)
      ((t.rs sa).extractLsb' pos n).signExtend 64)
  | .extz p sd sa sb => some (p, sd, fun t =>
      let pos := ((t.rs sb).extractLsb' 0 6).toNat
      let n := min (((t.rs sb).extractLsb' 8 6).toNat + 1) (64 - pos)
      ((t.rs sa).extractLsb' pos n).setWidth 64)
  | .ins p sd sa sb sc => some (p, sd, fun t =>
      let pos := ((t.rs sb).extractLsb' 0 6).toNat
      let n := min (((t.rs sb).extractLsb' 8 6).toNat + 1) (64 - pos)
      (((t.rs sa).extractLsb' 0 n).setWidth 64 <<< pos) |||
        (t.rs sc &&& ~~~((BitVec.allOnes n).setWidth 64 <<< pos)))
  | .addi p sd sa imm => some (p, sd, fun t => t.rs sa + immVal imm)
  | .muli p sd sa imm => some (p, sd, fun t => t.rs sa * immVal imm)
  | .andi p sd sa imm => some (p, sd, fun t => t.rs sa &&& immVal imm)
  | .ori p sd sa imm => some (p, sd, fun t => t.rs sa ||| immVal imm)
  | .xori p sd sa imm => some (p, sd, fun t => t.rs sa ^^^ immVal imm)
  | .shli p sd sa imm => some (p, sd, fun t => t.rs sa <<< (immValU imm).toNat)
  | .shri p sd sa imm => some (p, sd, fun t => t.rs sa >>> (immValU imm).toNat)
  | .srai p sd sa imm => some (p, sd, fun t => (t.rs sa).sshiftRight (min (immValU imm).toNat 63))
  | .movi p sd imm => some (p, sd, fun _ => immVal imm)
  | _ => none

/-- What each compare and predicate operation writes, and into which predicate: the tables of R239 and R240. -/
def predicateResult : Instr → Option (Pred × Nat × (Task → Bool))
  | .cmpeq p qd sa sb => some (p, qd, fun t => decide (t.rs sa = t.rs sb))
  | .cmpne p qd sa sb => some (p, qd, fun t => decide (t.rs sa ≠ t.rs sb))
  | .cmplt p qd sa sb => some (p, qd, fun t => (t.rs sa).slt (t.rs sb))
  | .cmpltu p qd sa sb => some (p, qd, fun t => (t.rs sa).ult (t.rs sb))
  | .cmple p qd sa sb => some (p, qd, fun t => (t.rs sa).sle (t.rs sb))
  | .cmpleu p qd sa sb => some (p, qd, fun t => (t.rs sa).ule (t.rs sb))
  | .cmpeqi p qd sa imm => some (p, qd, fun t => decide (t.rs sa = immVal imm))
  | .cmplti p qd sa imm => some (p, qd, fun t => (t.rs sa).slt (immVal imm))
  | .qand p qd qa qb => some (p, qd, fun t => t.rq qa && t.rq qb)
  | .qor p qd qa qb => some (p, qd, fun t => t.rq qa || t.rq qb)
  | .qxor p qd qa qb => some (p, qd, fun t => xor (t.rq qa) (t.rq qb))
  | .qnot p qd qa => some (p, qd, fun t => !t.rq qa)
  | _ => none

end Sys2Proof.Machine

open Sys2Proof Sys2Proof.Machine

/-- Every scalar integer instruction with an active lane completes: it writes the result that R235 to R238 give into s(SD), and continues at
the next word. Every compare and predicate operation with an active lane completes: q(QD) takes the value of R239 and R240. -/
def Obligations.ScalarAndPredicateResults : Prop :=
  (∀ i p sd v, scalarResult i = some (p, sd, v) → ∀ s t, s.curTask = some t → activeQ p t = true →
    exec i s = .next (s.setTask ((t.ws sd (v t)).retire i))) ∧
  (∀ i p qd v, predicateResult i = some (p, qd, v) → ∀ s t, s.curTask = some t → activeQ p t = true →
    exec i s = .next (s.setTask ((t.wq qd (v t)).retire i)))

/-! ## How a completed instruction leaves the machine -/

namespace Sys2Proof.Machine

/-- `t` is the task whose instruction runs, and the one lane of a q-class word is active in it (R208). -/
def State.runsQ (s : State) (p : Pred) (t : Task) : Prop := s.curTask = some t ∧ activeQ p t = true

/-- The offset of a memory operand: s(SA) + imm, modulo 2⁶⁴ (R212). -/
def memOffset {n : Nat} (t : Task) (sa : Nat) (imm : Imm n) : Nat := (t.rs sa + immVal imm).toNat

end Sys2Proof.Machine

/-- BR, JMP, CALL and RET transfer control where the target is aligned and, outside a handler, lies in the body of the innermost loop (R242,
R246): the link register takes the address of the next word. A transfer out of the innermost loop's body raises INSN.LOOPBODY, and one
inside it to an address that is no multiple of 8 raises MEM.ALIGN with the target in tval; the body check comes first (R242, R246). -/
def Obligations.TransfersComplete : Prop :=
  (∀ p (off : BitVec 24) sa link s t, s.runsQ p t →
    let rel : BitVec 56 := t.pc + (off.signExtend 56 <<< 3)
    let reg : BitVec 56 := (t.rs sa).setWidth 56
    let next : Word := (t.pc + 8).setWidth 64
    (rel.toNat % 8 = 0 → (t.tin = true ∨ t.leavesBody rel = false) →
      exec (.br p off) s = .next (s.setTask { t.awake with pc := rel }) ∧
      exec (.call p link off) s = .next (s.setTask { t.awake.ws link next with pc := rel })) ∧
    (reg.toNat % 8 = 0 → (t.tin = true ∨ t.leavesBody reg = false) →
      exec (.jmp p sa link) s = .next (s.setTask { t.awake.ws link next with pc := reg }) ∧
      exec (.ret p sa) s = .next (s.setTask { t.awake with pc := reg }))) ∧
  (∀ p (off : BitVec 24) sa link s t, s.runsQ p t →
    ∀ i target, (i, target) ∈ ([(.br p off, t.pc + (off.signExtend 56 <<< 3)), (.call p link off, t.pc + (off.signExtend 56 <<< 3)),
        (.jmp p sa link, (t.rs sa).setWidth 56), (.ret p sa, (t.rs sa).setWidth 56)] : List (Instr × BitVec 56)) →
      (t.tin = false → t.leavesBody target = true → exec i s = .next (s.takeTrap t cLOOPBODY (iword i) t.pc)) ∧
      ((t.tin = true ∨ t.leavesBody target = false) → target.toNat % 8 ≠ 0 →
        exec i s = .next (s.takeTrap t cALIGN (target.setWidth 64) t.pc)))

/-- LOOP, LOOPI and LBRK complete (R244, R247). LOOP and LOOPI raise INSN.LOOPBODY where the end is not 2 to 257 words on, then INSN.LOOPDEPTH
where three loops are open or one names the counter, then INSN.LOOPBODY where the end lies past that of the innermost loop. The end of an
iteration (R245): in sequence to the end of the innermost record, a counter above zero falls and the body starts again; a counter at zero
pops the record, and the enclosing record whose end it is reaches its own end; the strip advances where SEN is 1 and SLC names the record.
Elsewhere, in a handler and outside every loop, the pc is the next word and nothing else changes. -/
def Obligations.HardwareLoopsComplete : Prop :=
  (∀ p lc sa (n : BitVec 16) (off : BitVec 24) s t, s.runsQ p t →
    let stop : BitVec 56 := t.pc + (off.signExtend 56 <<< 3)
    (2 ≤ off.toInt → off.toInt ≤ 257 → t.loops.length < 3 → (∀ r ∈ t.loops, r.lc ≠ lc) →
      (∀ r, t.loops.head? = some r → stop.toNat ≤ r.stop.toNat) →
      ∀ i count, (i, count) ∈ ([(.loop p lc sa off, t.rs sa), (.loopi p lc n off, n.setWidth 64)] : List (Instr × Word)) →
        (count = 0 → exec i s = .next (s.setTask ((t.awake.wlc lc 0).seqTo stop))) ∧
        (count ≠ 0 → exec i s = .next (s.setTask { t.awake.wlc lc (count - 1) with
          loops := ⟨lc, t.pc + 8, stop⟩ :: t.loops, pc := t.pc + 8, lbuf := if t.loops.isEmpty then [] else t.lbuf,
          lbad := if t.loops.isEmpty then [] else t.lbad }))) ∧
    (∀ i ∈ ([.loop p lc sa off, .loopi p lc n off] : List Instr),
      (off.toInt < 2 ∨ 257 < off.toInt → exec i s = .next (s.takeTrap t cLOOPBODY (iword i) t.pc)) ∧
      (2 ≤ off.toInt → off.toInt ≤ 257 → (3 ≤ t.loops.length ∨ ∃ r ∈ t.loops, r.lc = lc) →
        exec i s = .next (s.takeTrap t cLOOPDEPTH (iword i) t.pc)) ∧
      (2 ≤ off.toInt → off.toInt ≤ 257 → t.loops.length < 3 → (∀ r ∈ t.loops, r.lc ≠ lc) →
        (∃ r, t.loops.head? = some r ∧ r.stop.toNat < stop.toNat) → exec i s = .next (s.takeTrap t cLOOPBODY (iword i) t.pc))) ∧
    (∀ inner r outer, t.loops = inner ++ r :: outer → (∀ x ∈ inner, x.lc ≠ lc) → r.lc = lc →
      exec (.lbrk p lc) s = .next
        (s.setTask ({ t.awake with
          loops := outer, lbuf := if outer.isEmpty then [] else t.lbuf, lbad := if outer.isEmpty then [] else t.lbad }.seqTo r.stop)))) ∧
  ((∀ (t : Task) (npc : BitVec 56), t.tin = true ∨ t.loops = [] → t.seqTo npc = { t with pc := npc }) ∧
  ∀ (t : Task) r rs (npc : BitVec 56), t.tin = false → t.loops = r :: rs →
    let t₁ := if t.sen = true ∧ t.slc.toNat = r.lc then { t with strip := t.strip + 1, vstart := 0, resume := none } else t
    (npc ≠ r.stop → t.seqTo npc = { t with pc := npc }) ∧
    (npc = r.stop → t.rlc r.lc ≠ 0 → t.seqTo npc = { t₁.wlc r.lc (t.rlc r.lc - 1) with pc := r.start }) ∧
    (npc = r.stop → t.rlc r.lc = 0 → rs = [] → t.seqTo npc = { t₁ with pc := npc, loops := [], lbuf := [], lbad := [] }) ∧
    (npc = r.stop → t.rlc r.lc = 0 → rs ≠ [] → t.seqTo npc = { t₁ with loops := rs }.seqTo npc))

/-- TRAP takes INSN.SWTRAP with its immediate in tval, and returns after it; TRET outside a handler raises INSN.ILLFN; inside one it clears
tmask.IN, continues at tepc, and pops the loops whose body does not hold tepc, with those inside them (R203, R246, R250). Taking a cause
with a handler outside one (R202): tepc, tcause and tval are saved, tmask.IN is set, and the pc is at tvec. A cause without a handler, or
inside one, ends the task (R204): its jobs run to completion first; a quiet task releases its matrix rows at once, with a notice that says
why it ends, and one for each MEM.FOOT that no WAIT has raised (R171). It ends when these are written (O39). That the latter is a notice
of its own is the model's (log 100). -/
def Obligations.TrapsAndReturnComplete : Prop :=
  (∀ p (imm : Imm 16) s t, s.runsQ p t →
    exec (.trap p imm) s = .next (s.takeTrap t cSWTRAP (immValU imm) (t.pc + BitVec.ofNat 56 (ilen (.trap p imm)))) ∧
    (t.tin = false → exec (.tret p) s = .next (s.takeTrap t cILLFN (iword (.tret p)) t.pc)) ∧
    (t.tin = true → t.tepc.toNat % 8 = 0 → exec (.tret p) s = .next (s.setTask
      { t.awake with tin := false, pc := t.tepc, loops := keepLoops t.loops t.tepc,
                     lbuf := if (keepLoops t.loops t.tepc).isEmpty then [] else t.lbuf,
                     lbad := if (keepLoops t.loops t.tepc).isEmpty then [] else t.lbad }))) ∧
  (∀ (s : State) (t : Task) cause tval ret, s.curTask = some t → t.tin = false → t.tvec ≠ 0 → cause < 0x380 →
    ∃ u, (s.takeTrap t cause tval ret).curTask = some u ∧ u.tepc = ret ∧ u.tcauseCode.toNat = cause ∧
      u.tcauseVs = t.resume.isSome ∧ u.tval = tval ∧ u.tin = true ∧ u.pc = (t.tvec.setWidth 56 <<< 3) ∧
      u.s = t.s ∧ u.q = t.q ∧ u.cols = t.cols ∧ u.regs = t.regs ∧ u.fflags = t.fflags ∧ u.loops = t.loops ∧ u.lc = t.lc ∧
      u.resume = t.resume ∧ u.vstart = t.vstart ∧ u.sup = t.sup ∧
      (s.takeTrap t cause tval ret).mem = s.mem ∧ (s.takeTrap t cause tval ret).honey = s.honey ∧
      (∀ v ∈ s.tasks, v.id ≠ t.id → v ∈ (s.takeTrap t cause tval ret).tasks)) ∧
  (∀ (s : State) (t : Task) cause tval ret q, s.curTask = some t → (t.tin = true ∨ t.tvec = 0) → cause < 0x380 →
    s.part? t.vf = some q →
    let s' := s.takeTrap t cause tval ret
    (t.quiet = false → s'.curTask = some { t with wait := some (.ending cause t.tin false tval), stop := none } ∧
      s'.part? t.vf = some q) ∧
    (t.quiet = true → s'.curTask = some { t with
        wait := some .leaving, stop := none, mx := { t.mx with res := false, rows := [], prows := [], tiles := [], ptiles := [] } } ∧
      ∃ q' n l, s'.part? t.vf = some q' ∧ q'.notices = q.notices ++ n :: l ∧ n.cause = cause ∧ n.ntval = tval ∧
        l.map (fun x => (x.cause, x.ntval)) = t.dues.filter (fun d => d.1 == cFOOT) ∧
        ∀ x ∈ n :: l, x.task = some t.id ∧ x.unhandled = true ∧ x.double = t.tin ∧ x.frame = 0xFFFFFFFF ∧ x.ntask = t.taskid))

/-- LEA and HCHK complete (R241): LEA where handle `h` has a valid entry; HCHK always, with 0 for an invalid entry. IPREF and YIELD complete
(R249, R250). IPREF fills lines of the instruction caches: every other field of the machine is as before, but for the draw that picks a
victim (log 5) and, where a byte is uncorrectable, the error log with its message to the host (R200). YIELD lets the tasks of the hive
that may issue go first. -/
def Obligations.AddressPrefetchAndYieldComplete : Prop :=
  (∀ p sd h sa sb (imm : Imm 19) s t q, s.runsQ p t → s.part? t.vf = some q →
    (∀ hd s₁, s.handle? (t.ctx q) q h = (some hd, s₁) → ∀ u, s₁.curTask = some u →
      exec (.lea p sd h sa imm) s = .next
        ((s₁.setTask (u.ws sd (w64 ((hd.base + memOffset t sa imm) % 2 ^ 56)))).andRetire (.lea p sd h sa imm) t.id)) ∧
    (∀ e s₁, s.handle? (t.ctx q) q h = (e, s₁) → ∀ u, s₁.curTask = some u →
      exec (.hchk p sd h sa sb imm) s = .next
        ((s₁.setTask (u.ws sd (match e with
          | none => 0
          | some hd => w64 (1 + (if memOffset t sa imm + (t.rs sb).toNat ≤ hd.bound then 2 else 0) + (if hd.r then 4 else 0) +
              (if hd.w then 8 else 0) + (if hd.x then 16 else 0) + (if hd.a then 32 else 0) + (if hd.bar then 64 else 0) +
              256 * hd.space.code)))).andRetire (.hchk p sd h sa sb imm) t.id)) ∧
    (∀ s₁, s.handle? (t.ctx q) q h = (none, s₁) →
      exec (.lea p sd h sa imm) s = .next (s.takeTrap t cHINV (w64 h) t.pc))) ∧
  ((∀ (s : State) c va n, ∃ ic k log ms, s.prefetchLines c va n =
    { s with icLines := ic, fresh := k, keeper := { s.keeper with errlog := s.keeper.errlog ++ log }, msgs := s.msgs ++ ms } ∧
      (s.badMem = [] → log = [] ∧ ms = [])) ∧
  ∀ p n (off : BitVec 24) s t q, s.runsQ p t → s.part? t.vf = some q →
    exec (.ipref p n off) s = .next
      ((s.prefetchLines (t.ctx q) ((t.pc + (off.signExtend 56 <<< 3)).toNat / 128 * 128) n).andRetire (.ipref p n off) t.id) ∧
    exec (.yield p) s = .next
      ((s.setTask { t with yield := (s.tasks.filter fun u => u.hive == t.hive && u.id != t.id && u.issuable).map (·.id) }).andRetire
        (.yield p) t.id))

/-! ## Loads, stores and atomics (R252 to R254) -/

namespace Sys2Proof.Machine

/-- The forms of LD: whether it is strong and where, SD, the handle, SA, the offset, its bytes, and whether it extends the
sign (R252). -/
def loadForm : Instr → Option (Pred × Option Scope × Nat × Nat × Nat × Imm 19 × Nat × Bool)
  | .ld p str sd h sa imm => some (p, str, sd, h, sa, imm, 8, false)
  | .ldI8 p str sd h sa imm => some (p, str, sd, h, sa, imm, 1, true)
  | .ldI16 p str sd h sa imm => some (p, str, sd, h, sa, imm, 2, true)
  | .ldI32 p str sd h sa imm => some (p, str, sd, h, sa, imm, 4, true)
  | .ldZ8 p str sd h sa imm => some (p, str, sd, h, sa, imm, 1, false)
  | .ldZ16 p str sd h sa imm => some (p, str, sd, h, sa, imm, 2, false)
  | .ldZ32 p str sd h sa imm => some (p, str, sd, h, sa, imm, 4, false)
  | _ => none

/-- The forms of ST (R252). -/
def storeForm : Instr → Option (Pred × Option Scope × Nat × Nat × Nat × Imm 19 × Nat)
  | .st p str sd h sa imm => some (p, str, sd, h, sa, imm, 8)
  | .stI8 p str sd h sa imm => some (p, str, sd, h, sa, imm, 1)
  | .stI16 p str sd h sa imm => some (p, str, sd, h, sa, imm, 2)
  | .stI32 p str sd h sa imm => some (p, str, sd, h, sa, imm, 4)
  | _ => none

/-- The forms of the atomics: size, scope, SD, handle, SA, SB, offset, whether PCIe carries it, and the new value from the old
value and b, both of `8 * n` bits, none where nothing is stored; the last argument is ACAS's compare value (R254). -/
def atomicForm : Instr → Option (Pred × Nat × Scope × Nat × Nat × Nat × Nat × Imm 19 × Bool × (Nat → Nat → Nat → Option Nat))
  | .aadd p w4 sc sd h sa sb imm =>
    let n := if w4 then 4 else 8
    some (p, n, sc, sd, h, sa, sb, imm, true, fun old b _ => some ((old + b) % 2 ^ (8 * n)))
  | .amin p w4 sc sd h sa sb imm =>
    let n := if w4 then 4 else 8
    some (p, n, sc, sd, h, sa, sb, imm, false, fun old b _ =>
      some (if (BitVec.ofNat (8 * n) b).toInt < (BitVec.ofNat (8 * n) old).toInt then b else old))
  | .amax p w4 sc sd h sa sb imm =>
    let n := if w4 then 4 else 8
    some (p, n, sc, sd, h, sa, sb, imm, false, fun old b _ =>
      some (if (BitVec.ofNat (8 * n) old).toInt < (BitVec.ofNat (8 * n) b).toInt then b else old))
  | .aand p w4 sc sd h sa sb imm => some (p, if w4 then 4 else 8, sc, sd, h, sa, sb, imm, false, fun old b _ => some (old &&& b))
  | .aor p w4 sc sd h sa sb imm => some (p, if w4 then 4 else 8, sc, sd, h, sa, sb, imm, false, fun old b _ => some (old ||| b))
  | .axor p w4 sc sd h sa sb imm => some (p, if w4 then 4 else 8, sc, sd, h, sa, sb, imm, false, fun old b _ => some (old ^^^ b))
  | .aswp p w4 sc sd h sa sb imm => some (p, if w4 then 4 else 8, sc, sd, h, sa, sb, imm, true, fun _ b _ => some b)
  | .acas p w4 sc sd h sa sb imm =>
    some (p, if w4 then 4 else 8, sc, sd, h, sa, sb, imm, true, fun old b cmp => if old = cmp then some b else none)
  | _ => none

/-- The space of a handle is reached over a port (R139). -/
def Handle.remote (h : Handle) : Bool := h.space = .host || h.space = .pool

/-- The value of the low `8 * n` bits as a load writes it: sign- or zero-extended (R252). -/
def extended (signed : Bool) (n v : Nat) : Word :=
  if signed then (BitVec.ofNat (8 * n) v).signExtend 64 else w64 v

end Sys2Proof.Machine

/-- Every LD completes where its accesses are allowed and no byte fails (R134, R252, R253): s(SD) takes the bytes, with the task's own queued
stores over them, extended. `s₁` is the machine with the handle's entry, `s₂` after the checks of R134 (and, in COMBLIN, the side port),
`s₃` with the task's stores performed if the load is strong, and `s₄` after the read. A load from POOL or HOST, or from a honey-store bank
that refreshes, waits for its data (R31, R139, R253): the request is held, and SCALAR_LOAD_RETURN completes it with the bytes then read;
nothing happens while the bank still refreshes. An atomic over a port is one request, which its completer makes; all ones come from a port
that does not answer, or not in time (R415, R416). That an HBM load reads at its issue and a held load reads at its return, the task's own
queued stores over what it reads, is the model's choice (logs 35 and 56). -/
def Obligations.LoadsComplete : Prop :=
  (∀ i p str sd h sa imm n signed, loadForm i = some (p, str, sd, h, sa, imm, n, signed) →
  ∀ s t, s.runsQ p t → ∀ hd s₁, useHandle h s = .ok (hd, s₁) →
  ∀ a s₁', checkAccess hd (memOffset t sa imm) n .read n s₁ = .ok (a, s₁') →
  ∀ s₂, (if hd.space = .comblin then sidePort (combByteCols a n) [] else pure ()) s₁' = .ok ((), s₂) →
  hd.remote = false → (hd.space = .honey → s₂.honeyHeld t.hive a = false) →
  ∀ s₃, (if str.isSome then drainAll else pure ()) s₂ = .ok ((), s₃) →
  ∀ l s₄, readBytes hd (strongPoint str) false .read a n s₃ = .ok (l, s₄) → anyBad l = false →
  ∀ u, s₄.curTask = some u →
    exec i s = .next (s₄.setTask ((u.awake.ws sd (extended signed n (leNat (u.overlay 0 hd.space a (bytesOf l))))).retire i))) ∧
  ((∀ i p str sd h sa imm n signed, loadForm i = some (p, str, sd, h, sa, imm, n, signed) →
    ∀ s t, s.runsQ p t → ∀ hd s₁, useHandle h s = .ok (hd, s₁) →
    ∀ a s₂, checkAccess hd (memOffset t sa imm) n .read n s₁ = .ok (a, s₂) →
    (hd.remote = true ∨ (hd.space = .honey ∧ s₂.honeyHeld t.hive a = true)) →
    ∀ s₃, (if str.isSome then drainAll else pure ()) s₂ = .ok ((), s₃) → ∀ u, s₃.curTask = some u →
      exec i s = .next (s₃.setTask { u with
        pend := some { instr := i, sd := sd, size := n, signed := signed, handle := hd, addr := a, strong := str, atomic := none }
        wait := some .load, stallSince := none })) ∧
  (∀ s id t q, s.task? id = some t → t.pend = some q → ¬(q.handle.space = .honey ∧ s.refreshing = some (fld q.addr 12 4)) →
    ∀ u, State.curTask { s with cur := some id } = some u →
    let u₀ : Task := { u with pend := none }
    let s₀ := State.setTask { s with cur := some id } u₀
    (q.atomic = none → ∀ l s₁, readBytes q.handle (strongPoint q.strong) false .read q.addr q.size s₀ = .ok (l, s₁) → anyBad l = false →
      ∀ v, s₁.curTask = some v → exec (.scalarLoadReturn id) s = .next { s₁.setTask ((v.awake.ws q.sd
        (extendTo q.signed q.size (leNat (v.overlay 0 q.handle.space q.addr (bytesOf l))))).retire q.instr) with cur := s.cur }) ∧
    (∀ op b cmp code pt, q.atomic = some (op, b, cmp) → atomicCode op = some code → s₀.part? u₀.vf = some pt →
      ∀ old s₁, s₀.remoteAtomic (u₀.ctx pt) q.handle.space code (q.size == 4) q.addr b cmp
          (fun x => atomicNew op q.size x b.toNat cmp.toNat) = .ok (old, s₁) →
      ∀ w, s₁.curTask = some w → exec (.scalarLoadReturn id) s =
        .next { s₁.setTask ((w.awake.ws q.sd (extendTo true q.size old)).retire q.instr) with cur := s.cur })) ∧
  (∀ (s : State) c sp code w4 va b cmp (f : Nat → Option Nat) e s₁, s.translate c va (some sp) = .ok (e, s₁) → e.leaf.r = true → e.leaf.w = true →
    let pa := e.phys va
    let n := if w4 then 4 else 8
    let s₂ := s₁.send (.atomicOp (portOf pa) (c.requester (portOf pa)) code w4 (tlpAddr pa) b cmp)
    let old := leNat (memReadN s₂.mem pa n)
    (s₁.portLive (portOf pa) = false →
      s.remoteAtomic c sp code w4 va b cmp f = .ok (2 ^ (8 * n) - 1, s₁.portRefused (portOf pa))) ∧
    (s₁.portLive (portOf pa) = true → s₂.portMute (portOf pa) = true →
      s.remoteAtomic c sp code w4 va b cmp f = .ok (2 ^ (8 * n) - 1, s₂)) ∧
    (s₁.portLive (portOf pa) = true → s₂.portMute (portOf pa) = false →
      (f old = none → s.remoteAtomic c sp code w4 va b cmp f = .ok (old, s₂)) ∧
      (∀ x, f old = some x → s.remoteAtomic c sp code w4 va b cmp f =
        .ok (old, (leBytes n x).zipIdx.foldl (fun s y => s.physWrite (pa + y.2) y.1) s₂)))) ∧
  (∀ s id t q, s.task? id = some t → t.pend = some q → q.handle.space = .honey → s.refreshing = some (fld q.addr 12 4) →
    exec (.scalarLoadReturn id) s = .next s))

/-- Every ST completes where its access is allowed (R134, R252, R253): the low bytes of s(SD) join the store queue of the control core and
count in ocst; in COMBLIN they are written at once, through the side port. STORE_PERFORM (R157, R165): entry `n` of a task's store queues
is written where its policy performs it and leaves the queue, with ocst one less where it counts, when no older store of the same agent to
the same slice waits; else nothing happens. -/
def Obligations.StoresComplete : Prop :=
  (∀ i p str sd h sa imm n, storeForm i = some (p, str, sd, h, sa, imm, n) →
  ∀ s t, s.runsQ p t → ∀ hd s₁, useHandle h s = .ok (hd, s₁) →
  ∀ a s₂, checkAccess hd (memOffset t sa imm) n .write n s₁ = .ok (a, s₂) →
  (hd.space ≠ .comblin → t.ocst < 65535 → ∀ u, s₂.curTask = some u →
    exec i s = .next ((s₂.setTask { u with
      stores := u.stores ++ [{ agent := 0, space := hd.space, addr := a, bytes := leBytes n (t.rs sd).toNat, counts := true,
                               strong := str, policy := hd.policy }]
      ocst := u.ocst + 1 }).andRetire i t.id)) ∧
  (hd.space = .comblin → ∀ s₃, sidePort [] (combByteCols a n) s₂ = .ok ((), s₃) →
    ∀ s₄, writeBytes hd false false .write a (leBytes n (t.rs sd).toNat) s₃ = .ok ((), s₄) →
    exec i s = .next (s₄.andRetire i t.id))) ∧
  (∀ s id n t e q, s.task? id = some t → t.stores[n]? = some e → s.part? t.vf = some q →
    ((∃ o ∈ t.stores.take n, o.agent = e.agent ∧ sliceOf o.addr = sliceOf e.addr) → exec (.storePerform id n) s = .next s) ∧
    ((∀ o ∈ t.stores.take n, ¬(o.agent = e.agent ∧ sliceOf o.addr = sliceOf e.addr)) →
      ∀ s₁ u, s.performEntry t q e = some s₁ → s₁.task? id = some u →
        exec (.storePerform id n) s = .next (s₁.setTask { u with
          stores := u.stores.eraseIdx n, ocst := if e.counts then u.ocst - 1 else u.ocst })))

/-- Every atomic completes in HBM where its checks pass (R134, R254): one step at the home point reads the old value, writes the new one where
there is one, and puts the old value into s(SD), sign-extended. Over a port the request is held until its answer. Where the bound holds
and the handle lacks A, the space is HONEY or COMBLIN, or an atomic that PCIe does not carry names POOL or HOST, it raises MEM.PROT with
the address; that the last is looked at before the alignment is the model's (log 97). -/
def Obligations.AtomicsComplete : Prop :=
  ∀ i p n sc sd h sa sb imm pcie f, atomicForm i = some (p, n, sc, sd, h, sa, sb, imm, pcie, f) →
  ∀ s t, s.runsQ p t → ∀ hd s₁, useHandle h s = .ok (hd, s₁) →
  (checkBound hd (memOffset t sa imm) n s₁ = .ok ((), s₁) →
    hd.a = false ∨ hd.space = .honey ∨ hd.space = .comblin ∨ (hd.remote = true ∧ pcie = false) →
    exec i s = .next (s.takeTrap t cPROT (w64 (hd.addr (memOffset t sa imm))) t.pc)) ∧
  (hd.a = true → ∀ a s₂, checkAccess hd (memOffset t sa imm) n .atomic n s₁ = .ok (a, s₂) →
  ∀ s₃, drainAll s₂ = .ok ((), s₃) →
  let b := (t.rs sb).toNat % 2 ^ (8 * n)
  let cmp := (t.rs sd).toNat % 2 ^ (8 * n)
  (hd.space = .hbm → ∀ l s₄, readBytes hd true (sc = .sys) .atomic a n s₃ = .ok (l, s₄) → anyBad l = false →
    (∀ v, f (leNat (bytesOf l)) b cmp = some v → ∀ s₅, writeBytes hd true (sc = .sys) .atomic a (leBytes n v) s₄ = .ok ((), s₅) →
      ∀ u, s₅.curTask = some u →
        exec i s = .next (s₅.setTask ((u.awake.ws sd (extended true n (leNat (bytesOf l)))).retire i))) ∧
    (f (leNat (bytesOf l)) b cmp = none → ∀ u, s₄.curTask = some u →
        exec i s = .next (s₄.setTask ((u.awake.ws sd (extended true n (leNat (bytesOf l)))).retire i)))) ∧
  (hd.remote = true → pcie = true → ∀ u, s₃.curTask = some u → ∃ op,
    (∀ old, atomicNew op n old b cmp = f old b cmp) ∧
    exec i s = .next (s₃.setTask { u with
      pend := some { instr := i, sd := sd, size := n, signed := true, handle := hd, addr := a, strong := some sc,
                     atomic := some (op, w64 b, w64 cmp) }
      wait := some .load, stallSince := none })))

/-! ## Synchronisation -/

namespace Sys2Proof.Machine

/-- The machine once every own access of the task is performed, and the task's record then (R256, R257). -/
def State.drained (s : State) (t : Task) (s₁ : State) (u : Task) : Prop :=
  s₁ = s.drainStores t.id t.stores.length ∧ s₁.curTask = some u ∧ u.stores = [] ∧ u.vld = [] ∧ u.vst = []

/-- A release at a scope: beyond the hive, the dirty bytes that the task wrote go to their home die caches (R256). -/
def State.released (s : State) (scope : Scope) (c : Ctx) : State := if scope = .hive then s else s.releaseTask c

/-- An acquire at a scope: beyond the hive, the hive's clean lines of the ASID or a G mapping are dropped (R256). -/
def State.acquired (s : State) (scope : Scope) (c : Ctx) : State := if scope = .hive then s else s.acquireHive c

end Sys2Proof.Machine

/-- WAIT completes when no counter is above its limit and no fault is due: it receives the flags (R165, R258). With a fault due, the one with
the lowest cause is raised at the WAIT; the error log has had it since it was met. HALT waits so with every limit zero, releases at PKG
scope and ends the task (R251). SLEEPTIL completes at or after its target when no promise at or below the target is open (R166, R259);
before it, the task sleeps, and SLEEPTIL_WAKE ends the sleep when its cycle has come. A broken promise raises SYNC.PROMISE with the
promise in tval. -/
def Obligations.WaitHaltAndSleepComplete : Prop :=
  (∀ p limits s t, s.runsQ p t →
    let flagged : Task := { t with fflags := t.fflags ||| t.dueFlags, dueFlags := 0 }
    ((∀ c, t.counter c ≤ waitLimit limits c) → t.dues = [] →
      exec (.wait p limits) s = .next (s.setTask (flagged.awake.retire (.wait p limits)))) ∧
    (∀ d rest, (∀ c, t.counter c ≤ waitLimit limits c) → takeDue t.dues = some (d, rest) →
      exec (.wait p limits) s = .next ((s.setTask { flagged with dues := rest }).enterTrap { flagged with dues := rest } d.1 d.2 t.pc)) ∧
    ((∀ c, t.counter c = 0) → t.dues = [] → ∀ s₁ u q, (s.setTask flagged).drained flagged s₁ u → s₁.part? u.vf = some q →
      (s₁.releaseTask (u.ctx q)).unreleased (u.ctx q) = false → ∀ v, (s₁.releaseTask (u.ctx q)).curTask = some v →
        exec (.halt p) s = .next ((s₁.releaseTask (u.ctx q)).endTask v))) ∧
  ((∀ p sa s t, s.runsQ p t → (t.rs sa).toNat ≤ s.cycle.toNat → s.promisesDue t.id (t.rs sa).toNat = [] →
    exec (.sleeptil p sa) s = .next (s.andRetire (.sleeptil p sa) t.id)) ∧
  (∀ p sa s t, s.runsQ p t → s.cycle.toNat < (t.rs sa).toNat →
    exec (.sleeptil p sa) s = .next (s.setTask { t with
      wait := some (.sleep (t.rs sa).toNat), stallSince := some (t.stallSince.getD s.cycle.toNat) })) ∧
  (∀ p sa s t j, s.runsQ p t → (t.rs sa).toNat ≤ s.cycle.toNat →
    (s.promisesDue t.id (t.rs sa).toNat).find? s.broken = some j →
    exec (.sleeptil p sa) s = .next (s.takeTrap t cPROMISE (w64 (j.promise.getD 0)) t.pc)) ∧
  (∀ s id t c, s.task? id = some t → t.wait = some (.sleep c) →
    exec (.sleeptilWake id) s = .next (if c ≤ s.cycle.toNat then s.setTask { t with wait := none } else s)))

/-- What an event does to a barrier object whose check holds (R172, R173): an arrival at the open generation counts, and the last one opens
the object; any other arrival counts as stale; BARINIT starts the next generation, or generation 1 where BCHK fails; BARKILL kills it and
leaves its other bytes. An arrival at a corrupt object has no effect. That an arrival and BARINIT write the object's reserved bytes as
zero is the model's choice (log 71). BARINIT, BARARR and BARKILL complete (R261, R262) in HBM where the checks pass: the task's stores are
released at PKG scope, the object is read, the event's new bytes are written, s(SD) takes the status and the released waiters go on. In
POOL space a BAREVT leaves on the port, where it is live, and the task waits for its answer (R419). BARWAIT completes on an object that is
open, re-armed or killed for its generation, with that status in s(SD), and acquires at PKG scope only when it opened; on any other good
object the task waits, where no paused job of its own carries the arrival (R152, R262). Its own stores are performed before the object is
read (R158). -/
def Obligations.BarriersComplete : Prop :=
  (∀ b : List Byte, let k := Barrier.of b
    (∀ g, barrierOk b = false → barrierApply b (.arrive g) = none) ∧
    (∀ g, barrierOk b = true → k.st = 2 → barrierApply b (.arrive g) = some (b, 3)) ∧
    (∀ g, barrierOk b = true → k.st ≠ 2 → (g ≠ k.gen ∨ k.st = 1) →
      barrierApply b (.arrive g) = some ({ k with stale := min (k.stale + 1) (2 ^ 32 - 1) }.bytes, 2)) ∧
    (barrierOk b = true → k.st = 0 → (k.arr + 1) % 2 ^ 32 ≠ k.exp →
      barrierApply b (.arrive k.gen) = some ({ k with arr := (k.arr + 1) % 2 ^ 32 }.bytes, 0)) ∧
    (barrierOk b = true → k.st = 0 → (k.arr + 1) % 2 ^ 32 = k.exp →
      barrierApply b (.arrive k.gen) = some ({ k with arr := (k.arr + 1) % 2 ^ 32, st := 1 }.bytes, 1)) ∧
    (∀ e, barrierApply b (.init e) = (let g := if barrierChkOk b then (k.gen + 1) % 2 ^ 64 else 1; some (Barrier.bytes ⟨g, e, 0, 0, 0⟩, g))) ∧
    barrierApply b .kill = some (barrierSetState b 2, k.gen) ∧
    (b.length = 64 → (barrierSetState b 2).length = 64 ∧ (barrierSetState b 2)[16]? = some 2 ∧ barrierChkOk (barrierSetState b 2) = true ∧
      ∀ n < 63, n ≠ 16 → (barrierSetState b 2)[n]? = b[n]?) ∧
    (∀ k : Barrier, k.gen < 2 ^ 64 → k.exp < 2 ^ 32 → k.arr < 2 ^ 32 → k.st < 256 → k.stale < 2 ^ 32 →
      Barrier.of k.bytes = k ∧ barrierChkOk k.bytes = true)) ∧
  ((∀ (s : State) x g e tag, s.portLive (portOf x) = true →
    s.sendBarevt x g e tag = { s with msgs := s.msgs ++ [.barevt (portOf x) g (x % 2 ^ 45) e.1 (w64 e.2) tag] }) ∧
  ∀ p sd h sa sb (imm : BitVec 12) s t, s.runsQ p t →
  ∀ i ev, (i, ev) ∈ ([(.barinit p sd h sa sb imm, .init (t.rs sb).toNat), (.bararr p sd h sa sb imm, .arrive (t.rs sb).toNat),
      (.barkill p sd h sa imm, .kill)] : List (Instr × BarEvent)) →
  (∀ n, ev = .init n → 0 < n ∧ n < 2 ^ 32) →
  ∀ hd s₁, useHandle h s = .ok (hd, s₁) →
  ∀ a s₂, barrierAccess hd (t.rs sa + (imm.setWidth 64 <<< 6)).toNat true s₁ = .ok (a, s₂) →
  ∀ ph s₃, physOf hd a s₂ = .ok (ph, s₃) →
    (hd.space ≠ .pool → ∀ s₄, fenceRel .pkg s₃ = .ok ((), s₄) →
      ∀ l s₅, readBytes hd true false .atomic a 64 s₄ = .ok (l, s₅) → anyBad l = false →
      (∀ b st, barrierApply (bytesOf l) ev = some (b, st) → ∀ s₆, writeBytes hd true false .atomic a b s₅ = .ok ((), s₆) →
        ∀ u, s₆.curTask = some u →
          let s₇ := s₆.setTask ((u.awake.ws sd (w64 st)).retire i)
          exec i s = .next (match ph with
            | some x => s₇.releaseWaiters x ev st (s₇.tasks.filter fun v => v.id != t.id)
            | none => s₇)) ∧
      (barrierApply (bytesOf l) ev = none → exec i s = .next (s.takeTrap t cBARCORRUPT (w64 a) t.pc))) ∧
    (∀ x, hd.space = .pool → ph = some x → ∀ s₄, fenceRel .pkg s₃ = .ok ((), s₄) →
      ∀ u, (s₄.sendBarevt x (s₄.launchGen t) ev.code t.id).curTask = some u →
        exec i s = .next ((s₄.sendBarevt x (s₄.launchGen t) ev.code t.id).setTask
          { u with wait := some (.remote i sd (portOf x) (match ev with | .arrive _ => true | _ => false) x), stallSince := none }))) ∧
  (∀ p sd h sa sb (imm : BitVec 12) s t, s.runsQ p t →
  ∀ hd s₁, useHandle h s = .ok (hd, s₁) →
  ∀ a s₂, barrierAccess hd (t.rs sa + (imm.setWidth 64 <<< 6)).toNat false s₁ = .ok (a, s₂) →
  ∀ ph s₃, physOf hd a s₂ = .ok (ph, s₃) →
  ∀ s₀, drainAll s₃ = .ok ((), s₀) →
  ∀ l s₄, readWhole hd true a 64 s₀ = .ok (l, s₄) → anyBad l = false → barrierOk (bytesOf l) = true →
    (∀ st, barrierStatus (bytesOf l) (t.rs sb) = some st →
      ∀ s₅, (if st = 0 then fenceAcq .pkg else pure ()) s₄ = .ok ((), s₅) → ∀ u, s₅.curTask = some u →
        exec (.barwait p sd h sa sb imm) s = .next (s₅.setTask ((u.awake.ws sd (w64 st)).retire (.barwait p sd h sa sb imm)))) ∧
    (barrierStatus (bytesOf l) (t.rs sb) = none → s₄.arrivalHeld t ph = false → ∀ u, s₄.curTask = some u →
      exec (.barwait p sd h sa sb imm) s = .next (s₄.setTask
        { u with wait := some (.barrier (.barwait p sd h sa sb imm) sd ph (t.rs sb)), stallSince := none })))

/-! ## Control registers -/

/-- GETC and SETC complete (R227, R264): a register below 0x800 in either mode, one from 0x800 up in supervisor mode; GETC reads the register
as the tables give it, SETC changes what they let it change. SETC to vstart, avl and strip have their own effects. A number that the
tables leave unassigned raises INSN.ILLFN with the word in tval: those listed, and every other without a value (R226). A task that is not
in supervisor mode raises INSN.PRIV, with the word in tval, at GETC and SETC of a register from 0x800 up, at a SETC of a supervisor
register with an effect of its own, and at PTLOAD (R181, R264, R313). -/
def Obligations.ControlRegistersComplete : Prop :=
  (∀ p n (creg : BitVec 12) s t, s.runsQ p t →
    (∀ v, creg.toNat < 0x800 → t.readReg s.cycle creg.toNat = some v →
      exec (.getc p n creg) s = .next ((s.setTask (t.ws n v)).andRetire (.getc p n creg) t.id) ∧
      exec (.setc p creg n) s = .next ((s.setTask (t.writeReg creg.toNat (t.rs n))).andRetire (.setc p creg n) t.id)) ∧
    (∀ q v, 0x800 ≤ creg.toNat → t.sup = true → s.part? t.vf = some q → s.readPart q creg.toNat = some v →
      exec (.getc p n creg) s = .next ((s.setTask (t.ws n v)).andRetire (.getc p n creg) t.id) ∧
      exec (.setc p creg n) s = .next ((s.setPart (q.writeReg creg.toNat (t.rs n))).andRetire (.setc p creg n) t.id)) ∧
    ((∀ q, 0x800 ≤ creg.toNat → t.sup = true → s.part? t.vf = some q → s.readPart q creg.toNat = none →
        ∀ i ∈ ([.getc p n creg, .setc p creg n] : List Instr), exec i s = .next (s.takeTrap t cILLFN (iword i) t.pc)) ∧
      (creg.toNat < 0x800 → t.readReg s.cycle creg.toNat = none →
        ∀ i ∈ ([.getc p n creg, .setc p creg n] : List Instr), exec i s = .next (s.takeTrap t cILLFN (iword i) t.pc)) ∧
      (∀ r ∈ ([(0x001, 0x00F), (0x015, 0x018), (0x01B, 0x01F), (0x024, 0x02F), (0x035, 0x03F), (0x044, 0x047), (0x04C, 0x04F),
          (0x052, 0x057), (0x059, 0x05F), (0x061, 0x06F), (0x074, 0x7FF)] : List (Nat × Nat)),
        r.1 ≤ creg.toNat → creg.toNat ≤ r.2 → t.readReg s.cycle creg.toNat = none) ∧
      (∀ q, ∀ r ∈ ([(0x804, 0x807), (0x80B, 0x80B), (0x80F, 0x80F), (0x813, 0x83F), (0x890, 0xFFF)] : List (Nat × Nat)),
        r.1 ≤ creg.toNat → creg.toNat ≤ r.2 → s.readPart q creg.toNat = none)) ∧
    (t.rs n = 0 → exec (.vstartWrite p n) s = .next (s.setTask ({ t with vstart := 0, resume := none }.retire (.vstartWrite p n)))) ∧
    (t.rs n ≠ 0 → exec (.vstartWrite p n) s = .next (s.setTask (t.retire (.vstartWrite p n)))) ∧
    exec (.avlStripWrite p false n) s =
      .next (s.setTask ({ t with vstart := 0, resume := none, avl := (t.rs n).setWidth 40 }.retire (.avlStripWrite p false n))) ∧
    exec (.avlStripWrite p true n) s =
      .next (s.setTask ({ t with vstart := 0, resume := none, strip := (t.rs n).setWidth 24 }.retire (.avlStripWrite p true n)))) ∧
  (∀ p n (creg : BitVec 12) k base h s t, s.runsQ p t → t.sup = false →
    (0x800 ≤ creg.toNat → ∀ i ∈ ([.getc p n creg, .setc p creg n] : List Instr),
      exec i s = .next (s.takeTrap t cPRIV (iword i) t.pc)) ∧
    (∀ i ∈ ([.hbaseWrite (.setc p n), .tlbinv (.setc p n), .lseedWrite (.setc p n), .swapSlotWrite base (.setc p n),
        .pfdone (.setc p n), .lqctlWrite k (.setc p n), .lqprodDoorbell k (.setc p n)] : List Instr),
      exec i s = .next (s.takeTrap t cPRIV (iword i) t.pc)) ∧
    (∀ x, x.pn = false → exec (.ptload x h n) s = .next (s.takeTrap t cPRIV (iword (.ptload x h n)) t.pc)))

/-- What a write of each supervisor register with an effect of its own does to the machine (R133, R154, R174, R175, R178, R188, R192), by SETC
in supervisor mode and by the host through VF BAR0 while its port answers (R412); a function bound to no partition answers Unsupported
Request (R413). hbase takes the value and drops the partition's cached handles; tlbinv drops the entries it names and lets the paused
engines of the ASID try again; lseed takes a value that is not zero; swcnt and swbase are taken while the partition has no task; pfdone
lets a task in that frame be restored, at once or, while the partition or that frame is being saved, later; lqctl and lqprod write their
fields, and a queue that then must stop stops with ASYNC.LQERR to the host. A write through VF BAR0 acts as the SETC of its register does;
read-only registers, PSCTL and unassigned offsets change nothing (R413). -/
def Obligations.SupervisorWritesComplete : Prop :=
  ((∀ base k (f : RegWrite → Instr) (g : Partition → Word → State → State),
    (f, g) ∈ ([(.hbaseWrite, writeHbase), (.tlbinv, writeTlbinv), (.lseedWrite, writeLseed), (.swapSlotWrite base, writeSwap base),
      (.pfdone, writePfdone), (.lqctlWrite k, writeLqctl k), (.lqprodDoorbell k, writeLqprod k)] :
        List ((RegWrite → Instr) × (Partition → Word → State → State))) →
    (∀ p sa s t q, s.runsQ p t → t.sup = true → s.part? t.vf = some q →
      exec (f (.setc p sa)) s = .next ((g q (t.rs sa) s).andRetire (f (.setc p sa)) t.id)) ∧
    (∀ vf v s q, s.portLive 8 = true → s.part? vf = some q → exec (f (.bar vf v)) s = .next (g q v s)) ∧
    (∀ vf v s, s.portLive 8 = true → s.part? vf = none → exec (f (.bar vf v)) s = .next (s.send (.unsupported 8))) ∧
    (∀ vf v s, s.portLive 8 = false → exec (f (.bar vf v)) s = .next s)) ∧
  (∀ q (v : Word) s, writeHbase q v s =
    { s.setPart { q with hbase := v.extractLsb' 13 43 } with handles := s.handles.filter fun e => e.vf != q.vf }) ∧
  (∀ q (v : Word) s,
    let names (e : TlbEntry) : Prop := (e.glob = true ∨ e.asid = (v >>> 48).toNat) ∧
      (v.extractLsb' 0 48 = BitVec.allOnes 48 ∨
        (e.page ≤ (v.extractLsb' 0 48).toNat * 256 ∧ (v.extractLsb' 0 48).toNat * 256 < e.page + e.size))
    let mine (vf : Nat) : Prop := ∃ p, s.part? vf = some p ∧ p.asid.toNat = (v >>> 48).toNat
    (∀ e, e ∈ (writeTlbinv q v s).tlb ↔ e ∈ s.tlb ∧ ¬names e) ∧
    (∀ j ∈ s.jobs, j.paused.isSome = true → mine j.vf → Instr.engineRetry j.id ∈ (writeTlbinv q v s).agenda) ∧
    (∀ t ∈ (writeTlbinv q v s).tasks, mine t.vf → ∀ o ∈ t.mx.queue, o.paused = none) ∧
    (writeTlbinv q v s).hiveLines = s.hiveLines ∧ (writeTlbinv q v s).icLines = s.icLines ∧
    (writeTlbinv q v s).dieLines = s.dieLines ∧ (writeTlbinv q v s).mem = s.mem ∧ (writeTlbinv q v s).jobs = s.jobs ∧
    (writeTlbinv q v s).parts = s.parts) ∧
  (∀ q (v : Word) s,
    (v.setWidth 32 = (0 : BitVec 32) → writeLseed q v s = s) ∧
    (v.setWidth 32 ≠ (0 : BitVec 32) → writeLseed q v s = s.setPart { q with lseed := v.setWidth 32 })) ∧
  (∀ q (v : Word) s base,
    ((∃ t ∈ s.tasks, t.vf = q.vf) → writeSwap base q v s = s) ∧
    ((∀ t ∈ s.tasks, t.vf ≠ q.vf) → writeSwap base q v s =
      s.setPart (if base then { q with swbase := v.extractLsb' 24 32 } else { q with swcnt := v.setWidth 16 }))) ∧
  (∀ q (v : Word) s, let k := (v.extractLsb' 0 16).toNat
    let saving : Prop := ∃ t ∈ s.tasks, t.vf = q.vf ∧ t.slot = k ∧ ∃ c a, t.stop = some (.fault c a)
    let stands : Prop := ∃ t ∈ s.tasks, t.faultedIn q.vf k = true
    (q.psState = 0 → ¬saving → writePfdone q v s = s.pagesArrived q.vf k ∧
      ∀ t ∈ s.tasks, t.faultedIn q.vf k = true → ∀ w c b, t.place = .frame w c b →
        { t with place := .frame w c true } ∈ (writePfdone q v s).tasks) ∧
    ((q.psState ≠ 0 ∨ saving) → (stands ∨ saving) → writePfdone q v s = s.setPart { q with pfdones := q.pfdones ++ [k] }) ∧
    ((q.psState ≠ 0 ∨ saving) → ¬(stands ∨ saving) → writePfdone q v s = s)) ∧
  (∀ q (v : Word) s k c, s.part? q.vf = some q → k < 16 → q.queue k = c →
    let ctl : LaunchQueue := { c with
      en := v.getLsbD 20, log := v.extractLsb' 16 4, tickets := v.setWidth 16, age := 0,
      err := c.err && !(!c.en && v.getLsbD 20), cons := if c.err = true ∧ c.en = false ∧ v.getLsbD 20 = true then c.prod else c.cons }
    let bell : LaunchQueue := { c with prod := v.setWidth 32 }
    ∀ f new, (f, new) ∈ [(writeLqctl k q v, ctl), (writeLqprod k q v, bell)] →
      let stops : Prop := new.err = false ∧ (2 ^ new.log.toNat < (new.prod - new.cons).toNat ∨ (new.en = true ∧ new.log.toNat < 4))
      (¬stops → f s = s.setPart (q.setQueue k new)) ∧
      (stops → f s = ((s.setPart (q.setQueue k { new with err := true })).hostCause cLQERR (w64 k)).send (.msix q.vf 2)))) ∧
  (∀ vf (creg : BitVec 12) v s q, s.portLive 8 = true → s.part? vf = some q →
    (creg = 0x802 → exec (.barRegisterWrite vf creg v) s = exec (.hbaseWrite (.bar vf v)) s) ∧
    (creg = 0x803 → exec (.barRegisterWrite vf creg v) s = exec (.tlbinv (.bar vf v)) s) ∧
    (creg = 0x809 → exec (.barRegisterWrite vf creg v) s = exec (.lseedWrite (.bar vf v)) s) ∧
    (creg = 0x80A → exec (.barRegisterWrite vf creg v) s = exec (.swapSlotWrite false (.bar vf v)) s) ∧
    (creg = 0x80C → exec (.barRegisterWrite vf creg v) s = exec (.swapSlotWrite true (.bar vf v)) s) ∧
    (creg = 0x80D → exec (.barRegisterWrite vf creg v) s = exec (.pfdone (.bar vf v)) s) ∧
    (creg.toNat / 16 = 0x85 → exec (.barRegisterWrite vf creg v) s = exec (.lqctlWrite (creg.toNat % 16) (.bar vf v)) s) ∧
    (creg.toNat / 16 = 0x86 → exec (.barRegisterWrite vf creg v) s = exec (.lqprodDoorbell (creg.toNat % 16) (.bar vf v)) s) ∧
    (creg = 0x800 → exec (.barRegisterWrite vf creg v) s = .next (s.setPart { q with asid := v.setWidth 16 })) ∧
    (creg = 0x801 → exec (.barRegisterWrite vf creg v) s = .next (s.setPart { q with ptroot := v.extractLsb' 12 40 })) ∧
    (creg = 0x810 → exec (.barRegisterWrite vf creg v) s = .next (s.setPart { q with snqbase := v.extractLsb' 17 39 })) ∧
    (creg = 0x812 → exec (.barRegisterWrite vf creg v) s = .next (s.setPart { q with snqcons := v.setWidth 32 })) ∧
    (creg.toNat / 16 = 0x84 → exec (.barRegisterWrite vf creg v) s =
      .next (s.setPart (q.setQueue (creg.toNat % 16) { q.queue (creg.toNat % 16) with base := v.extractLsb' 7 49 }))) ∧
    (creg.toNat < 0x800 ∨ (0x804 ≤ creg.toNat ∧ creg.toNat ≤ 0x808) ∨ creg = 0x80B ∨ creg = 0x80E ∨ creg = 0x80F ∨ creg = 0x811 ∨
        (0x813 ≤ creg.toNat ∧ creg.toNat ≤ 0x83F) ∨ 0x870 ≤ creg.toNat →
      exec (.barRegisterWrite vf creg v) s = .next (s.setPart q)))

/-- ENQ, DEQ and LAUNCH complete (R53 to R56, R268, R269): ENQ where the queue has room and no new task still has to read the item at the next
place; DEQ where an item waits, or with 0 where the queue is empty and closed; LAUNCH with the ticket's place, or a status when the queue
cannot take it. -/
def Obligations.QueueInstructionsComplete : Prop :=
  ∀ p r h k s t q, s.runsQ p t → s.part? t.vf = some q →
    (∀ l, r ≤ 56 → t.out ≠ 0 → q.launch? t.launch = some l → (l.stage t.out).count < (l.stage t.out).qdepth →
      s.itemHeld t.vf l.id ((l.stage t.out).itemAddr ((l.stage t.out).head + (l.stage t.out).count)) = false →
      ∀ s₁, fenceRel .pkg s = .ok ((), s₁) →
      ∀ s₂, State.devWrite q ((l.stage t.out).itemAddr ((l.stage t.out).head + (l.stage t.out).count)) (t.itemWords r) s₁ = .ok s₂ →
      ∀ u q', s₂.curTask = some u → s₂.part? u.vf = some q' →
        exec (.enq p r) s = .next ((s₂.setPart (q'.setLaunch (l.setStage t.out
          { l.stage t.out with count := (l.stage t.out).count + 1 }))).andRetire (.enq p r) t.id)) ∧
    (∀ l, r ≤ 55 → t.stage ≠ 0 → q.launch? t.launch = some l →
      ((l.stage t.stage).count = 0 → s.queueClosed t.vf l t.stage = true →
        exec (.deq p r) s = .next ((s.setTask (t.ws r 0)).andRetire (.deq p r) t.id)) ∧
      (0 < (l.stage t.stage).count → ∀ b s₁,
        State.devRead q ((l.stage t.stage).itemAddr (l.stage t.stage).head) 64 s = .ok (b, s₁) → anyBad b = false →
        ∀ u q' s₂, s₁.curTask = some u → s₁.part? u.vf = some q' →
        fenceAcq .pkg (s₁.setPart (q'.setLaunch (l.setStage t.stage { l.stage t.stage with
          head := (l.stage t.stage).head + 1, count := (l.stage t.stage).count - 1 }))) = .ok ((), s₂) →
        ∀ v, s₂.curTask = some v →
          exec (.deq p r) s = .next ((s₂.setTask ((v.setItem (r + 1) (bytesOf b)).ws r 1)).andRetire (.deq p r) t.id))) ∧
    (∀ sa hd s₁, useHandle h s = .ok (hd, s₁) → ∀ a s₂, checkAccess hd (t.rs sa).toNat 128 .read 128 s₁ = .ok (a, s₂) →
      ∀ b s₃, readWhole hd false a 128 s₂ = .ok (b, s₃) → anyBad b = false →
      ∀ u q', s₃.curTask = some u → s₃.part? u.vf = some q' →
      let c := q'.queue k
      let failed (n : Nat) : Prop :=
        exec (.launch p r h sa k) s = .next ((s₃.setTask (u.ws r (w64 (2 ^ 63 + n)))).andRetire (.launch p r h sa k) t.id)
      ((c.en = false ∨ c.err = true) → failed 2) ∧
      (c.en = true → c.err = false → c.sup = true → t.sup = false → failed 3) ∧
      (c.en = true → c.err = false → (c.sup = false ∨ t.sup = true) → (c.prod - c.cons).toNat = 2 ^ c.log.toNat → failed 1) ∧
      (c.en = true → c.err = false → (c.sup = false ∨ t.sup = true) → (c.prod - c.cons).toNat ≠ 2 ^ c.log.toNat →
        ∀ s₄, fenceRel .sys s₃ = .ok ((), s₄) →
        ∀ s₅, State.devWrite q' (c.base.toNat * 128 + 128 * (c.prod.toNat % 2 ^ c.log.toNat)) (u.overlay 0 hd.space a (bytesOf b)) s₄ =
          .ok s₅ →
        ∀ v, (writeLqprod k q' ((c.prod + 1).setWidth 64) s₅).curTask = some v →
          exec (.launch p r h sa k) s = .next (((writeLqprod k q' ((c.prod + 1).setWidth 64) s₅).setTask
            (v.ws r (c.prod.setWidth 64))).andRetire (.launch p r h sa k) t.id)))

/-! ## The waggle crossbar and words of unassigned opcodes -/

namespace Sys2Proof.Machine

/-- The counter or term that a task configures from a word (R70, R270): the owner, and the fields of the word. -/
def configured (id : Nat) (v : Word) (term : Bool) (n : Nat) (h : Hive) : Hive :=
  if term then { h with terms := h.terms.set n ⟨some id, v.extractLsb' 48 16, v.extractLsb' 32 16, (v.extractLsb' 30 2).toNat, 0, 0⟩ }
  else { h with
    counters := h.counters.set n ⟨some id, (v.extractLsb' 16 16).toNat, (v.extractLsb' 8 5).toNat, 0⟩
    terms := h.terms.map fun e => { e with latched := e.latched &&& ~~~ BitVec.ofNat 16 (2 ^ n) } }

end Sys2Proof.Machine

/-- WGCFG, WGFIRE and WGWAIT complete (R270, R271, R436): WGCFG.wr with status 0 configures the object for the task and with another status
changes nothing; WGCFG.free with status 0 frees it; WGCFG.rd reads it, or 0 where the task does not own it; WGFIRE pulses the task's
input; WGWAIT answers 1 on a term that is not the task's to wait on, 0 where a firing is pending, and else waits. The statuses of WGCFG
(R270): wr answers 1 for an object that another task owns, 2 for a term that names a counter the task does not own, 3 for a term on which
a job or matrix operation of the task is armed, else 0; free answers 1 and 3 likewise, and 2 for a counter that a term of the task names.
That 2 comes before 3 is the model's choice (log 99). A pulse (R69, R71): each counter of the owner that counts the input goes up by one,
or returns to zero at its threshold, and its latches are then set in the terms that name it; no other counter changes. The terms of the
hive that are then ready fire in the next steps, before anything else. A term fires when a product of it that names a counter is latched
whole (R71, R72): its latches are cleared; a task that waits on it resumes with 0; else, its task not waiting on it, the oldest job of the
task armed on it starts; else the oldest matrix operation armed on it does; where nothing waits, its pending count rises by one, up to
255. A term that is not ready, or whose task is swapped out, does nothing. -/
def Obligations.WaggleInstructionsComplete : Prop :=
  (∀ p sd sa term n code s t, s.runsQ p t →
    let h := s.hive t.hive
    let e := h.term n
    (wgWrStatus s h t term n (t.rs sa) = 0 → ∀ u, (s.setHive (configured t.id (t.rs sa) term n h)).curTask = some u →
      exec (.wgcfgWr p sd sa term n) s = .next
        (((s.setHive (configured t.id (t.rs sa) term n h)).setTask (u.ws sd 0)).andRetire (.wgcfgWr p sd sa term n) t.id)) ∧
    (∀ k, wgWrStatus s h t term n (t.rs sa) = k → k ≠ 0 →
      exec (.wgcfgWr p sd sa term n) s = .next ((s.setTask (t.ws sd (w64 k))).andRetire (.wgcfgWr p sd sa term n) t.id)) ∧
    (wgFreeStatus s h t term n = 0 →
      let h' := if term then { h with terms := h.terms.set n Term.free } else { h with counters := h.counters.set n Counter.free }
      ∀ u, (s.setHive h').curTask = some u →
      exec (.wgcfgFree p sd sa term n) s = .next (((s.setHive h').setTask (u.ws sd 0)).andRetire (.wgcfgFree p sd sa term n) t.id)) ∧
    (∀ k, wgFreeStatus s h t term n = k → k ≠ 0 →
      exec (.wgcfgFree p sd sa term n) s = .next ((s.setTask (t.ws sd (w64 k))).andRetire (.wgcfgFree p sd sa term n) t.id)) ∧
    exec (.wgcfgRd p sd sa term n) s = .next (s.setTask ((t.ws sd (
      if term then (if e.owner = some t.id then e.word else 0)
      else (if (h.counter n).owner = some t.id then (h.counter n).word else 0))).retire (.wgcfgRd p sd sa term n))) ∧
    exec (.wgfire p code) s = .next ((s.pulse t.hive t.id (20 + code)).andRetire (.wgfire p code) t.id) ∧
    ((e.owner ≠ some t.id ∨ e.tgt ≠ 3) →
      exec (.wgwait p sd n) s = .next (s.setTask ((t.awake.ws sd 1).retire (.wgwait p sd n)))) ∧
    (e.owner = some t.id → e.tgt = 3 → 0 < e.pend →
      ∀ u, (s.setHive { h with terms := h.terms.set n { e with pend := e.pend - 1 } }).curTask = some u →
      exec (.wgwait p sd n) s = .next ((s.setHive { h with terms := h.terms.set n { e with pend := e.pend - 1 } }).setTask
        ((u.awake.ws sd 0).retire (.wgwait p sd n)))) ∧
    (e.owner = some t.id → e.tgt = 3 → e.pend = 0 → s.waggleNeedsPaused t e = false →
      exec (.wgwait p sd n) s = .next (s.setTask { t with wait := some (.waggle (.wgwait p sd n) sd n), stallSince := none }))) ∧
  (∀ s (h : Hive) (t : Task) n (v : Word),
    let foreign (o : Option Nat) : Prop := ∃ k, o = some k ∧ k ≠ t.id
    let named (j : Nat) : Prop := v.getLsbD (32 + j) = true ∨ v.getLsbD (48 + j) = true
    (wgWrStatus s h t true n v = 1 ↔ foreign (h.term n).owner) ∧
    (wgWrStatus s h t true n v = 2 ↔ ¬foreign (h.term n).owner ∧ ∃ j < 16, named j ∧ (h.counter j).owner ≠ some t.id) ∧
    (wgWrStatus s h t true n v = 3 ↔ ¬foreign (h.term n).owner ∧ (∀ j < 16, named j → (h.counter j).owner = some t.id) ∧
      s.armedOn t n = true) ∧
    (wgWrStatus s h t true n v = 0 ↔ ¬foreign (h.term n).owner ∧ (∀ j < 16, named j → (h.counter j).owner = some t.id) ∧
      s.armedOn t n = false) ∧
    (wgWrStatus s h t false n v = 1 ↔ foreign (h.counter n).owner) ∧
    (wgWrStatus s h t false n v = 0 ↔ ¬foreign (h.counter n).owner) ∧
    (wgFreeStatus s h t true n = 1 ↔ foreign (h.term n).owner) ∧
    (wgFreeStatus s h t true n = 3 ↔ ¬foreign (h.term n).owner ∧ s.armedOn t n = true) ∧
    (wgFreeStatus s h t true n = 0 ↔ ¬foreign (h.term n).owner ∧ s.armedOn t n = false) ∧
    (wgFreeStatus s h t false n = 1 ↔ foreign (h.counter n).owner) ∧
    (wgFreeStatus s h t false n = 2 ↔ ¬foreign (h.counter n).owner ∧
      ∃ e ∈ h.terms, e.owner = some t.id ∧ (e.p0.getLsbD n = true ∨ e.p1.getLsbD n = true)) ∧
    (wgFreeStatus s h t false n = 0 ↔ ¬foreign (h.counter n).owner ∧
      ∀ e ∈ h.terms, e.owner = some t.id → e.p0.getLsbD n = false ∧ e.p1.getLsbD n = false)) ∧
  ((∀ (s : State) hv owner input,
    let l := s.setHive ((List.range 16).foldl (Hive.pulseCounter owner input) (s.hive hv))
    s.pulse hv owner input = { l with agenda := ((l.hive hv).readyTerms.map fun n => .waggleTermFire hv n) ++ s.agenda } ∧
    ∀ n, n ∈ (l.hive hv).readyTerms ↔ n < 16 ∧ ((l.hive hv).term n).ready = true) ∧
  ∀ (h : Hive) owner input n, n < h.counters.length →
    let c := h.counter n
    let h' := Hive.pulseCounter owner input h n
    (∀ k, k ≠ n → h'.counter k = h.counter k) ∧
    (¬(c.owner = some owner ∧ c.src = input ∧ c.thresh ≠ 0) → h' = h) ∧
    (c.owner = some owner → c.src = input → c.thresh ≠ 0 → c.count + 1 ≠ c.thresh →
      h'.counter n = { c with count := (c.count + 1) % 2 ^ 16 } ∧ h'.terms = h.terms) ∧
    (c.owner = some owner → c.src = input → c.thresh ≠ 0 → c.count + 1 = c.thresh →
      h'.counter n = { c with count := 0 } ∧
      h'.terms = h.terms.map fun e => if e.names n then { e with latched := e.latched ||| BitVec.ofNat 16 (2 ^ n) } else e)) ∧
  ((∀ (h : Hive) n, n < h.terms.length →
    ((h.term n).pend < 255 → (h.raisePend n).term n = { h.term n with pend := (h.term n).pend + 1 }) ∧
    ((h.term n).pend = 255 → (h.raisePend n).term n = h.term n) ∧
    (∀ k, k ≠ n → (h.raisePend n).term k = h.term k) ∧ (h.raisePend n).counters = h.counters) ∧
  ∀ s hv n, let h := s.hive hv
    let e := h.term n
    let h' : Hive := { h with terms := h.terms.set n { e with latched := 0 } }
    (e.ready = true ↔ ∃ p, (p = e.p0 ∨ p = e.p1) ∧ p ≠ 0 ∧ ∀ k, p.getLsbD k = true → e.latched.getLsbD k = true) ∧
    (e.ready = false → exec (.waggleTermFire hv n) s = .next s) ∧
    (e.ready = true → e.owner.bind s.task? = none →
      exec (.waggleTermFire hv n) s = .next ((s.setHive h').setHive (h'.raisePend n))) ∧
    (∀ t, e.owner.bind s.task? = some t → t.place ≠ .vlc → exec (.waggleTermFire hv n) s = .next s) ∧
    (∀ t, e.ready = true → e.owner.bind s.task? = some t → t.place = .vlc →
      (∀ i sd, t.wait = some (.waggle i sd n) → e.tgt = 3 →
        exec (.waggleTermFire hv n) s = .next ((s.setHive h').setTask ((t.awake.ws sd 0).retire i))) ∧
      (e.tgt ≠ 3 ∨ (∀ i sd, t.wait ≠ some (.waggle i sd n)) →
        (∀ j, s.jobs.find? (fun j => j.task == t.id && j.armed == some n) = some j →
          exec (.waggleTermFire hv n) s = .next ((s.setHive h').setJob { j with armed := none })) ∧
        (s.jobs.find? (fun j => j.task == t.id && j.armed == some n) = none →
          (∀ l, startMx n t.mx.queue = some l →
            exec (.waggleTermFire hv n) s = .next ((s.setHive h').setTask { t with mx := { t.mx with queue := l } })) ∧
          (startMx n t.mx.queue = none →
            exec (.waggleTermFire hv n) s = .next ((s.setHive h').setHive (h'.raisePend n)))))))

/-! ## Comb registers and comb instructions -/

/-- VCFG, VSETVL, VSETCAP, VGETCAP and VDISC complete where their checks pass (R291, R292). That VSETCAP keeps the mark of VDISC is the
model's choice (log 87). -/
def Obligations.RegisterDescriptorsComplete : Prop :=
  ∀ p vd sb m s t, s.curTask = some t → p.pn = false →
    let x := t.rs sb
    let base := (x.extractLsb' 0 8).toNat
    let width := (x.extractLsb' 8 6).toNat + 1
    (x.toNat < 2 ^ 15 → x.getLsbD 14 = true → s.columnsBusy t [] (t.regCols vd) = false →
      exec (.vcfg p vd sb m) s = .next ((s.setTask (t.setVreg vd none)).andRetire (.vcfg p vd sb m) t.id)) ∧
    (x.toNat < 2 ^ 14 → 8 ≤ base → base + width ≤ 216 → (∀ k < width, t.live.getLsbD ((base + k) / 8) = true) →
      (∀ n < 32, n ≠ vd → ∀ r, t.vreg n = some r → base + width ≤ r.base ∨ r.base + r.width ≤ base) →
      s.columnsBusy t [] (t.regCols vd ++ (List.range width).map (base + ·)) = false →
      exec (.vcfg p vd sb m) s = .next ((s.setTask
        { t.setVreg vd (some ⟨base, width, Cap.blank.bits, false⟩) with vstart := 0, resume := none }).andRetire (.vcfg p vd sb m) t.id)) ∧
    (x.toNat < 2 ^ 40 → exec (.vsetvl p sb m) s = .next ((s.setTask
      { t with avl := x.setWidth 40, strip := 0, vstart := 0, resume := none }).andRetire (.vsetvl p sb m) t.id)) ∧
    (∀ r, sb % 2 = 0 → t.vreg vd = some r →
      let c : BitVec 128 := t.rs (sb + 1) ++ t.rs sb
      (capPasses c = true → (Cap.of c).scl = 0 → (Cap.of c).spr = 0 → (Cap.of c).f.width ≤ r.width →
        exec (.vsetcap p vd sb m) s = .next ((s.setTask (t.setVreg vd (some { r with cap := c }))).andRetire (.vsetcap p vd sb m) t.id)) ∧
      exec (.vgetcap p sb vd m) s = .next ((s.setTask ((t.ws sb (r.cap.extractLsb' 0 64)).ws (sb + 1) (r.cap.extractLsb' 64 64))).andRetire
        (.vgetcap p sb vd m) t.id)) ∧
    (∀ r, t.vreg vd = some r →
      exec (.vdisc p vd m) s = .next ((s.setTask (t.setVreg vd (some { r with discard := true }))).andRetire (.vdisc p vd m) t.id))

/-- Every comb instruction completes where its checks pass (R274, R275, R277): for each instruction of the table `combOf`, with an active
lane, combs that neither a lease nor a running MXMAC holds (R142, R341), operands free of earlier side-port accesses (R140) and of parity
errors, it loads what it loads from memory, runs its passes to the end and takes its effect; a held one goes on from its pass, whatever
lanes are active now (R208). A parity error in what it still has to read ends it early (R199). The table names VADD, VSUB, VMUL, VDIV,
VMIN, VMAX, VMAC, VFMA, VRCP, VRSQ, VEXP, VABS, VNEG, VAND, VOR, VXOR, VNOT, VSHL, VSHR, VSRA, VCMP, VSEL, VMOV, VBCAST, VCVT, VCVT_MEM,
VSHIFT, VRAND, VRSUM_O, VRSUM_T, VRMAX, VRMIN, VCOUNT, VRANK, VDEFER, VDRAIN, MAND, MOR, MXOR, MNOT, MFIRST, PASS, SEARCH, PSEQ, VMWRITE,
VTOPK, VBOTK, VARGMAX, VARGMIN, VSORT, VPERM, VUNIQ, VSIM, VNEAR and NMSEARCH. -/
def Obligations.CombInstructionsComplete : Prop :=
  ∀ i p c, combOf i = some (p, c) → ∀ s t, s.curTask = some t → t.combsTaken = false →
    (t.held i = none → laneActive c.lanes p t = true → ∀ r₀ s₀, c.prep t s = .ok (r₀, s₀) →
      s₀.columnsBusy t ((c.reads r₀ t).map (·.1)) (c.writes t) = false →
      ∀ r s₁, c.load r₀ t s₀ = .ok ((r, none), s₁) →
      (c.parityError r 0 { t with linear := false } = none →
        exec i s = .next (combDone c r s₁ (c.runTo r 0 r.total { t with linear := false }))) ∧
      (∀ e, c.parityError r 0 { t with linear := false } = some e →
        exec i s = .next (combParity c r 0 s₁ { t with linear := false } e))) ∧
    (∀ r₀, t.held i = some r₀ → ∀ r₁ s₁, c.load r₀ t s = .ok ((r₁, none), s₁) →
      let r : Resume := { r₁ with sum := none }
      let k := if r₀.loading then 0 else t.vstart.toNat
      (c.parityError r k { t.takeSum with linear := false } = none →
        exec i s = .next (combDone c r s₁ (c.runTo r k r.total { t.takeSum with linear := false }))) ∧
      (∀ e, c.parityError r k { t.takeSum with linear := false } = some e →
        exec i s = .next (combParity c r k s₁ { t.takeSum with linear := false } e)))

/-- MAND, MOR, MXOR and MNOT complete with the mask that R310 gives, in the active cells alone; masks below 8 need no register. A column write
reaches only its column and only the cells of its set, keeps column 0, and keeps the parity of every group (R18, R19, R283). Writing
elements into a register and reading them back (R89): each cell of the set reads the element written, as wide as the format, and every
other cell of the register reads as before. -/
def Obligations.MaskAndColumnResults : Prop :=
  (∀ p md ma mb s t, 1 ≤ md → md ≤ 7 → ma ≤ 7 → mb ≤ 7 → s.curTask = some t → laneActive .cell p t = true → t.combsTaken = false →
    t.cols.length = 256 → s.pendingReads t = [] → s.pendingWrites t = [] →
    (∀ g, t.groupFail g = none) →
    ∀ i f, (i, f) ∈ ([(.mand p md ma mb none, fun a b => a && b), (.mor p md ma mb none, fun a b => a || b),
        (.mxor p md ma mb none, fun a b => xor a b), (.mnot p md ma none, fun a _ => !a)] : List (Instr × (Bool → Bool → Bool))) →
      t.held i = none →
      ∃ s' u, exec i s = .next s' ∧ s'.curTask = some u ∧
        (∀ c, bitOf (u.col md) c = if bitOf (activeCells p t) c then f (bitOf (t.mask ma) c) (bitOf (t.mask mb) c) else bitOf (t.col md) c) ∧
        (∀ k, 8 ≤ k → k < 216 → u.col k = t.col k) ∧ s'.mem = s.mem ∧ u.regs = t.regs) ∧
  (∀ (t : Task) c set bits, t.cols.length = 256 → t.par.length = 8 →
    let u := t.writeCol c set bits
    (∀ k, k ≠ c → u.col k = t.col k) ∧ u.col 0 = t.col 0 ∧
    (c ≠ 0 → c < 256 → ∀ j, bitOf (u.col c) j = if bitOf set j then bitOf bits j else bitOf (t.col c) j) ∧
    (∀ g < 8, (List.range 32).foldl (fun a k => a ^^^ u.col (32 * g + k)) (u.par.getD g 0) =
      (List.range 32).foldl (fun a k => a ^^^ t.col (32 * g + k)) (t.par.getD g 0))) ∧
  (∀ (t : Task) vd (r : VReg) set (f : Fmt) (vals : List (Nat × Nat)), t.vreg vd = some r → 1 ≤ r.base → r.base + r.width ≤ 256 →
    t.cols.length = 256 → f.width ≤ r.width → (vals.map (·.1)).Nodup → (∀ c, bitOf set c = true ↔ c ∈ vals.map (·.1)) →
    let u := t.writeElems vd set f vals
    (∀ x ∈ vals, u.cellBits r.base x.1 f.width = x.2 % 2 ^ f.width) ∧
    (∀ c, bitOf set c = false → u.cellBits r.base c r.width = t.cellBits r.base c r.width) ∧
    (∀ k, (k < r.base ∨ r.base + r.width ≤ k) → u.col k = t.col k))

/-! ## Vector memory, passes and modes -/

namespace Sys2Proof.Machine

/-- A preamble that VLD, VLDFF, HSRD and KVLOOK.ld take into a register: its head passes, no scale, not sparse, no wider than the
register, which is writable, and no POISON where poison traps (R301, R376). -/
def loadable (t : Task) (v : VReg) (m : MemTile) (b : List Byte) : Prop :=
  m.headOk b = true ∧ m.cap.scl = 0 ∧ m.cap.spr = 0 ∧ m.cap.f.width ≤ v.width ∧ v.c.ro = false ∧ (t.tptrap && m.cap.poison) = false

/-- The register `vd` after a load of the elements `got` of a tile: the values, and the cap, poisoned where a byte failed. -/
def loaded (u : Task) (vd : Nat) (c : Cap) (due : Option (Nat × Word)) (got : List (Nat × Nat × Option (Nat × Word))) : Task :=
  let due := firstDue due (got.findSome? fun x => x.2.2)
  (u.writeElems vd (cellSet (got.map (·.1))) c.f (got.map fun x => (x.1, x.2.1))).writeCap vd
    { c with discard := false, poison := c.poison || due.isSome }.bits

/-- A load that is complete but for its counter: one more load in flight, vstart zero, no record. -/
def inFlight (u : Task) (x : VLoad) : Task :=
  { u with ocld := u.ocld + 1, vld := u.vld ++ [x], vstart := 0, resume := none }

end Sys2Proof.Machine

/-- VLD and VLDFF complete (R301, R303) where the preamble is loadable and the elements of the active cells are read: VLDFF reads only those
below the first short cell, and vl becomes that cell. `s₂` is the machine after the preamble, `s₃` at the side ports, `s₄` after VLDFF's
test of the pages, `s₅` after the elements. That register and memory move at issue (log 34), that a VLDFF whose first cell is short
completes where an NS page is mapped (log 67) and that a tile of FMT NONE may be loaded (log 86) are the model's choices. VST completes
(R302) where every element of the active cells passes its checks and is written: the preamble is written last. The data moves at issue
(log 34). VECTOR_ACCESS_COMPLETE (R165, R200): the oldest vector load or store of a task is done: its counter falls, and a load's fault
becomes due at the next WAIT; one of class 7 is logged at once. A task with none in flight is unchanged. -/
def Obligations.VectorMemoryComplete : Prop :=
  (∀ (ff : Bool) p vd h sb disp s t, s.curTask = some t → laneActive .cell p t = true →
  let i : Instr := if ff then .vldff p vd h sb disp else .vld p vd h sb disp
  let r := capture i p t
  t.held i = none → t.ocld < 65535 → ∀ v, t.vreg vd = some v →
  ∀ hd s₁, useHandle h s = .ok (hd, s₁) →
  let o := vecOffset t sb disp
  ∀ m b a due s₂, readPreamble hd o s₁ = .ok ((m, b, a, due), s₂) → loadable t v m b →
  ∀ s₃, sidePort [] (t.regCols vd) s₂ = .ok ((), s₃) →
  ∀ short s₄, (if ff then firstShort (fun e => elemShort hd (o + m.poff) m.cap.f.align
      (pieces m.cap.f m.cap.planes m.cap.count (r.flat t e))) (r.tileCells t m.cap.count 0) else pure none) s₃ = .ok (short, s₄) →
  ∀ u, s₄.curTask = some u →
  let cells := (r.tileCells u m.cap.count 0).filter fun e => match short with | some k => k == 0 || decide (e < k) | none => true
  ∀ got s₅, untilFails (fun e => m.readElem (pieces m.cap.f m.cap.planes m.cap.count (r.flat u e))) cells s₄ = .ok ((got, none), s₅) →
  ∀ w, s₅.curTask = some w →
    let w₁ := loaded w vd m.cap due got
    let w₂ := match short with | some k => if k = 0 then w₁ else { w₁ with avl := BitVec.ofNat 40 (r.flat w₁ k) } | none => w₁
    let x : VLoad := ⟨firstDue due (got.findSome? fun x => x.2.2), hbmPart m.h (packedSize m.cap.f cells.length)⟩
    exec i s = .next (s₅.setTask ((inFlight w₂ x).awake.retire i))) ∧
  (∀ p va h sb disp s t, s.curTask = some t → laneActive .cell p t = true → t.held (.vst p va h sb disp) = none →
  let r := capture (.vst p va h sb disp) p t
  ∀ v, t.vreg va = some v → capPasses v.cap = true → v.c.discard = false → v.c.f ≠ .none → (t.tptrap && v.c.poison) = false →
  t.ocst < 65535 → ∀ hd s₁, useHandle h s = .ok (hd, s₁) →
  let o := vecOffset t sb disp
  ∀ a s₂, checkAccess hd o 64 .write 64 s₁ = .ok (a, s₂) →
  ∀ l s₃, readBytes hd false false .write a 64 s₂ = .ok (l, s₃) →
  ∀ b s₄, freeBytes l s₃ = .ok (b, s₄) →
  ((capPasses (MemTile.of hd o b).bits && (MemTile.of hd o b).cap.ro) = false) →
  ∀ s₅, sidePort v.readCols (if hd.space = .comblin then combByteCols 0 32 else []) s₄ = .ok ((), s₅) →
  ∀ u, s₅.curTask = some u →
  let c := Cap.of v.cap
  let cells := r.tileCells u c.count 0
  ∀ x s₆, untilFails (fun e => checkPieces hd (o + 64) c.f.align (storePieces c (r.flat u e))) cells s₅ = .ok ((x, none), s₆) →
  ∀ y s₇, untilFails (fun e => writePieces hd (o + 64) c.f.align c.f (u.elem (u.reg! va).base c e) (storePieces c (r.flat u e)))
      cells s₆ = .ok ((y, none), s₇) →
  ∀ s₈, writeBytes hd false false .write (hd.addr o) (preambleBytes c 64 0 0 (denseSize c.f c.count)) s₇ = .ok ((), s₈) →
  ∀ w, s₈.curTask = some w →
    exec (.vst p va h sb disp) s = .next (s₈.setTask
      (({ w with
          ocst := w.ocst + 1, vst := w.vst ++ [hbmPart hd (packedSize c.f cells.length)], vstart := 0, resume := none } : Task).awake.retire (.vst p va h sb disp)))) ∧
  (∀ s id t, s.task? id = some t →
    (∀ d rest, t.vld = d :: rest → exec (.vectorAccessComplete id false) s =
      .next ((s.setTask { t with vld := rest, ocld := t.ocld - 1, dues := t.dues ++ d.due.toList }).logDues d.due.toList)) ∧
    (t.vld = [] → exec (.vectorAccessComplete id false) s = .next s) ∧
    (∀ n rest, t.vst = n :: rest →
      exec (.vectorAccessComplete id true) s = .next (s.setTask { t with vst := rest, ocst := t.ocst - 1 })) ∧
    (t.vst = [] → exec (.vectorAccessComplete id true) s = .next s))

/-- PTLOAD, CMODE and VSCRUB complete (R313, R314, R142): PTLOAD writes the entries of its image, in supervisor mode, while no PSEQ that
reaches them runs; CMODE takes a lease of 1 to 65,535 cycles or ends it; VSCRUB changes nothing where no group fails, and takes
INTEG.COMBPAR with vstart 0 where one does. MODE_SWITCH and LEASE_EXPIRE move the combs between the modes: a switch to associative waits
for the lease, which does not run before the first instruction after a restore (R144). That PTLOAD reads its image with the task's own
queued stores is the model's choice (log 35). -/
def Obligations.PassTableAndModesComplete : Prop :=
  ∀ p h sb s t, s.curTask = some t → p.pn = false →
    (t.sup = true → ∀ hd s₁, useHandle h s = .ok (hd, s₁) → ∀ a s₂, checkAccess hd (t.rs sb).toNat 16 .read 16 s₁ = .ok (a, s₂) →
      ∀ l s₃, readTileBytes hd a 16 s₂ = .ok (l, s₃) → anyBad l = false → ∀ u, s₃.curTask = some u →
      let head := u.overlay 0 hd.space a (bytesOf l)
      let first := leNat (head.take 2)
      let count := leNat ((head.drop 2).take 2)
      2048 ≤ first → count ≠ 0 → first + count ≤ 4096 → (∀ x ∈ head.drop 4, x = 0) →
      ∀ a' s₄, checkAccess hd ((t.rs sb).toNat + 16) (16 * count) .read 16 s₃ = .ok (a', s₄) →
      ∀ l' s₅, readTileBytes hd a' (16 * count) s₄ = .ok (l', s₅) → anyBad l' = false → ∀ v, s₅.curTask = some v →
      let entries := imageEntries count (v.overlay 0 hd.space a' (bytesOf l'))
      (∀ e ∈ entries, entryOk e.1 e.2 = true) → s₅.sequenceRuns t.hive first count = false →
      exec (.ptload p h sb) s = .next
        (((s₅.setHive ((s₅.hive t.hive).writeEntries first entries)).andRetire (.ptload p h sb) t.id))) ∧
    (t.rs sb = 0 → exec (.cmode p sb) s =
      .next ((s.setTask { t with lease := none, linear := t.linear && !t.heldSwitch, heldSwitch := false }).andRetire (.cmode p sb) t.id)) ∧
    (0 < (t.rs sb).toNat → (t.rs sb).toNat < 65536 → exec (.cmode p sb) s = .next ((s.setTask
      { t with lease := some (s.cycle.toNat + (t.rs sb).toNat), linear := true, heldSwitch := false }).andRetire (.cmode p sb) t.id)) ∧
    (s.columnsBusy t t.liveCols [] = false → t.parityFails t.liveCols = [] →
      exec (.vscrub p) s = .next (s.setTask (({ t with linear := true, heldSwitch := false } : Task).awake.retire (.vscrub p)))) ∧
    (∀ v, s.columnsBusy t t.liveCols [] = false → ((t.parityFails t.liveCols).map (·.2)).min? = some v →
      exec (.vscrub p) s = .next (s.takeTrap
        { (t.parityFails t.liveCols).foldl (fun t f => t.poisonGroup f.1) t with linear := true, heldSwitch := false, vstart := 0, resume := none }
        cCOMBPAR (w64 v) t.pc)) ∧
    (∀ id u, s.task? id = some u →
      exec (.modeSwitch id true) s = .next (s.setTask { u with linear := true, heldSwitch := false }) ∧
      (u.lease = none → exec (.modeSwitch id false) s = .next (s.setTask { u with linear := false, heldSwitch := false })) ∧
      (∀ c, u.lease = some c → exec (.modeSwitch id false) s = .next (s.setTask { u with heldSwitch := true })) ∧
      (∀ c, u.lease = some c → u.place = .vlc → u.restored = none → c ≤ s.cycle.toNat → exec (.leaseExpire id) s =
        .next (s.setTask { u with lease := none, linear := u.linear && !u.heldSwitch, heldSwitch := false })) ∧
      (∀ c, u.lease = some c → s.cycle.toNat < c → exec (.leaseExpire id) s = .next (s.setTask u)))

/-! ## The matrix unit -/

namespace Sys2Proof.Machine

/-- The record of a task with an operation at the end of its matrix queue, counted in ocmx where it has a tag (R345, R165). -/
def Task.queued (t : Task) (since : Nat) (kind : MxKind) (armed tag : Option Nat) (dues : List (Nat × Word)) : Task :=
  { t with
    mx := { t.mx with queue := t.mx.queue ++ [{ kind := kind, armed := armed, tag := tag, step := 0, paused := none, flags := 0,
                                                dues := dues, since := since, rows := [] }] }
    ocmx := if tag.isSome then t.ocmx + 1 else t.ocmx }

end Sys2Proof.Machine

/-- MXATT, MXDET and MXZERO complete (R338): MXATT grants the lowest free runs of 32 rows, on the partner too where chaining is asked for, and
is a no-operation for a task that holds a grant; MXDET gives everything back once the queue is empty; MXZERO joins the queue. -/
def Obligations.MatrixGrantsComplete : Prop :=
  ∀ p sa sb ad s t, s.curTask = some t → p.pn = false →
    (∀ n ∈ ([1, 2, 3, 4] : List Nat), (t.rs sa).toNat = 32 * n → (t.rs sb).toNat ≤ 1 →
      (t.mx.rows = [] → t.mx.prows = [] →
        let chained := if t.rs sb = 1 then s.grantRuns t.partner n t.id else []
        exec (.mxatt p sa sb) s = .next
          ((s.setTask { t with mx := t.mx.attach (s.grantRuns t.unit n t.id) chained }).andRetire (.mxatt p sa sb) t.id)) ∧
      ((t.mx.rows ≠ [] ∨ t.mx.prows ≠ []) → exec (.mxatt p sa sb) s = .next (s.andRetire (.mxatt p sa sb) t.id))) ∧
    (t.mx.queue = [] → exec (.mxdet p) s = .next ((s.setTask
      { t with mx := { t.mx with rows := [], prows := [], tiles := [], ptiles := [] } }).andRetire (.mxdet p) t.id)) ∧
    (t.mx.rows ≠ [] → exec (.mxzero p ad) s = .next ((s.setTask (t.queued s.nextJob (.zero ad) none none [])).andRetire (.mxzero p ad) t.id)) ∧
    (t.mx.rows = [] → exec (.mxzero p ad) s = .next (s.takeTrap t cNOGRANT (iword (.mxzero p ad)) t.pc))

/-- MXMAC completes (R342, R343, R346, R347) where its checks pass: an operation with what it captured at issue joins the queue, its trigger
armed or not. `s₁` is the machine after arming; with B in the honey store `s₂` to `s₇` are those after the handle, the access, the
preamble, its bytes, the metadata and the accesses of the elements, which with the whole payload lie on the task's own die. That the
tile's format is the one it has at issue, not what the queue will make it, is the model's reading (log 16). -/
def Obligations.MatrixMultiplyCompletes : Prop :=
  ∀ p rm sat trig ad va vb h sb sa mm1 nm1 km1 s t, s.curTask = some t → laneActive .cell p t = true →
  (t.rs sa).toNat < 65536 → t.mx.rows ≠ [] → t.ocmx < 65535 → ∀ va', t.vreg va = some va' →
  let koff := (t.rs sa).toNat
  let lin (u : Task) : Task := { u with linear := true, heldSwitch := false }
  (∀ armed s₁, let i : Instr := .mxmac p rm sat trig ad va (.comb vb) sa mm1 nm1 km1
    armTrigger i 2 trig.armed s = .ok (armed, s₁) → s₁.curTask = some t → ∀ vb', t.vreg vb = some vb' →
    ∀ s₂, capChecks 0 [va'.operand 1 va, vb'.operand 2 vb] (mxInfer va'.c vb'.c true sat) none s₁ = .ok ((), s₂) →
    ∀ d, d = (mxDepth va'.c.f vb'.c.f).getD 1 →
    ∀ la s₃, depthOperands i 1 va d s₂ = .ok (la, s₃) → ∀ lb s₄, depthOperands i 2 vb d s₃ = .ok (lb, s₄) →
    ∀ s₅, depthChecks (la ++ lb) (fun k => if k = 1 then va'.c else vb'.c) s₄ = .ok ((), s₅) →
    mm1 + 1 ≤ t.mxRows → koff + (km1 + 1) ≤ 16 * t.combs →
    ((t.mx.tile ad).fmt = .none ∨ (t.mx.tile ad).fmt = (mxInfer va'.c vb'.c true sat).fmt) → s₅.curTask = some t →
    exec i s = .next (((s₅.setTask (lin t)).setTask ((lin t).queued s₅.nextJob (.mac
      { t := ad, va := va, capsA := va'.cap :: la.map (·.2.bits), b := .comb vb (vb'.cap :: lb.map (·.2.bits)), rm := rm, sat := sat,
        m := mm1 + 1, n := nm1 + 1, koff := koff, kcnt := km1 + 1, d := d, fp := (mxInfer va'.c vb'.c true sat).fmt.isFp,
        active := activeCells p t, vl := t.vl }) armed (some trig.tag) [])).andRetire i t.id)) ∧
  (∀ armed s₁, let i : Instr := .mxmac p rm sat trig ad va (.honey h sb) sa mm1 nm1 km1
    armTrigger i 2 trig.armed s = .ok (armed, s₁) → s₁.curTask = some t →
    ∀ hd s₂, useHandle h s₁ = .ok (hd, s₂) →
    let o := (t.rs sb).toNat
    ∀ pre s₃, honeyAccess hd o 64 64 s₂ = .ok (pre, s₃) → ∀ l s₄, readTileBytes hd pre 64 s₃ = .ok (l, s₄) →
    ∀ b s₅, freeBytes l s₄ = .ok (b, s₅) →
    ∀ m, m = MemTile.of hd o b → m.headOk b = true → capPasses va'.cap = true → va'.c.discard = false →
    ∀ inf, inf = mxInfer va'.c m.cap false sat → inf.mismatch = none → m.cap.rank = 1 → inf.unsupported = none →
    (m.cap.spr = 0 ∨ m.cap.spr = 2 ∨ m.cap.spr = 3) → (m.cap.zp = 0 ∨ m.cap.scl ≠ 0) →
    (t.tptrap && (va'.c.poison || m.cap.poison)) = false →
    ∀ s₆, (if m.cap.spr ≠ 0 then (do let _ ← honeyAccess hd (o + m.moff) m.cap.metaSize 1; pure ()) else pure ()) s₅ = .ok ((), s₆) →
    ∀ md due s₇, readMeta m pre s₆ = .ok ((md, due), s₇) →
    ∀ s₈, (do checkEach (honeyElem m md) (List.range m.cap.count); if m.plen ≠ 0 then onOwnDie hd (o + m.poff) m.plen) s₇ =
      .ok ((), s₈) →
    ∀ d, d = (mxDepth va'.c.f m.cap.f).getD 1 → ∀ la s₉, depthOperands i 1 va d s₈ = .ok (la, s₉) →
    ∀ s', depthChecks la (fun _ => va'.c) s₉ = .ok ((), s') →
    mm1 + 1 ≤ t.mxRows → d * (koff + (km1 + 1)) ≤ m.cap.ext 0 → nm1 + 1 ≤ m.cap.ext 1 → koff + (km1 + 1) ≤ 16 * t.combs →
    ((t.mx.tile ad).fmt = .none ∨ (t.mx.tile ad).fmt = inf.fmt) → s'.curTask = some t →
    exec i s = .next (((s'.setTask (lin t)).setTask ((lin t).queued s'.nextJob (.mac
      { t := ad, va := va, capsA := va'.cap :: la.map (·.2.bits), b := .honey (m.ref md), rm := rm, sat := sat,
        m := mm1 + 1, n := nm1 + 1, koff := koff, kcnt := km1 + 1, d := d, fp := inf.fmt.isFp, active := activeCells p t, vl := t.vl })
      armed (some trig.tag) (addDues (badDue hd pre l).toList due.toList))).andRetire i t.id))

/-- MXLD, MXRD, MXSCL and MXDRAIN complete (R349 to R353) where their checks pass: each joins the queue with what it captured. That MXRD and
MXDRAIN look at the format that the tile has at issue, whatever is queued, is the model's reading (log 16). -/
def Obligations.MatrixTransfersComplete : Prop :=
  ∀ p rm trig ad sa sb h va vb mm1 nm1 tfmt ozp usep rowt dclr s t, s.curTask = some t → t.mx.rows ≠ [] → t.ocmx < 65535 →
  ∀ i armed s₁, armTrigger i 2 trig.armed s = .ok (armed, s₁) → s₁.curTask = some t →
    (i = .mxld p trig ad sa h → p.pn = false → ∀ hd s₂, useHandle h s₁ = .ok (hd, s₂) →
      ∀ m b a due s₃, readPreamble hd (t.rs sa).toNat s₂ = .ok ((m, b, a, due), s₃) → m.headOk b = true →
      (m.cap.f = .fp fp32 ∨ m.cap.f = .sint 32) → m.cap.scl = 0 → m.cap.spr = 0 →
      m.cap.rank ≤ 1 → m.cap.ext 0 ≤ 128 → m.cap.ext 1 ≤ t.mxRows → (t.tptrap && m.cap.poison) = false →
      ∀ x s₄, checkStatic hd ((t.rs sa).toNat + m.poff) (4 * m.cap.count) .read 4 s₃ = .ok (x, s₄) →
      ∀ u, s₄.curTask = some u → u.ocmx < 65535 → exec i s = .next ((s₄.setTask
        (u.queued s₄.nextJob (.ld ad (m.ref ⟨[], []⟩)) armed (some trig.tag) due.toList)).andRetire i t.id)) ∧
    (i = .mxrd p trig ad sa sb h → p.pn = false → (t.mx.tile ad).fmt ≠ .none → ∀ hd s₂, useHandle h s₁ = .ok (hd, s₂) →
      ∀ a s₃, checkStatic hd (t.rs sa).toNat (64 + 512 * t.mxRows) .write 64 s₂ = .ok (a, s₃) →
      ∀ s₄, (do targetRo hd a; checkLeaves hd .write (pageStarts a (64 + 512 * t.mxRows))) s₃ = .ok ((), s₄) →
      ∀ x s₅, (do let b ← checkStatic hd (t.rs sb).toNat 8 .write 8; checkLeaves hd .write [b]; pure b) s₄ = .ok (x, s₅) →
      ∀ u, s₅.curTask = some u → u.ocmx < 65535 → exec i s = .next ((s₅.setTask
        (u.queued s₅.nextJob (.rd ad hd (t.rs sa).toNat (t.rs sb).toNat) armed (some trig.tag) [])).andRetire i t.id)) ∧
    (i = .mxscl p trig sa h → p.pn = false → ∀ hd s₂, useHandle h s₁ = .ok (hd, s₂) →
      ∀ x s₃, checkStatic hd (t.rs sa).toNat 1024 .read 64 s₂ = .ok (x, s₃) →
      ∀ u, s₃.curTask = some u → u.ocmx < 65535 → exec i s = .next ((s₃.setTask
        (u.queued s₃.nextJob (.scl hd (t.rs sa).toNat) armed (some trig.tag) [])).andRetire i t.id)) ∧
    (i = .mxdrain p rm trig va ad vb sa mm1 nm1 tfmt ozp usep rowt dclr → laneActive .cell p t = true →
      ∀ v, t.vreg va = some v → ∀ row : Option VReg, (rowt = true → row = t.vreg vb ∧ row ≠ none) → (rowt = false → row = none) →
      mm1 + 1 ≤ t.mxRows → (t.rs sa).toNat + nm1 + (nm1 + 1) * mm1 < t.vlmax → (t.mx.tile ad).fmt ≠ .none →
      let f := (Fmt.of tfmt.toNat).getD .none
      let tc := (t.mx.tile ad).cap
      drainTarget f = true →
      ∀ s₂, capChecks va ((⟨1, ad, Cap.of tc, tc⟩ : Operand) :: (match row with | some r => [r.operand 2 vb] | none => []))
        { mismatch := none, shapes := [], unsupported := (match row with | some r => if rowTermOk r.c then none else some 2 | none => none),
          fmt := f } (some (v, f.width)) s₁ = .ok ((), s₂) → s₂.curTask = some t →
      let u : Task := { t with linear := true, heldSwitch := false }
      exec i s = .next (((s₂.setTask u).setTask (u.queued s₂.nextJob (.drain
        { t := ad, va := va, rm := rm, row := row.map fun r => (vb, r.cap), e0 := (t.rs sa).toNat, m := mm1 + 1, n := nm1 + 1, tfmt := tfmt,
          ozp := ozp, usep := usep, dclr := dclr, active := activeCells p t }) armed (some trig.tag) [])).andRetire i t.id))

/-! ## Engine jobs: the forager, the copy engine and the honey store -/

/-- Arming (R72, R362): an instruction without a term starts at once; on a term the task owns whose target is the engine's, a pending firing
is taken, and else the job stays armed; any other term raises INSN.ILLFN. Issuing a job (R165, R170, R362): it joins the jobs of its
hive's stack with the next number, and its class counts it; it stalls only where the counter, or for a tracked job the stack's 1,024
entries, are full, and then until one of the jobs that fill it is done. A job with a barrier object keeps what is captured of the object
at issue (R173): its address, and BGEN of its first eight bytes. That a job has such an object, though no instruction names one, is the
model's (log 50). -/
def Obligations.ArmingAndIssueOfJobs : Prop :=
  (∀ i tgt n s t, s.curTask = some t → let h := s.hive t.hive
    let e := h.term n
    armTrigger i tgt none s = .ok (none, s) ∧
    ((e.owner ≠ some t.id ∨ e.tgt ≠ tgt) → armTrigger i tgt (some n) s = .error (.trap cILLFN (iword i))) ∧
    (e.owner = some t.id → e.tgt = tgt → e.pend = 0 → armTrigger i tgt (some n) s = .ok (some n, s)) ∧
    (e.owner = some t.id → e.tgt = tgt → 0 < e.pend → armTrigger i tgt (some n) s =
      .ok (none, s.setHive { h with terms := h.terms.set n { e with pend := e.pend - 1 } }))) ∧
  ((∀ s, captureArrival none s = .ok (none, s)) ∧
  (∀ hd o s x s', captureArrival (some (hd, o)) s = .ok (x, s') → ∃ r a ph s₁ s₂ l, x = some r ∧ hd.bar = true ∧ o + 64 ≤ hd.bound ∧
    a % 64 = 0 ∧ barrierAccess hd o true s = .ok (a, s₁) ∧ physOf hd a s₁ = .ok (ph, s₂) ∧
    readBytes hd true false .read a 8 s₂ = .ok (l, s') ∧ r.handle = hd ∧ r.addr = a ∧ r.gen = leNat (bytesOf l)) ∧
  ∀ kind cls input armed regions promise dues obj arrival s₀ s t, captureArrival obj s₀ = .ok (arrival, s) → s.curTask = some t →
    let j : Job :=
      { id := s.nextJob, task := t.id, vf := t.vf, launch := t.launch, stack := dieOf t.hive, hive := t.hive, kind := kind, cls := cls,
        input := input, armed := armed, regions := regions, promise := promise, rebased := none, paused := none, pausedAt := 0,
        progress := 0, dues := dues, flags := 0, arrival := arrival }
    let held := s.jobs.filter fun k => k.tracked && k.stack == j.stack
    let full := j.tracked = true ∧ 1024 ≤ held.length
    (¬full → t.counter cls < 65535 → issueJob kind cls input armed regions promise dues obj s₀ =
      .ok (s.nextJob, State.setTask { s with jobs := s.jobs ++ [j], nextJob := s.nextJob + 1 } (t.count cls))) ∧
    (full → issueJob kind cls input armed regions promise dues obj s₀ = .error (.stall (.jobs none (held.map (·.id))))) ∧
    (¬full → 65535 ≤ t.counter cls → issueJob kind cls input armed regions promise dues obj s₀ =
      .error (.stall (.jobs none ((s.jobs.filter fun k => k.task == t.id && k.cls == cls).map (·.id))))))

/-- FGATH, FSCAT and FSCATA complete (R363 to R366) where every active element passes its checks: the job with the elements, in ascending cell
order, is issued under its footprint set; FGATH writes its destination's cap at once; a scatter keeps of equal offsets the highest cell.
-/
def Obligations.GathersAndScattersComplete : Prop :=
  ∀ p rm trig vd vi h (fset : BitVec 12) (gfmt : BitVec 8) lsc rbase s t, s.curTask = some t → laneActive .cell p t = true →
  (∀ i, armCheck i 1 trig.armed s = .ok ((), s)) → vd ≠ vi → ∀ d x, t.vreg vd = some d → t.vreg vi = some x →
  (let i : Instr := .fgath p trig vd vi h fset gfmt lsc rbase;
    let f := (Fmt.of gfmt.toNat).getD .none
    let inf : Inferred := { mismatch := none, shapes := [], unsupported := if indexOk x.c then none else some 1, fmt := f,
                            word := if foragerFmt f then none else some (iext i) }
    ∀ s₁, capChecks vd [x.operand 1 vi] inf (some (d, f.width)) s = .ok ((), s₁) →
    ∀ hd s₂, useHandle h s₁ = .ok (hd, s₂) →
    let elems := (t.activeList p).map fun e => (⟨e, indexOffset t x lsc rbase e, 0⟩ : Elem)
    ∀ s₃, checkEach (fun e => do let _ ← checkStatic hd e.off f.bytes .read f.bytes; pure ()) elems s₂ = .ok ((), s₃) →
    ∀ regions s₄, footprintSet fset.toNat s₃ = .ok (regions, s₄) → ∀ s₅, sidePort x.readCols (t.regCols vd) s₄ = .ok ((), s₅) →
    ∀ armed s₆, armTake trig.armed s₅ = .ok (armed, s₆) →
    ∀ j s₇, issueJob (.gather vd gfmt hd elems) .ld (some (8 + trig.tag)) armed regions none [] none s₆ = .ok (j, s₇) →
    ∀ u, s₇.curTask = some u →
      exec i s = .next ((s₇.setTask (u.writeCap vd (inferredCap f x.c 0 0 [x.c]).bits)).andRetire i t.id)) ∧
  (∀ (add : Bool), let i : Instr := if add then .fscata p rm trig vd vi h fset lsc rbase else .fscat p trig vd vi h fset lsc rbase
    ∀ y s₁, scatterChecks i vd vi (if add then scataFmt else foragerFmt) s = .ok (y, s₁) →
    ∀ hd s₂, useHandle h s₁ = .ok (hd, s₂) →
    let f := y.1.c.f
    let elems := scatterElems t p y.1 y.2 lsc rbase
    ∀ s₃, checkEach (fun e => if add then scataAccess hd f.bytes e
        else (do let _ ← checkStatic hd e.off f.bytes .write f.bytes; pure ())) elems s₂ = .ok ((), s₃) →
    ∀ regions s₄, footprintSet fset.toNat s₃ = .ok (regions, s₄) → ∀ s₅, sidePort (y.1.readCols ++ y.2.readCols) [] s₄ = .ok ((), s₅) →
    ∀ armed s₆, armTake trig.armed s₅ = .ok (armed, s₆) →
    ∀ j s₇, issueJob (if add then .scata (BitVec.ofNat 8 y.1.c.fmt) rm hd elems else .scatter (BitVec.ofNat 8 y.1.c.fmt) hd (lastWriters elems))
        .st (some (8 + trig.tag)) armed regions none [] none s₆ = .ok (j, s₇) →
      exec i s = .next (s₇.andRetire i t.id))

/-- FSTRM, FGSYNC, VPOP and VPUSH complete (R367 to R372): FSTRM answers 1 where its queue is in use, pulses at once for an unarmed stream of
no elements, and else issues its job and opens the queue; FGSYNC ends the outbound streams it names and answers the inbound elements
dropped; VPOP and VPUSH move the elements that are there when the queue lets them finish: the faults of the elements popped become due
(R200). -/
def Obligations.StreamsComplete : Prop :=
  ∀ p trig sd sa sb h (fset : BitVec 12) (sfmt : BitVec 8) (dir : Bool) q (stride : BitVec 32) (mask : BitVec 8) v s t,
  s.curTask = some t →
  (let i : Instr := .fstrm p trig sd sa sb h fset sfmt dir q stride;
    let f := (Fmt.of sfmt.toNat).getD .none
    let count := (t.rs sb).toNat
    p.pn = false → armCheck i 1 trig.armed s = .ok ((), s) → count < 2 ^ 40 → foragerFmt f = true →
    ∀ hd s₁, useHandle h s = .ok (hd, s₁) →
    ∀ s₂, streamChecks hd (t.rs sa).toNat stride.toInt count f.bytes (if dir then .write else .read) s₁ = .ok ((), s₂) →
    ∀ regions s₃, footprintSet fset.toNat s₂ = .ok (regions, s₃) → s₃.curTask = some t →
    ((t.queue q).st ≠ .idle → exec i s = .next ((s₃.setTask (t.ws sd 1)).andRetire i t.id)) ∧
    ((t.queue q).st = .idle → ∀ armed s₄, armTake trig.armed s₃ = .ok (armed, s₄) →
      (count = 0 → armed = none → ∀ u, (s₄.pulse t.hive t.id (8 + trig.tag)).curTask = some u →
        exec i s = .next (((s₄.pulse t.hive t.id (8 + trig.tag)).setTask (u.ws sd 0)).andRetire i t.id)) ∧
      ((count ≠ 0 ∨ armed ≠ none) → ∀ j s₅, issueJob (.stream (!dir) q sfmt hd (t.rs sa).toNat stride.toInt count) (if dir then .st else .ld)
          (some (8 + trig.tag)) armed regions none [] none s₄ = .ok (j, s₅) → ∀ u, s₅.curTask = some u →
        let x : FQueue := { st := if dir then .outbound else .inbound, fmt := sfmt, elems := [], count := count, moved := 0, written := 0, job := j }
        exec i s = .next ((s₅.setTask ((u.setQueue q x).ws sd 0)).andRetire i t.id)))) ∧
  (let qs := maskQueues mask;
    p.pn = false → t.outboundLeft qs = false →
    let n := (qs.map fun q => if (t.queue q).st = .inbound then (t.queue q).elems.length else 0).sum
    let s₁ := qs.foldl (fun s q => s.syncQueue t.id q) (s.setTask (t.endOutbound qs))
    ∀ u, s₁.curTask = some u → exec (.fgsync p sd mask) s = .next (s₁.setTask ((u.awake.ws sd (w64 n)).retire (.fgsync p sd mask)))) ∧
  (∀ d, let i : Instr := .vpop p sd v q
    laneActive .cell p t = true → t.held i = none → t.vreg v = some d → (t.queue q).st ≠ .outbound →
    let f := if (t.queue q).st = .idle then d.c.f else (t.queue q).f
    f ≠ .none → f.width ≤ d.width → d.c.ro = false →
    ∀ s₁, sidePort [] (t.regCols v) s = .ok ((), s₁) → ∀ u, s₁.curTask = some u →
    let x := u.queue q
    let r := capture i p t
    let isOpen : Bool := decide (x.st = .inbound) && (s₁.job? x.job).isSome
    ∀ vals rest k ds, popFrom r.active (r.sfill.toNat % 2 ^ f.width) isOpen (List.range r.vl) x.elems = (vals, rest, k, ds, none) →
    let u₁ : Task := { (u.setQueue q { x with elems := rest }).writeElems v (cellSet (vals.map (·.1))) f vals with linear := true, heldSwitch := false }
    let s₂ := s₁.setTask u₁
    let s₃ := match s₂.job? x.job with
      | some j => s₂.setJob { j with dues := addDues j.dues ds }
      | none => (s₂.setTask { u₁ with dues := u₁.dues ++ ds }).logDues ds
    ∀ w, s₃.curTask = some w →
    let cap : Cap := { inferredCap f { Cap.blank with d0 := slotExtent r.vl } 0 0 [] with poison := !ds.isEmpty }
    let u₃ : Task := { ((s₁.settleQueue w q).writeCap v cap.bits).ws sd (w64 k) with vstart := 0, resume := none }
    exec i s = .next (s₃.setTask (u₃.awake.retire i))) ∧
  (∀ d, let i : Instr := .vpush p sd v q
    laneActive .cell p t = true → t.held i = none → t.vreg v = some d → (t.queue q).st = .outbound →
    capPasses d.cap = true → d.c.discard = false → d.c.fmt = (t.queue q).fmt.toNat → (t.tptrap && d.c.poison) = false →
    ∀ s₁, sidePort d.readCols [] s = .ok ((), s₁) → ∀ u, s₁.curTask = some u →
    ∀ y, pushFrom (u.elem (u.reg! v).base d.c) ((capture i p t).cells.filter fun e => decide (0 ≤ e)) (u.queue q) = (y, none) →
    let u₁ : Task := { u.setQueue q y with linear := true, heldSwitch := false }
    let u₂ : Task := { u₁.ws sd (w64 (y.moved - (u.queue q).moved)) with vstart := 0, resume := none }
    exec i s = .next (s₁.setTask (u₂.awake.retire i)))

/-- COPY and COPY2D complete (R373, R375): a copy of no bytes that is not armed pulses at once and answers the cycle; any other is issued with
its promise, which it answers. HSRD issues its stream with the cap of the tile, past the hive cache (R376); HSWR writes the honey store,
in supervisor mode and alone in its partition, and in a user task raises INSN.PRIV (R377); that its source is read with the task's own
queued stores is the model's choice (log 35). -/
def Obligations.CopiesAndHoneyAccessesComplete : Prop :=
  ∀ p trig sd sa sb h (fset : BitVec 12) sh sor vd s t, s.curTask = some t →
  (∀ i most len rows dur (ds ss : Int), (i, most, len, rows, dur, ds, ss) ∈
      ([(.copy p trig sd sa sb h fset sh sor, 2 ^ 40, (t.rs sb).toNat, 1, ceilDiv (t.rs sb).toNat 32, 0, 0),
        (.copy2d p trig sd sa sb h fset sh sor, 2 ^ 32, (t.rs sb).toNat, (t.rs (sb + 1)).toNat,
          (t.rs (sb + 1)).toNat * (ceilDiv (t.rs sb).toNat 32 + 1), (t.rs (sb + 2)).toInt, (t.rs (sb + 3)).toInt)] :
        List (Instr × Nat × Nat × Nat × Nat × Int × Int)) →
    p.pn = false → armCheck i 0 trig.armed s = .ok ((), s) → len ≤ most → rows ≤ 2 ^ 32 → len * rows ≤ 2 ^ 40 →
    ∀ hd s₁, useHandle h s = .ok (hd, s₁) → ∀ hs s₂, useHandle sh s₁ = .ok (hs, s₂) →
    ∀ s₃, copyRowChecks hd hs (t.rs sa).toNat (t.rs sor).toNat ds ss len 0 (if len = 0 then 0 else rows) s₂ = .ok ((), s₃) →
    ∀ regions s₄, footprintSet fset.toNat s₃ = .ok (regions, s₄) → ∀ armed s₅, armTake trig.armed s₄ = .ok (armed, s₅) →
    (len * rows = 0 → armed = none → ∀ u v, s₅.curTask = some u → (s₅.pulse u.hive u.id trig.tag).curTask = some v →
      exec i s = .next (((s₅.pulse u.hive u.id trig.tag).setTask (v.ws sd s₄.cycle)).andRetire i t.id)) ∧
    (∀ pr s₆, (len * rows ≠ 0 ∨ armed ≠ none) →
      (if len * rows = 0 then pure s₄.cycle.toNat
        else promiseFor regions dur (if hs.space = .honey then 384 * (ceilDiv dur 1536 + 1) else 0)) s₅ = .ok (pr, s₆) →
      ∀ j s₇, issueJob (.copy hd hs (t.rs sa).toNat (t.rs sor).toNat len rows ds ss) .cp (some trig.tag) armed regions (some pr) [] none s₆ =
        .ok (j, s₇) → ∀ u, s₇.curTask = some u →
      exec i s = .next ((s₇.setTask (u.ws sd (w64 pr))).andRetire i t.id))) ∧
  (let i : Instr := .hsrd p trig sa vd h;
    laneActive .cell p t = true → armCheck i 1 trig.armed s = .ok ((), s) → ∀ v, t.vreg vd = some v →
    ∀ hd s₁, useHandle h s = .ok (hd, s₁) → let o := (t.rs sa).toNat
    ∀ a s₂, hsrdAccess hd o 64 64 s₁ = .ok (a, s₂) → ∀ l s₃, engineBytes hd a 64 s₂ = .ok (l, s₃) →
    ∀ b s₄, freeBytes l s₃ = .ok (b, s₄) → let m := MemTile.of hd o b
    let r := capture i p t
    loadable t v m b → let cells := (r.tileCells t m.cap.count 0).map fun e => (e, r.flat t e)
    ∀ s₅, checkEach (fun c => checkEach (fun (x : Piece) => do
        let _ ← hsrdAccess hd (o + m.poff + x.off) x.bytes m.cap.f.align
        pure ()) (pieces m.cap.f m.cap.planes m.cap.count c.2)) cells s₄ = .ok ((), s₅) →
    ∀ s₆, sidePort [] (t.regCols vd) s₅ = .ok ((), s₆) → ∀ armed s₇, armTake trig.armed s₆ = .ok (armed, s₇) →
    ∀ j s₈, issueJob (.hsrd vd (m.ref ⟨[], []⟩) cells) .ld (some (24 + trig.tag)) armed [] none (badDue hd a l).toList none s₇ = .ok (j, s₈) →
    ∀ u, s₈.curTask = some u → exec i s = .next ((s₈.setTask (u.writeCap vd
      { m.cap with discard := false, poison := m.cap.poison || (badDue hd a l).isSome }.bits)).andRetire i t.id)) ∧
  (let i : Instr := .hswr p sa sb h sh sor;
    let n := (t.rs sb).toNat
    p.pn = false → (t.sup = false → exec i s = .next (s.takeTrap t cPRIV (iword i) t.pc)) ∧
    (t.sup = true → n ≤ 2 ^ 34 → n % 64 = 0 →
    ∀ hd s₁, useHandle h s = .ok (hd, s₁) → ∀ hs s₂, useHandle sh s₁ = .ok (hs, s₂) →
    let a := hd.addr (t.rs sa).toNat
    let b := hs.addr (t.rs sor).toNat
    checkBound hs (t.rs sor).toNat n s₂ = .ok ((), s₂) → checkBound hd (t.rs sa).toNat n s₂ = .ok ((), s₂) → s₂.everReady.getLsbD 25 = true →
    hs.space = .hbm → hd.space = .honey → hs.r = true → hd.w = true → a % 64 = 0 →
    s₂.curTask = some t → ∀ pt, s₂.part? t.vf = some pt → (n = 0 ∨ pt.ownsDie (fld a 31 3) ∧ pt.ownsDie (fld (a + n - 1) 31 3)) →
    s₂.otherTasks t = false →
    (n = 0 → exec i s = .next (s₂.setTask (t.awake.retire i))) ∧
    (n ≠ 0 → (∀ g k, s₂.refreshing = some g → k < n / 4096 + 2 → (a / 4096 + k) * 4096 < a + n → (a / 4096 + k) % 16 ≠ g) →
    ∀ s₃, probeAll hs .read (pageStarts b n) s₂ = .ok ((), s₃) → ∀ l s₄, readBytes hs false false .read b n s₃ = .ok (l, s₄) →
    anyBad l = false → ∀ bs s₅, freeBytes l s₄ = .ok (bs, s₅) → ∀ v, s₅.curTask = some v → let seen := v.overlay 0 hs.space b bs
    ∀ u, (s₅.honeyWrite a seen).curTask = some u → exec i s = .next ((s₅.honeyWrite a seen).setTask (u.awake.retire i)))))

/-- SPST and SPLD complete (R378, R379): SPST writes the records of the present elements one after the other, then the table of their offsets
and the preamble, where its earlier preamble leaves them room; with more records than one it stands between them with vstart at the next.
SPLD loads each active element, an absent one as R96 gives it. That SPST's bytes and SPLD's elements move in the steps of the issue, not
later, is the model's choice (log 34). -/
def Obligations.SparseTransfersComplete : Prop :=
  ∀ p sa r h s t, s.curTask = some t → laneActive .cell p t = true → ∀ v, t.vreg r = some v → let o := (t.rs sa).toNat
  (let i : Instr := .spst p sa r h;
    let c := v.c
    (t.held i = none → capPasses v.cap = true → c.discard = false → (c.f.isInt = true ∨ c.f.isFp = true) → c.count ≤ t.vl → (t.tptrap && c.poison) = false →
    t.ocst < 65535 → ∀ hd s₁, useHandle h s = .ok (hd, s₁) → ∀ a s₂, checkAccess hd o 64 .write 64 s₁ = .ok (a, s₂) →
    ∀ l s₃, readBytes hd false false .write a 64 s₂ = .ok (l, s₃) → ∀ old s₄, freeBytes l s₃ = .ok (old, s₄) →
    (capPasses (MemTile.of hd o old).bits && (MemTile.of hd o old).cap.ro) = false →
    let k := ceilDiv c.count 128
    let records := (List.range k).map (sparseRecord c c.count (t.elem v.base c) (bitOf (activeCells p t)))
    let poff := 64 + 64 * ceilDiv (4 * (k + 1)) 64
    let plen := (records.map List.length).sum
    plen ≤ (MemTile.of hd o old).plen → ∀ x s₅, checkAccess hd o (poff + plen) .write 64 s₄ = .ok (x, s₅) →
    ∀ s₆, sidePort v.readCols (if hd.space = .comblin then combByteCols 0 32 else []) s₅ = .ok ((), s₆) →
    (k ≤ 1 → ∀ s₇, writeBytes hd false false .write (hd.addr (o + poff)) records.flatten s₆ = .ok ((), s₇) →
      ∀ s₈, writeBytes hd false false .write (hd.addr (o + 64)) (recordTable 0 (records.map List.length)) s₇ = .ok ((), s₈) →
      ∀ s₉, writeBytes hd false false .write (hd.addr o) (preambleBytes { c with spr := 1 } poff 0 64 plen) s₈ = .ok ((), s₉) →
      ∀ u, s₉.curTask = some u → exec i s = .next (s₉.setTask
        (({ u with ocst := u.ocst + 1, vst := u.vst ++ [hbmPart hd plen], vstart := 0, resume := none } : Task).awake.retire i))) ∧
    (2 ≤ k → ∀ s₇, writeBytes hd false false .write (hd.addr (o + poff)) (records.headD []) s₆ = .ok ((), s₇) →
      ∀ u, s₇.curTask = some u →
      let r : Resume := { capture i p t with key := w64 o, total := poff, caps := [v.cap],
                                             order := k :: records.map List.length ++ records.flatten.map (·.toNat) }
      exec i s = .next (s₇.setTask { u with vstart := 1, resume := some r }))) ∧
    (∀ r, t.held i = some r → ∀ hd s₁, useHandle h s = .ok (hd, s₁) →
      ∀ s₂, sidePort [] (if hd.space = .comblin then combByteCols 0 32 else []) s₁ = .ok ((), s₂) →
      let n := t.vstart.toNat
      ∀ s₃, spstWrite hd r n s₂ = .ok ((), s₃) → ∀ u, s₃.curTask = some u →
      (n + 1 < r.lengths.length → exec i s = .next (s₃.setTask { u with vstart := BitVec.ofNat 32 (n + 1), resume := some r })) ∧
      (r.lengths.length ≤ n + 1 → exec i s = .next (s₃.setTask
        (({ u with ocst := u.ocst + 1, vst := u.vst ++ [hbmPart hd r.kept.length], vstart := 0, resume := none } : Task).awake.retire i))))) ∧
  (let i : Instr := .spld p sa r h;
    t.held i = none → t.ocld < 65535 → ∀ hd s₁, useHandle h s = .ok (hd, s₁) →
    ∀ m b a due s₂, readPreamble hd o s₁ = .ok ((m, b, a, due), s₂) → m.headOk b = true → m.cap.scl = 0 → m.cap.spr = 1 →
    m.cap.f.width ≤ v.width → v.c.ro = false → (t.tptrap && m.cap.poison) = false →
    ∀ md due' s₃, readMeta m a s₂ = .ok ((md, due'), s₃) → ∀ s₄, sidePort [] (t.regCols r) s₃ = .ok ((), s₄) → ∀ u, s₄.curTask = some u →
    let cells := (capture i p t).tileCells u m.cap.count 0
    ∀ got s₅, untilFails (fun e => spldElem m md ((capture i p t).flat u e)) cells s₄ = .ok ((got, none), s₅) →
    ∀ w, s₅.curTask = some w → let d := firstDue due due'
      let x : VLoad := ⟨firstDue d (got.findSome? fun x => x.2.2), hbmPart m.h (packedSize m.cap.f cells.length)⟩
      exec i s = .next (s₅.setTask ((inFlight (loaded w r { m.cap with spr := 0 } d got) x).awake.retire i)))

/-- CONTRACT and ATTN complete (R380, R381, R408) where their checks pass: CONTRACT issues a job under its footprint set and joins the matrix
queue with its three tiles; ATTN joins it with the LIVE blocks of the sequence, in order, and answers the number of blocks that are
EVICTING or REMOTE. That uncorrectable bytes of a parameter block are taken as zero (logs 15 and 44), and that ATTN's blocks have the cap
BCAP (log 43), are the model's. -/
def Obligations.ContractAndAttentionComplete : Prop :=
  ∀ p trig sd sa h (fset : BitVec 12) s t, s.curTask = some t → armCheck (.contract p trig sa h fset) 2 trig.armed s = .ok ((), s) →
  ∀ hd s₁, useHandle h s = .ok (hd, s₁) → t.mx.rows ≠ [] →
  (p.pn = false → ∀ a s₂, checkAccess hd (t.rs sa).toNat 128 .read 64 s₁ = .ok (a, s₂) →
    ∀ l s₃, readTileBytes hd a 128 s₂ = .ok (l, s₃) → ∀ k, ContractBlock.of (zeroBad l) = some k →
    ∀ x s₄, contractTile true k.a s₃ = .ok (x, s₄) → ∀ y s₅, contractTile true k.b s₄ = .ok (y, s₅) →
    ∀ z s₆, contractTile false k.c s₅ = .ok (z, s₆) →
    let fp := mxFp x.m.cap.f y.m.cap.f (x.m.cap.scl != 0 || y.m.cap.scl != 0)
    (mxInfer x.m.cap y.m.cap false k.sat).mismatch = none →
    (∀ e, (e = (k.a, x) ∨ e = (k.b, y) ∨ e = (k.c, z)) → contractShape k.exts e.1 e.2 s₆ = .ok ((), s₆)) →
    mxRefused x.m.cap.f = false → (k.sat && fp) = false → contractSource x s₆ = .ok ((), s₆) →
    mxRefused y.m.cap.f = false → contractSource y s₆ = .ok ((), s₆) → contractTarget z.m.cap = true → z.m.cap.ro = false →
    (t.tptrap = false ∨ x.m.cap.poison = false ∧ y.m.cap.poison = false ∧ (k.acc && z.m.cap.poison) = false) →
    ∀ mx d₁ s₇, contractMeta x k.a k.c.letters s₆ = .ok ((mx, d₁), s₇) → ∀ my d₂ s₈, contractMeta y k.b k.c.letters s₇ = .ok ((my, d₂), s₈) →
    contractSourceElems x mx s₈ = .ok ((), s₈) → contractSourceElems y my s₈ = .ok ((), s₈) →
    (k.acc = true → checkEach (contractElem z.m ⟨[], []⟩ .read) (List.range z.m.cap.count) s₈ = .ok ((), s₈)) →
    checkEach (contractElem z.m ⟨[], []⟩ .write) (List.range z.m.cap.count) s₈ = .ok ((), s₈) →
    ∀ b, checkStatic z.m.h z.m.o 64 .write 64 s₈ = .ok (b, s₈) →
    ∀ regions s₉, footprintSet fset.toNat s₈ = .ok (regions, s₉) → ∀ armed s', armTake trig.armed s₉ = .ok (armed, s') →
    ∀ j s'', issueJob .contract .mx (some (16 + trig.tag)) none regions none [] none s' = .ok (j, s'') → ∀ u, s''.curTask = some u →
    let o : ContractOp := { job := j, acc := k.acc, sat := k.sat, rm := k.rm, t := k.tile, exts := k.exts, a := x.m.ref mx, b := y.m.ref my,
                            c := z.m.ref ⟨[], []⟩, la := k.a.letters, lb := k.b.letters, lc := k.c.letters,
                            d := (mxDepth x.m.cap.f y.m.cap.f).getD 1, fp := fp }
    let dues := addDues [] ([badDue hd a l, x.due, y.due, z.due, d₁, d₂].filterMap id)
    let op : MxOp := { kind := .contract o, armed := armed, tag := some trig.tag, step := 0, paused := none, flags := 0, dues := dues,
                       since := s'.nextJob, rows := [] }
    exec (.contract p trig sa h fset) s = .next
      ((s''.setTask { u with mx := { u.mx with queue := u.mx.queue ++ [op] } }).andRetire (.contract p trig sa h fset) t.id)) ∧
  (activeQ p t = true → t.mx.prows ≠ [] → armCheck (.attn p trig sd sa h) 2 trig.armed s = .ok ((), s) → ∀ a s₂, checkAccess hd (t.rs sa).toNat 64 .read 64 s₁ = .ok (a, s₂) →
    ∀ l s₃, readTileBytes hd a 64 s₂ = .ok (l, s₃) → ∀ b, b = AttnBlockParams.of (zeroBad l) →
    ∀ k s₄, openPool b.ph [b.doff] false [] s₃ = .ok (k, s₄) → ∀ d s₅, readDesc k b.doff s₄ = .ok (d, s₅) →
    let bc := Cap.of k.bcap
    attnBlockOk (zeroBad l) = true → trig.tag ≤ 3 → b.head < bc.ext 1 / 2 →
    ∀ q s₆, attnTileOf b.qh b.qoff s₅ = .ok (q, s₆) → ∀ o s₇, attnTileOf b.oh b.ooff s₆ = .ok (o, s₇) →
    attnCaps t bc q o s₇ = .ok ((), s₇) → q.m.cap.ext 1 ≤ t.mxRows → q.m.cap.ext 1 ≤ t.mxProws →
    checkEach (contractElem q.m ⟨[], []⟩ .read) (List.range q.m.cap.count) s₇ = .ok ((), s₇) →
    checkEach (contractElem o.m ⟨[], []⟩ .write) (List.range o.m.cap.count) s₇ = .ok ((), s₇) →
    ∀ w, checkStatic o.m.h o.m.o 64 .write 64 s₇ = .ok (w, s₇) →
    ∀ all s₈, resolveAll k d (List.range d.nlb) s₇ = .ok (all, s₈) →
    checkEach (fun (x : AttnBlock) => do let _ ← checkStatic k.h x.off (64 + x.fill * k.tokb) .read 1; pure ()) (attnBlocks k all) s₈ =
      .ok ((), s₈) →
    ∀ armed s₉, armTake trig.armed s₈ = .ok (armed, s₉) → ∀ u, s₉.curTask = some u → u.ocmx < 65535 →
    let op : AttnOp := { causal := b.causal, topk := b.topk, head := b.head, heads := bc.ext 1 / 2, scale := b.scale, qslot := b.qslot, pool := k,
                         q := q.m.ref ⟨[], []⟩, out := o.m.ref ⟨[], []⟩, blocks := attnBlocks k all }
    exec (.attn p trig sd sa h) s = .next ((s₉.setTask
      ((u.queued s₉.nextJob (.attn op) armed (some trig.tag) (addDues [] ([badDue hd a l, q.due, o.due].filterMap id))).ws sd
        (w64 (all.filter fun x => x.2.2.st == .evicting || x.2.2.st == .remote).length))).andRetire (.attn p trig sd sa h) t.id))

/-! ## KV pools -/

/-- KVSEQ, SPTAG and KVLOOK complete (R398, R399, R401): .new writes a fresh descriptor where none is LIVE; .end unmaps and frees the blocks
and answers how many were freed; .seal seals the resolved blocks; KVLOOK answers the status word, and .ld loads the tile of a LIVE block
as VLD does. That KVLOOK.ld moves its data at issue is the model's choice (log 34). -/
def Obligations.KvSequencesComplete : Prop :=
  ∀ p sd sa sb sc h tag brow bmaxl vd s t, s.runsQ p t → let off := (t.rs sa).toNat
  (let i : Instr := .kvseqNew p sd sa sb sc h tag brow bmaxl;
    let row : List MetaRange := if bmaxl = 0 then [] else [⟨(t.rs sc).toNat + 4 * bmaxl * brow, 4 * bmaxl, .write⟩]
    ∀ k s₁, openPool h [off] true row s = .ok (k, s₁) →
      ∀ b s₂, poolBytes k.h off 256 s₁ = .ok (b, s₂) → (Desc.of b).live = false → (t.rs sb).toNat < 2 ^ 31 →
      let beam : Bool := bmaxl != 0
      let d : Desc := { sqid := (t.rs sb).toNat, ctag := tag, live := true, beam := beam, busy := false, isSealed := false, len := 0,
                        pbias := 0, nlb := 0, nlive := 0, pend := 0, nret := 0, bmap := if beam then (t.rs sc).toNat else 0,
                        brow := if beam then brow else 0, bmaxl := bmaxl, pfxq := 0, pfxn := 0,
                        rets := List.replicate 8 ⟨0, 0, 0, 0, 0, 0⟩ }
      ∀ s₃, putDesc k off d s₂ = .ok ((), s₃) →
      ∀ s₄, (if beam then poolPutBytes k.h (d.rowOff 0) (noBlocks bmaxl) else pure ()) s₃ = .ok ((), s₄) → ∀ u, s₄.curTask = some u →
        exec i s = .next ((s₄.setTask (u.ws sd 0)).andRetire i t.id)) ∧
  (∀ k s₁, openPool h [off] true [] s = .ok (k, s₁) →
    (∀ d s₂, readDesc k off s₁ = .ok (d, s₂) → d.busy = false → d.live = true →
      (∀ l s₃, resolveAll k d (List.range d.nlb) s₂ = .ok (l, s₃) →
        (let i : Instr := .kvseqEnd p sd sa h;
          ∀ z s₄, unmapAll k d l s₃ = .ok (z, s₄) → ∀ s₅, freeBlocks k z s₄ = .ok ((), s₅) →
          ∀ s₆, dropDirWhere k (fun e => e.seq == d.sqid) s₅ = .ok ((), s₆) → ∀ s₇, putDesc k off { d with live := false } s₆ = .ok ((), s₇) →
          ∀ u, s₇.curTask = some u → exec i s = .next ((s₇.setTask (u.ws sd (w64 z.length))).andRetire i t.id)) ∧
        (let i : Instr := .kvseqSeal p sd sa h;
          ∀ s₄, sealBlocks k l s₃ = .ok ((), s₄) → ∀ s₅, putDesc k off { d with isSealed := true } s₄ = .ok ((), s₅) →
          ∀ u, s₅.curTask = some u → exec i s = .next ((s₅.setTask (u.ws sd (w64 l.length))).andRetire i t.id))) ∧
      (∀ s₃, putDesc k off { d with ctag := tag } s₂ = .ok ((), s₃) →
        exec (.sptag p sa h tag) s = .next (s₃.andRetire (.sptag p sa h tag) t.id)))) ∧
  (∀ k s₁, openPool h [off] false [] s = .ok (k, s₁) → ∀ d s₂, readDesc k off s₁ = .ok (d, s₂) →
    ∀ w b s₃, kvFind k d (t.rs sb).toNat s₂ = .ok ((w, b), s₃) → ∀ u, s₃.curTask = some u →
    exec (.kvlook p sd sa sb h) s = .next ((s₃.setTask (u.ws sd w)).andRetire (.kvlook p sd sa sb h) t.id) ∧
    (b = none ∨ k.h.space ≠ .hbm →
      exec (.kvlookPf p sd sa sb h) s = .next ((s₃.setTask (u.ws sd w)).andRetire (.kvlookPf p sd sa sb h) t.id)) ∧
    (∀ n pt, b = some n → k.h.space = .hbm → s₃.part? u.vf = some pt →
      let s₄ := (List.range (k.stride / 128 + 1)).foldl
        (fun s m => s.fillDie (t.ctx pt) ((k.h.addr (k.blockOff n) + 128 * m) % 2 ^ 56)) s₃
      ∀ v, s₄.curTask = some v → exec (.kvlookPf p sd sa sb h) s = .next ((s₄.setTask (v.ws sd w)).andRetire (.kvlookPf p sd sa sb h) t.id))) ∧
  (let i : Instr := .kvlookLd p vd sd sa sb h;
    ∀ v, t.held i = none → t.vreg vd = some v → ∀ k s₁, openPool h [off] false [] s = .ok (k, s₁) → ∀ d s₂, readDesc k off s₁ = .ok (d, s₂) →
    (∀ w s₃, kvFind k d (t.rs sb).toNat s₂ = .ok ((w, none), s₃) → ∀ u, s₃.curTask = some u →
      exec i s = .next (s₃.setTask ((u.awake.ws sd w).retire i))) ∧
    (∀ w n s₃, kvFind k d (t.rs sb).toNat s₂ = .ok ((w, some n), s₃) → t.ocld < 65535 → ∀ s₄, fenceAcq .pkg s₃ = .ok ((), s₄) →
      ∀ m bs a due s₅, readPreamble k.h (k.blockOff n) s₄ = .ok ((m, bs, a, due), s₅) → loadable t v m bs →
      ∀ s₆, sidePort [] (t.regCols vd) s₅ = .ok ((), s₆) → ∀ u, s₆.curTask = some u →
      let r := capture i allActive t
      let cells := r.tileCells u m.cap.count 0
      ∀ got s₇, untilFails (fun e => m.readElem (pieces m.cap.f m.cap.planes m.cap.count (r.flat u e))) cells s₆ =
        .ok ((got, none), s₇) → ∀ x, s₇.curTask = some x →
        let ld : VLoad := ⟨firstDue due (got.findSome? fun y => y.2.2), hbmPart m.h (packedSize m.cap.f cells.length)⟩
        exec i s = .next (s₇.setTask (((inFlight (loaded x vd m.cap due got) ld).awake.ws sd w).retire i))))

/-- KVAPP completes (R400): its issue step reserves the slots and blocks, makes the descriptor BUSY, issues the data phase as a job, and
answers the first slot and position; KVAPP_COMMIT moves the records and then commits the reserved counts. KVFREE and SPRET complete (R402,
R403). -/
def Obligations.KvTokensComplete : Prop :=
  (∀ p sd sa sb sc h sh sor tag s t, s.runsQ p t → let off := (t.rs sa).toNat
    let n := (t.rs sc).toNat
    (let i : Instr := .kvapp p sd sa sc h sh sor;
      ∀ s₀, performOwn s = .ok ((), s₀) → ∀ k s₁, openPool h [off] true [] s₀ = .ok (k, s₁) →
      ∀ d s₂, readDesc k off s₁ = .ok (d, s₂) → d.busy = false → 1 ≤ n → n ≤ 4096 → d.live = true →
      d.isSealed = false → ∀ hs s₃, useHandle sh s₂ = .ok (hs, s₃) →
      ∀ a s₅, checkAccess hs (t.rs sor).toNat (n * k.tokb) .read 1 s₃ = .ok (a, s₅) →
      let pos := (d.len + 2 ^ 32 - d.pbias) % 2 ^ 32
      ∀ cur s₆, (if d.nlb = 0 then pure none else resolve k d (d.nlb - 1)) s₅ = .ok (cur, s₆) →
      ∀ r s₇, appTokens k d off d.len pos n ⟨cur.map fun c => (c.1, c.2, c.2.fill), d.nlb, [], [], []⟩ s₆ = .ok (r, s₇) →
      ∀ s₈, checkRecords k r.writes s₇ = .ok ((), s₈) → ∀ due s₉, copyBlocks k r.copies s₈ = .ok (due, s₉) →
      ∀ j s', issueJob (.kvapp k off hs (t.rs sor).toNat r.writes.reverse r.fills) .st none none [] none due.toList none s₉ = .ok (j, s') →
      ∀ s'', putDesc k off { d with len := (d.len + n) % 2 ^ 32, nlb := r.nlb, nlive := (d.nlive + n) % 2 ^ 32, pend := n, busy := true } s' =
        .ok ((), s'') → ∀ u, s''.curTask = some u →
        exec i s = .next ((s''.setTask (u.ws sd (w64 (2 ^ 32 * d.len + pos)))).andRetire i t.id)) ∧
    (let i : Instr := .kvfree p sd sa sb sc h;
      ∀ k s₁, openPool h [off] true [] s = .ok (k, s₁) → ∀ d s₂, readDesc k off s₁ = .ok (d, s₂) → d.busy = false →
      1 ≤ n → n ≤ 65536 → ∀ l s₃, resolveAll k d ((List.range n).map fun x => (t.rs sb).toNat + x) s₂ = .ok (l, s₃) →
      let pre := if d.beam then [] else l.filter fun x => decide (x.1 < d.pfxn)
      (d.nret ≠ 8 ∨ pre = []) → ∀ z s₄, unmapAll k d l s₃ = .ok (z, s₄) → ∀ s₅, freeBlocks k z s₄ = .ok ((), s₅) →
      let d' := { d with nlive := (d.nlive + 2 ^ 32 - fillSum l % 2 ^ 32) % 2 ^ 32 }
      ∀ s₆, putDesc k off (match pre.head?, pre.getLast? with
        | some a, some b => d'.retire ⟨a.1, b.1 + 1, fillSum pre, 0, 2, d.pbias⟩
        | _, _ => d') s₅ = .ok ((), s₆) → ∀ u, s₆.curTask = some u →
        exec i s = .next ((s₆.setTask (u.ws sd (w64 z.length))).andRetire i t.id)) ∧
    (∀ close : Bool, let i : Instr := if close then .spretClose p sd sa h tag else .spretHole p sd sa h tag
      ∀ k s₁, openPool h [off] false [] s = .ok (k, s₁) → ∀ d s₂, readDesc k off s₁ = .ok (d, s₂) → d.busy = false →
      ∀ all s₃, resolveAll k d (List.range d.nlb) s₂ = .ok (all, s₃) →
      let l := all.filter fun x => x.2.2.tag == tag
      let m := fillSum l
      (d.nret ≠ 8 ∨ l = []) → ∀ z s₄, unmapAll k d l s₃ = .ok (z, s₄) → ∀ s₅, freeBlocks k z s₄ = .ok ((), s₅) →
      ∀ s₆, dropDirWhere k (fun e => e.seq == d.sqid && e.tag == tag) s₅ = .ok ((), s₆) →
      (m = 0 → ∀ u, s₆.curTask = some u → exec i s = .next ((s₆.setTask (u.ws sd 0)).andRetire i t.id)) ∧
      (0 < m →
        let lo := l.foldl (fun a x => min a x.2.2.bslot) (2 ^ 32)
        let hi := l.foldl (fun a x => max a (x.2.2.bslot + x.2.2.fill)) 0
        let d' := { d.retire ⟨lo, hi, m, tag, if close then 1 else 0, d.pbias⟩ with nlive := (d.nlive + 2 ^ 32 - m % 2 ^ 32) % 2 ^ 32 }
        ∀ s₇, putDesc k off (if close then { d' with pbias := (d.pbias + m) % 2 ^ 32 } else d') s₆ = .ok ((), s₇) → ∀ u, s₇.curTask = some u →
          exec i s = .next ((s₇.setTask (u.ws sd (w64 m))).andRetire i t.id)))) ∧
  (∀ s n j t k off src soff writes fills, s.workJob? n = some j → j.kind = .kvapp k off src soff writes fills → s.task? j.task = some t →
    j.paused = none → s.jobColumnsFree t j = true →
    ∀ m e due s₁, engineRun s t (moveBytes j k.h src (fun x => k.h.addr (writes.getD (x / k.tokb) 0 + x % k.tokb)) (fun x => src.addr (soff + x))
      j.progress (writes.length * k.tokb - j.progress)) = .ok ((m, e, due), s₁) →
    (e = .done → exec (.kvappCommit n) s =
      .next (s₁.poolStep t { j with progress := m, dues := addDues j.dues due.toList } (commitApp k off fills))) ∧
    (∀ c a, e = .paused c a → exec (.kvappCommit n) s = .next (s₁.pauseJob { j with progress := m, dues := addDues j.dues due.toList } c a)))

/-- BMREORD, PFXFIND, PFXFIND.drop and PFXINS complete (R404, R405): a beam takes its parent's row and counts; a prefix found is joined to an
empty sequence; a dropped one is invalidated and its blocks' references fall; an inserted one re-keys the sequence's first blocks, joins
an entry that won, or answers 2 or 3. -/
def Obligations.KvSharingCompletes : Prop :=
  ∀ p sd sa sb sc h s t, s.runsQ p t → let off := (t.rs sa).toNat
  let key := (t.rs sb).toNat
  (let i : Instr := .bmreord p sd sa sb sc h;
    let n := (t.rs sc).toNat
    let offs := (List.range n).map fun x => off + 256 * x
    1 ≤ n → n ≤ 256 → ∀ k s₂, openPool h offs true [⟨key, 4 * n, .read⟩] s = .ok (k, s₂) →
    ∀ ds s₃, readDescs k offs s₂ = .ok (ds, s₃) → (∀ x ∈ ds, x.2.busy = false ∧ x.2.live = true ∧ x.2.beam = true) →
    (∀ x ∈ ds, ∀ f, ds.head? = some f → f.2.bmap = x.2.bmap ∧ f.2.bmaxl = x.2.bmaxl) → (ds.map (·.2.brow)).Nodup →
    ∀ parents s₄, readNats k.h key n s₃ = .ok (parents, s₄) → ds.length = n → (∀ m < n, parents.getD m 0 < n) →
    ∀ old s₅, readBeams k (ds.zip parents) s₄ = .ok (old, s₅) →
    let before := (old.flatMap (·.row)).filter (· < k.nblk)
    let after := (old.flatMap (newRow old)).filter (· < k.nblk)
    ∀ s₆, putBeams k old old s₅ = .ok ((), s₆) → ∀ z s₇, adjustRefs k before after (before ++ after).eraseDups s₆ = .ok (z, s₇) →
    ∀ s₈, freeBlocks k z s₇ = .ok ((), s₈) → ∀ u, s₈.curTask = some u →
      exec i s = .next ((s₈.setTask (u.ws sd (w64 z.length))).andRetire i t.id)) ∧
  (let i : Instr := .pfxfind p sd sa sb h;
    ∀ k s₁, openPool h [off] false [] s = .ok (k, s₁) → ∀ d s₂, readDesc k off s₁ = .ok (d, s₂) →
    (∀ s₃, lookupPrefix k key s₂ = .ok (none, s₃) → ∀ u, s₃.curTask = some u → exec i s = .next ((s₃.setTask (u.ws sd 0)).andRetire i t.id)) ∧
    (∀ n e s₃, lookupPrefix k key s₂ = .ok (some (n, e), s₃) → d.busy = false → d.live = true → d.beam = false → d.len = 0 → d.pfxn = 0 →
      ∀ bs s₄, chain k (k.h.addr (prefixOff k key n)) e.head e.nb s₃ = .ok (bs, s₄) → ∀ s₅, checkEach (raiseRef k) bs s₄ = .ok ((), s₅) →
      ∀ s₆, putDesc k off { d with pfxq := e.pid, pfxn := e.nb, nlb := e.nb, len := e.ntok, nlive := e.ntok, ctag := fld e.tagl 0 4 } s₅ =
        .ok ((), s₆) → ∀ u, s₆.curTask = some u → exec i s = .next ((s₆.setTask (u.ws sd (w64 e.ntok))).andRetire i t.id))) ∧
  (let i : Instr := .pfxfindDrop p sd sb h;
    ∀ k s₁, openPool h [] false [] s = .ok (k, s₁) →
    (∀ s₂, lookupPrefix k key s₁ = .ok (none, s₂) → ∀ u, s₂.curTask = some u → exec i s = .next ((s₂.setTask (u.ws sd 0)).andRetire i t.id)) ∧
    (∀ n e s₂, lookupPrefix k key s₁ = .ok (some (n, e), s₂) →
      ∀ bs s₃, chain k (k.h.addr (prefixOff k key n)) e.head e.nb s₂ = .ok (bs, s₃) →
      ∀ s₄, poolPutBytes k.h (prefixOff k key n) { e with v := false }.bytes s₃ = .ok ((), s₄) →
      ∀ z s₅, lowerRefs k bs s₄ = .ok (z, s₅) → ∀ s₆, freeBlocks k z s₅ = .ok ((), s₆) → ∀ u, s₆.curTask = some u →
        exec i s = .next ((s₆.setTask (u.ws sd (w64 e.nb))).andRetire i t.id))) ∧
  (let i : Instr := .pfxins p sd sa sb sc h;
    let c := (t.rs sc).toNat
    ∀ k s₁, openPool h [off] false [] s = .ok (k, s₁) → ∀ d s₂, readDesc k off s₁ = .ok (d, s₂) → d.busy = false → 1 ≤ c → c ≤ d.nlb →
    d.live = true → d.beam = false → d.pfxn = 0 → ∀ own s₃, offered k d off (List.range c) s₂ = .ok (own, s₃) →
    (∀ n e s₄, lookupPrefix k key s₃ = .ok (some (n, e), s₄) →
      (e.nb ≠ c → ∀ u, s₄.curTask = some u → exec i s = .next ((s₄.setTask (u.ws sd 3)).andRetire i t.id)) ∧
      (e.nb = c → ∀ bs s₅, chain k (k.h.addr (prefixOff k key n)) e.head e.nb s₄ = .ok (bs, s₅) →
        ∀ s₆, unkeyAll k (own.map (·.1)) s₅ = .ok ((), s₆) → ∀ z s₇, lowerRefs k (own.map (·.1)) s₆ = .ok (z, s₇) →
        ∀ s₈, freeBlocks k z s₇ = .ok ((), s₈) → ∀ s₉, checkEach (raiseRef k) bs s₈ = .ok ((), s₉) →
        ∀ s', putDesc k off { d with pfxq := e.pid, pfxn := c } s₉ = .ok ((), s') → ∀ u, s'.curTask = some u →
          exec i s = .next ((s'.setTask (u.ws sd 1)).andRetire i t.id))) ∧
    (∀ s₄, lookupPrefix k key s₃ = .ok (none, s₄) →
      (k.lpb = 0 → ∀ u, s₄.curTask = some u → exec i s = .next ((s₄.setTask (u.ws sd 2)).andRetire i t.id)) ∧
      (∀ r s₅, k.lpb ≠ 0 → findPrefix k key (fun e => !e.v) (List.range 4) s₄ = .ok (r, s₅) →
        (r = none → ∀ u, s₅.curTask = some u → exec i s = .next ((s₅.setTask (u.ws sd 2)).andRetire i t.id)) ∧
        (∀ n e, r = some (n, e) →
          let pid := 2 ^ 31 + 4 * (key / 2 ^ (64 - k.lpb)) + n
          ∀ s₆, poolPutBytes k.h (prefixOff k key n)
            (Prefix.mk key (c * k.p) ((own.head?.map (·.1)).getD noBlock) c pid ((own.getLast?.map (·.2.tag)).getD 0) true).bytes s₅ = .ok ((), s₆) →
          ∀ s₇, rekey k pid 0 own s₆ = .ok ((), s₇) → ∀ s₈, putDesc k off { d with pfxq := pid, pfxn := c } s₇ = .ok ((), s₈) →
          ∀ u, s₈.curTask = some u → exec i s = .next ((s₈.setTask (u.ws sd 0)).andRetire i t.id)))))

/-- KVPIN, KVUNPIN, KVEVICT and KVPULL complete (R406, R407): a pin counts on a LIVE block up to 255; an eviction selects its victims, copies
them as a job with a promise, and answers both; a pull of a block that resolves answers 2⁶³ + 1, and of one in the directory copies it
back as a job; KV_EVICT_COMPLETE and KV_PULL_COMPLETE move the bytes and make the completion step. That a completion step moves all the
bytes that remain is the model's choice (log 38). -/
def Obligations.KvMovesComplete : Prop :=
  (∀ p sd sb h s t, s.runsQ p t → ∀ k e s₁, pinned h (t.rs sb).toNat s = .ok ((k, e), s₁) →
    let done (i : Instr) (s₂ : State) (w : Word) : Prop := ∀ u, s₂.curTask = some u → exec i s = .next ((s₂.setTask (u.ws sd w)).andRetire i t.id)
    (e.st = .live → e.pin < 255 → ∀ s₂, putBlock k (t.rs sb).toNat { e with pin := e.pin + 1 } s₁ = .ok ((), s₂) →
      done (.kvpin p sd sb h) s₂ 0) ∧
    (e.st = .live → 255 ≤ e.pin → done (.kvpin p sd sb h) s₁ 3) ∧ (e.st = .evicting → done (.kvpin p sd sb h) s₁ 1) ∧
    ((e.st = .free ∨ e.st = .remote) → done (.kvpin p sd sb h) s₁ 2) ∧
    (0 < e.pin → ∀ s₂, putBlock k (t.rs sb).toNat { e with pin := e.pin - 1 } s₁ = .ok ((), s₂) → done (.kvunpin p sd sb h) s₂ 0) ∧
    (e.pin = 0 → done (.kvunpin p sd sb h) s₁ 1)) ∧
  (∀ p trig sd sb h (fset : BitVec 12) s t, s.runsQ p t → let i : Instr := .kvevict p trig sd sb h fset
    let n := (t.rs sb).toNat
    armCheck i 0 trig.armed s = .ok ((), s) → ∀ k s₁, openPool h [] false [⟨84, 4, .write⟩] s = .ok (k, s₁) → sd ≤ 62 → 1 ≤ n → n ≤ 64 → k.ldir ≠ 0 →
    ∀ start s₂, poolNat k.h 84 4 s₁ = .ok (start, s₂) →
    ∀ vs last s₃, selectVictims k k.nblk start n s₂ = .ok ((vs, last), s₃) → ∀ s₄, poolPut k.h 84 4 last s₃ = .ok ((), s₄) →
    (vs = [] → ∀ u, s₄.curTask = some u → exec i s = .next ((s₄.setTask ((u.ws sd s.cycle).ws (sd + 1) 0)).andRetire i t.id)) ∧
    (vs ≠ [] → ∀ hr s₅, useHandle k.phnd s₄ = .ok (hr, s₅) →
      ∀ s₆, checkEach (fun (v : Nat × Nat) => frameChecks hr k.h (v.2 * k.stride) (k.blockOff v.1) k.stride) vs s₅ = .ok ((), s₆) →
      ∀ regions s₇, footprintSet fset.toNat s₆ = .ok (regions, s₇) → ∀ armed s₈, armTake trig.armed s₇ = .ok (armed, s₈) →
      ∀ pr s₉, promiseFor regions (ceilDiv (vs.length * k.stride) 32) 0 s₈ = .ok (pr, s₉) →
      ∀ j s', issueJob (.kvevict k hr vs) .cp (some trig.tag) armed regions (some pr) [] none s₉ = .ok (j, s') → ∀ u, s'.curTask = some u →
        exec i s = .next ((s'.setTask ((u.ws sd (w64 pr)).ws (sd + 1) (w64 vs.length))).andRetire i t.id))) ∧
  (∀ p trig sd sa sb h (fset : BitVec 12) s t, s.runsQ p t → let i : Instr := .kvpull p trig sd sa sb h fset
    let off := (t.rs sa).toNat
    let l := (t.rs sb).toNat
    armCheck i 0 trig.armed s = .ok ((), s) →
    ∀ k s₁, openPool h [off] false [] s = .ok (k, s₁) → ∀ d s₂, readDesc k off s₁ = .ok (d, s₂) →
    (∀ r s₃, resolve k d l s₂ = .ok (some r, s₃) → ∀ u, s₃.curTask = some u →
      exec i s = .next ((s₃.setTask (u.ws sd (w64 (2 ^ 63 + 1)))).andRetire i t.id)) ∧
    (∀ x e s₃ s₄, resolve k d l s₂ = .ok (none, s₃) → lookupDir k (d.key l) l s₃ = .ok (some (x, e), s₄) →
      ∀ b s₅, allocBlock k s₄ = .ok (b, s₅) → ∀ s₆, insertBlock k b { e with st := .remote } s₅ = .ok ((), s₆) →
      ∀ hr s₇, useHandle k.phnd s₆ = .ok (hr, s₇) → ∀ s₈, frameChecks k.h hr (k.blockOff b) (x * k.stride) k.stride s₇ = .ok ((), s₈) →
      ∀ regions s₉, footprintSet fset.toNat s₈ = .ok (regions, s₉) → ∀ armed s', armTake trig.armed s₉ = .ok (armed, s') →
      ∀ pr s'', promiseFor regions (ceilDiv k.stride 32) 0 s' = .ok (pr, s'') →
      ∀ j s''', issueJob (.kvpull k hr b x) .cp (some trig.tag) armed regions (some pr) [] none s'' = .ok (j, s''') → ∀ u, s'''.curTask = some u →
        exec i s = .next ((s'''.setTask (u.ws sd (w64 pr))).andRetire i t.id))) ∧
  (∀ s n j t k hr, s.workJob? n = some j → s.task? j.task = some t → s.copyReady t j = true →
    (∀ vs, j.kind = .kvevict k hr vs → s.evictHeld j k vs = false →
      let v (x : Nat) : Nat × Nat := vs.getD (x / k.stride) (0, 0)
      ∀ m due s₁, engineRun s t (moveBytes j hr k.h (fun x => hr.addr ((v x).2 * k.stride + x % k.stride))
        (fun x => k.h.addr (k.blockOff (v x).1 + x % k.stride)) j.progress (vs.length * k.stride - j.progress)) = .ok ((m, .done, due), s₁) →
      exec (.kvEvictComplete n) s = .next (s₁.poolStep t { j with progress := m, dues := addDues j.dues due.toList }
        (do let bs ← finishEvict k vs; freeBlocks k bs))) ∧
    (∀ b x, j.kind = .kvpull k hr b x →
      ∀ m due s₁, engineRun s t (moveBytes j k.h hr (fun y => k.h.addr (k.blockOff b + y)) (fun y => hr.addr (x * k.stride + y))
        j.progress (k.stride - j.progress)) = .ok ((m, .done, due), s₁) →
      exec (.kvPullComplete n) s = .next (s₁.poolStep t { j with progress := m, dues := addDues j.dues due.toList } (finishPull k b x))))

/-! ## Steps of the engines and of the matrix unit -/

/-- FORAGER_ACCESS, JOB_COMPLETE and ENGINE_RETRY (R152, R165, R362): an access of a forager that is ready is made and moves its job on, or
pauses it with its notice; a job whose accesses are done leaves the machine, its counter falls, and its pulse and what it found reach the
task, or wait for the restore of a task that is swapped out; one that has a barrier object arrives there first, in POOL space by a BAREVT
whose answer it awaits (R173, R419); a stream's queue is then idle once it is empty; a copy moves its bytes; an HSRD writes its register;
a paused job that retries an access that succeeds goes on. That a copy moves all its remaining bytes in the completion step (log 38), and
when an arrival is made (log 50), are the model's. -/
def Obligations.EngineStepsComplete : Prop :=
  ∀ (s : State) n j t, s.job? n = some j → s.task? j.task = some t →
  (s.foragerReady t j = true →
    (∀ j' s₁, engineRun s t (foragerStep j) = .ok (j', s₁) → exec (.foragerAccess n) s = .next (s₁.setJob j')) ∧
    (∀ c a, engineRun s t (foragerStep j) = .error (.page c a) → exec (.foragerAccess n) s = .next
      (let s₁ := s.setJob { j with paused := some (c, a), pausedAt := s.cycle.toNat };
       s₁.raiseNotice t.vf { t.notice c 0xFFFFFFFF (w64 a) with engine := true, task := some t.id }))) ∧
  (t.place = .vlc → j.paused = none → s.jobFree j = true → j.arriving = false →
    (∀ vd f h l, j.kind = .gather vd f h l → l.length ≤ j.progress → exec (.jobComplete n) s = .next (s.finishJob j)) ∧
    (∀ f h l, j.kind = .scatter f h l → l.length ≤ j.progress → exec (.jobComplete n) s = .next (s.finishJob j)) ∧
    (∀ f rm h l, j.kind = .scata f rm h l → ((l.map (·.off)).eraseDups).length ≤ j.progress →
      exec (.jobComplete n) s = .next (s.finishJob j)) ∧
    (∀ inb q f h first stride k, j.kind = .stream inb q f h first stride k →
      (0 < j.progress ∨ (if inb then (t.queue q).count ≤ (t.queue q).moved else (t.queue q).count ≤ (t.queue q).written)) →
      ∀ u, (s.finishJob j).task? j.task = some u → exec (.jobComplete n) s = .next ((s.finishJob j).setTask
        (if inb = false ∧ (u.queue q).job = j.id ∧ (s.finishJob j).job? j.id = none ∨
            inb = true ∧ (u.queue q).st = .inbound ∧ (u.queue q).elems = [] ∧ (s.finishJob j).job? (u.queue q).job = none then
          u.setQueue q { st := .idle, fmt := 0, elems := [], count := 0, moved := 0, written := 0, job := 0 } else u)))) ∧
  (∀ dst src doff soff len rows ds ss, j.kind = .copy dst src doff soff len rows ds ss → s.copyReady t j = true → j.arriving = false →
    ∀ k due s₁, engineRun s t (moveBytes j dst src (stridedAddr dst doff ds len) (stridedAddr src soff ss len) j.progress
        (len * rows - j.progress)) = .ok ((k, .done, due), s₁) →
      exec (.jobComplete n) s = .next (s₁.finishJob { j with progress := k, dues := addDues j.dues due.toList })) ∧
  (∀ vd r cells, j.kind = .hsrd vd r cells → s.canComplete t j = true → j.arriving = false →
    ∀ vals s₁ u, engineRun s t (hsrdElems r cells) = .ok ((vals, none), s₁) → s₁.task? t.id = some u →
      exec (.jobComplete n) s = .next ((s₁.setTask
        { u.writeElems vd (cellSet (vals.map (·.1))) r.tile.cap.f vals with linear := true, heldSwitch := false }).finishJob j)) ∧
  (j.arrival = none →
    let v : Task := { t with dueFlags := t.dueFlags ||| j.flags, dues := t.dues ++ j.dues }
    (t.place = .vlc →
      let s₁ := ((s.dropJob j.id).setTask (v.uncount j.cls)).logDues j.dues
      s.finishJob j = match j.input with | some k => s₁.pulse t.hive t.id k | none => s₁) ∧
    (t.place ≠ .vlc → t.isEnding = false →
      let w : Task := { v with lateDone := v.lateDone ++ [j.cls.code] }
      let s₁ := ((s.dropJob j.id).setTask w).logDues j.dues
      s.finishJob j = match j.input with | some k => s₁.setTask { w with latePulses := w.latePulses ++ [k] } | none => s₁)) ∧
  (∀ x, j.arrival = some x →
    (x.stage ≠ .sent → x.handle.space = .pool → s.finishJob j =
      (s.sendBarevt x.phys (s.launchGen t) (0, x.gen) j.tag).setJob { j with arrival := some { x with stage := .sent } }) ∧
    (x.stage ≠ .sent → x.handle.space ≠ .pool → ∀ d s₁, engineRun s t (arriveFor x) = .ok (d, s₁) →
      s.finishJob j = s₁.endJob { j with arrival := some { x with stage := .due }, dues := addDues j.dues d }) ∧
    (x.stage = .sent → s.finishJob j = s)) ∧
  (j.paused = none → exec (.engineRetry n) s = .next s) ∧
  (∀ c a vd f h l, j.paused = some (c, a) → j.kind = .gather vd f h l →
    let s₀ := s.endPause j
    ∀ j₀ t₀, s₀.job? n = some j₀ → s₀.task? j₀.task = some t₀ → j₀.kind = j.kind → j₀.arriving = false → s₀.foragerReady t₀ j₀ = true →
    ∀ j' s₁, engineRun s₀ t₀ (foragerStep j₀) = .ok (j', s₁) → exec (.engineRetry n) s = .next (s₁.setJob j'))

/-- MX_QUEUE_OP and MX_K_STEP (R141, R344, R345, R349): the operation at the head, or an MXRD that overtakes, makes its step in linear mode;
one that goes on stands in its place with what it has reached; one that is complete leaves the queue, and ocmx, its pulse and what it
found reach the task, for CONTRACT as its job completes; a translation fault pauses it with the engine's notice. An MXLD or MXSCL that has
begun, and that no fault pauses, goes on although its task is to stop (R357). A K step brings the snapshot that waits for it. -/
def Obligations.MatrixStepsComplete : Prop :=
  ∀ (s : State) n t, s.task? n = some t →
  (∀ k o, nextQueueOp t.mx.queue = some (k, o) → s.mxReady t o = true → (t.working = true ∨ t.present = true ∧ o.midway = true) →
    exec (.mxQueueOp n) s = .next (s.runMx t k o)) ∧
  (∀ o : MxOp, o.midway = true ↔ o.free = true ∧ 0 < o.elem ∧ ((∃ x r, o.kind = .ld x r) ∨ ∃ h off, o.kind = .scl h off)) ∧
  (∀ o, t.working = true → nextMac t.mx.queue = some o → s.mxReady t o = true → exec (.mxKStep n) s = .next ((s.runMx t 0 o).snapshot n)) ∧
  (∀ k o s₁ u, s₁.task? t.id = some u →
    (∀ o', engineRun s t (mxStepIn o) = .ok (.more o', s₁) →
      s.runMx t k o = s₁.setTask { u with mx := { u.mx with queue := u.mx.queue.set k o' } }) ∧
    (∀ o' tag, engineRun s t (mxStepIn o) = .ok (.done o', s₁) → o'.tag = some tag → (∀ c, o'.kind ≠ .contract c) →
      let v := { u with mx := { u.mx with queue := u.mx.queue.eraseIdx k } }
      s.runMx t k o = (s₁.setTask v).completeFor v .mx (some (16 + tag)) o'.flags o'.dues) ∧
    (∀ o' c j, engineRun s t (mxStepIn o) = .ok (.done o', s₁) → o'.kind = .contract c →
      let s₂ := s₁.setTask { u with mx := { u.mx with queue := u.mx.queue.eraseIdx k } }
      s₂.job? c.job = some j → s.runMx t k o = s₂.finishJob { j with flags := j.flags ||| o'.flags, dues := addDues j.dues o'.dues }) ∧
    (∀ o' c a, engineRun s t (mxStepIn o) = .ok (.paused o' c a, s₁) →
      s.runMx t k o = (s₁.setTask { u with mx := { u.mx with queue := u.mx.queue.set k { o' with paused := some (c, a) } } }).raiseNotice
        u.vf (u.engineNotice c a))) ∧
  (∀ o x s₁, o.kind = .zero x → s.task? t.id = some t → s₁ = s.setTask { t with mx := t.mx.clearTile x } →
    engineRun s t (mxStep o) = .ok (.done o, s₁))

/-! ## The sequencer's own steps -/

/-- SEQUENCER_PASS, COUNT_TREE_SUM and ROW_EXCHANGE (R25, R26, R283, R322): a pass that is not the last leaves its record held at the next
pass boundary; the last completes the instruction, once its row exchanges are made; the sum that a pass fed reaches its register; an
exchange that remains is made in linear mode. -/
def Obligations.SequencerStepsComplete : Prop :=
  ∀ (s : State) n t, s.task? n = some t →
  (∀ p pt i s₁ c, s.servesPass t = true → s.part? t.vf = some pt → s.fetch t pt = (.run i, s₁) → combOf i = some (p, c) →
    s₁.task? n = some t → t.combsTaken = false → ∀ r, t.held i = some r → r.sum = none → r.loading = false →
    let k := t.vstart.toNat
    (k + 1 < r.total ∨ exchangesOf r ≤ r.exchanges) →
    let s₂ := s₁.setHive { s₁.hive t.hive with passServed := t.vlc }
    c.load r t { s₂ with cur := some t.id } = .ok ((r, none), { s₂ with cur := some t.id }) →
    let v : Task := { t with linear := false }
    c.parityError r k v = none →
    let x := if c.stepped r && decide (k < r.total) then c.pass r k v else (v, none)
    ((r.total ≤ k + 1 ∨ c.whole = true) → x.2 = none → exec (.sequencerPass n) s = .next (combDone c r s₂ x.1)) ∧
    ((k + 1 < r.total ∧ c.whole = false ∨ x.2 ≠ none) → ∀ r' s₃ u, c.blur r (k + 1) s₂ x.1 = (r', s₃, u) →
      exec (.sequencerPass n) s = .next (s₃.setTask { u with vstart := BitVec.ofNat 32 (k + 1), resume := some { r' with sum := x.2 } }))) ∧
  (s.servesPass t = false → exec (.sequencerPass n) s = .next s) ∧
  (∀ r sd v, t.resume = some r → r.sum = some (sd, v) → sd < 64 →
    ∃ u, exec (.countTreeSum n) s = .next (s.setTask u) ∧ u.resume = some { r with sum := none } ∧ u.rs sd = (if sd = 0 then 0 else v) ∧
      (∀ k : Nat, k ≠ sd → u.rs k = t.rs k) ∧ u.cols = t.cols) ∧
  (∀ r p c, t.resume = some r → combOf r.instr = some (p, c) → t.place = .vlc → r.pc = t.pc → t.vstart ≠ 0 → r.exchanges < exchangesOf r →
    ∀ r' s₁ u, c.blur r t.vstart.toNat s t = (r', s₁, u) → exec (.rowExchange n) s = .next (s₁.setTask
      { u with linear := true, heldSwitch := false,
               resume := some { r' with exchanges := r'.exchanges + 1, order := r'.orderAt u (r'.exchanges + 1) } })) ∧
  (∀ r, t.resume = some r → exchangesOf r ≤ r.exchanges → exec (.rowExchange n) s = .next s)

/-! ## Launches, swaps and notices -/

/-- CARD_FETCH, COMB_CLEAR and LAUNCH_END (R45 to R47, R59, R175): the card at LQCONS is read, LQCONS and the serial number advance, and a
card that passes its checks starts a launch; one with wrong addresses stops the queue; another failure writes a record with its status.
COMB_CLEAR gives every column but column 0 the value zero. LAUNCH_END writes the record of a launch that is done and removes the launch.
That a card with wrong addresses stops the queue without a record, that the serial number advances for a rejected card, and that FPTAB's
alignment is not among those addresses, are the model's (log 46); a record of a launch without START is left out here. -/
def Obligations.LaunchStepsComplete : Prop :=
  ∀ (s : State) vf k q, s.part? vf = some q →
  (s.mayFetch q k = true →
    let c := q.queue k
    let n := q.serials.getD k 0
    let s₀ := s.setPart { q.setQueue k { c with cons := c.cons + 1 } with serials := q.serials.set k ((n + 1) % 2 ^ 28) }
    let p₀ : Partition := { q.setQueue k { c with cons := c.cons + 1 } with serials := q.serials.set k ((n + 1) % 2 ^ 28) }
    ∀ b s₁, s₀.cardRead p₀ (c.base.toNat * 128 + 128 * (c.cons.toNat % 2 ^ c.log.toNat)) 128 = .ok (b, s₁) →
    ((Card.of b).addrsOk = false → exec (.cardFetch vf k) s = .next
      (if (Card.of b).irq then (s₁.stopQueue vf k).send (.msix vf 0) else s₁.stopQueue vf k)) ∧
    ((Card.of b).addrsOk = true →
      (∀ r s₂, s₁.checkCard p₀ k n (Card.of b) = .error (⟨r, none⟩, s₂) → exec (.cardFetch vf k) s = .next
        (s₂.writeRecord vf k (Card.of b).compl (Card.of b).irq (recordBytes r 0 0 s₂.cycle.toNat s₂.cycle.toNat))) ∧
      (∀ l s₂ p, s₁.checkCard p₀ k n (Card.of b) = .ok (l, s₂) → s₂.part? vf = some p → exec (.cardFetch vf k) s = .next
        (s₂.setPart { p with launches := p.launches ++ [l], nextLaunch := p.nextLaunch + 1 })))) ∧
  (s.mayFetch q k = false → exec (.cardFetch vf k) s = .next s) ∧
  (∀ t, s.task? k = some t → t.cleared = false → ∃ u, exec (.combClear k) s = .next (s.setTask u) ∧ u.cleared = true ∧
    (∀ c, 1 ≤ c → u.col c = 0) ∧ (∀ j, bitOf (u.col 0) j = decide (j < t.vlmax)) ∧ u.s = t.s ∧ u.pc = t.pc) ∧
  (∀ l, q.launch? k = some l → s.launchDone q l = true → l.start ≠ none →
    let s₀ := s.releasePartition q
    let s₁ := State.writeRecord { s₀ with fresh := s₀.fresh + 1 } vf l.queue l.compl l.irq
      (recordBytes (if l.killed then 5 else 0) l.dropped l.created (l.start.getD 0) s₀.cycle.toNat)
    ∀ p, s₁.part? vf = some p → exec (.launchEnd vf k) s = .next
      { s₁.setPart { p with launches := p.launches.filter (·.id != k) } with
        hives := s₁.hives.map fun h => if h.tag.any (fun g => g.1 == vf && g.2.1 == k) then { h with tag := none } else h }) ∧
  (∀ l, q.launch? k = some l → s.launchDone q l = false → exec (.launchEnd vf k) s = .next s)

/-- DRAW (R176 to R178): a draw takes the next state of the lottery, sets the winner's age to zero and raises the others', and places the task
that the winner's queue gives; the lottery's state steps by three shifts; an eligible queue of age 4,096 wins, and else the queue whose
tickets hold the drawn number; it adds one task, with the next identity, at its stage's entry. STAGE_EPOCH and AFR_UPDATE (R55, R57, R179,
R183): an epoch tags the free hives of every partition that runs and chooses the producers that must be swapped; it places, moves and ends
no task. The forecast counts its updates. -/
def Obligations.DrawsAndEpochsComplete : Prop :=
  ((∀ (s : State) vf l q, s.part? vf = some q → s.drawDue q = true →
    let el := s.eligible q
    let ids := el.map (·.1)
    let x := lottery q.lseed
    (∀ w y, q.winner (el.map (·.1)) x = some w → el.find? (·.1 == w) = some y →
      exec (.draw vf l) s = .next ((s.setPart { q.ageQueues w (el.map (·.1)) with lseed := x, drawAt := s.cycle.toNat + 4 }).create
        { q.ageQueues w (el.map (·.1)) with lseed := x, drawAt := s.cycle.toNat + 4 } y.2)) ∧
    (∀ pre k c, ids = pre ++ k :: c → (∀ j ∈ pre, (q.queue j).age ≠ 4096) → (q.queue k).age = 4096 → q.winner ids x = some k) ∧
    (∀ pre k c, ids = pre ++ k :: c → (∀ j ∈ ids, (q.queue j).age ≠ 4096) →
      let tickets (l : List Nat) : Nat := (l.map fun j => (q.queue j).tickets.toNat).sum
      tickets pre ≤ x.toNat % tickets ids → x.toNat % tickets ids < tickets pre + (q.queue k).tickets.toNat → q.winner ids x = some k) ∧
    (∀ w k, k < 16 → (q.ageQueues w ids).queue k =
      if ids.contains k then { q.queue k with age := if k = w then 0 else min 4096 ((q.queue k).age + 1) } else q.queue k)) ∧
  (∀ x : BitVec 32, lottery x = (let a := x ^^^ (x <<< 13); let b := a ^^^ (a >>> 17); b ^^^ (b <<< 5))) ∧
  (∀ (s : State) q (x : Placing) run vlc slot, s.freeRun x.hive (x.launch.stage x.stage).combs = some run →
    s.freeVlc x.hive = some vlc → s.freeSlot q = some slot → (x.stage = 0 ∨ (x.launch.stage x.stage).stream = true) →
    ∃ t, (s.create q x).tasks = s.tasks ++ [t] ∧ t.id = s.nextTask ∧ (s.create q x).nextTask = s.nextTask + 1 ∧
      t.pc = BitVec.ofNat 56 (x.launch.stage x.stage).entry ∧ t.rs 1 = x.launch.arg ∧ (∀ n < 64, n ≠ 1 → t.rs n = 0) ∧
      (∀ n, 0 < n → t.rq n = false) ∧ t.hive = x.hive ∧ t.vlc = vlc ∧ t.firstComb = run ∧ t.slot = slot ∧ t.place = .vlc ∧
      t.cleared = false ∧ t.tin = false ∧ t.tvec = 0 ∧ t.ocld = 0 ∧ t.ocst = 0 ∧ t.occp = 0 ∧ t.ocmx = 0 ∧
      t.live = (x.launch.stage x.stage).live ∧ t.combs = (x.launch.stage x.stage).combs)) ∧
  (∀ s : State,
  (∃ s', exec .stageEpoch s = .next s' ∧ s'.parts = s.parts ∧ s'.mem = s.mem ∧ s'.jobs = s.jobs ∧ s'.cycle = s.cycle ∧
    s'.tasks.map (fun t => { t with stop := none, stopAt := 0 }) = s.tasks.map (fun t => { t with stop := none, stopAt := 0 }) ∧
    (∀ t ∈ s'.tasks, t ∈ s.tasks ∨ t.stop = some .fullQueue)) ∧
  ((∀ p ∈ s.parts, p.psState ≠ 0) → exec .stageEpoch s = .next s) ∧
  (∃ s', exec .afrUpdate s = .next s' ∧ s'.afrSeq = s.afrSeq + 1 ∧ s'.afrHbm = BitVec.ofNat 8 s.forecast.1 ∧
    s'.afrMx = BitVec.ofNat 8 s.forecast.2.1 ∧ s'.afrPass = BitVec.ofNat 8 s.forecast.2.2 ∧
    s' = { s with afrSeq := s'.afrSeq, afrHbm := s'.afrHbm, afrMx := s'.afrMx, afrPass := s'.afrPass }))

/-- TASK_SWAP and TASK_RESTORE (R185, R189 to R192): a stopped task's stores are performed and released, its context goes to its frame, with
the notice of the fault that stopped it, or to shadow store while its partition saves; a restore puts it in the lowest free VLC and run of
its own hive; a task whose stores cannot all be settled yet waits for them; the task's first instruction there ends D, moves its promises
and lease, and tells it of its cause. A task that is not stopped, or no restore that can be made, changes nothing. That a restored task
takes the lowest free VLC is the model's (log 19). PSCTL_SAVE, PARTITION_SAVED, PSCTL_RESTORE and PARTITION_RESTORED (R193, R194): a
running partition begins to save and asks its tasks to stop; with none left in a VLC it is saved; a saved one begins to restore; then its
tasks return and it runs. Each command is ignored in another state. What a save does with frames and with a PFDONE that comes meanwhile is
the model's (log 49). -/
def Obligations.SwapsAndPartitionSavesComplete : Prop :=
  (∀ (s : State) n t q, s.task? n = some t → s.part? t.vf = some q →
  (∀ why, t.stop = some why → t.stopped = true →
    ∀ u, (s.settleStores t q).task? n = some u →
    let s₁ := s.settleStores t q
    let v := u.saved s₁.cycle.toNat
    (s₁.unsettled u = true → exec (.taskSwap n) s = .next s₁) ∧ (s₁.unsettled u = false →
    (q.psState ≠ 0 → exec (.taskSwap n) s = .next (s₁.setTask { v with place := .shadow s₁.cycle.toNat })) ∧
    (q.psState = 0 → (∀ c a, why ≠ .fault c a) →
      exec (.taskSwap n) s = .next (((s₁.tagLast u).setTask { v with place := .frame why s₁.cycle.toNat false }).writeFrame q u.slot)) ∧
    (∀ c a, q.psState = 0 → why = .fault c a → q.pfdones.contains u.slot = false →
      exec (.taskSwap n) s = .next ((((s₁.tagLast u).setTask { v with place := .frame why s₁.cycle.toNat false }).writeFrame q u.slot).raiseNotice q.vf
        { u.notice c (BitVec.ofNat 32 u.slot) (w64 a) with task := some n })))) ∧
  (∀ u : Task, (u.saved 0).stop = none ∧ (u.saved 0).wait = none ∧ (u.saved 0).s = u.takeSum.s ∧ (u.saved 0).q = u.q ∧ (u.saved 0).pc = u.pc ∧
    (u.saved 0).avl = u.avl ∧ (u.saved 0).strip = u.strip ∧ (u.saved 0).vstart = u.vstart ∧ (u.saved 0).loops = u.loops ∧
    (u.saved 0).tepc = u.tepc ∧ (u.saved 0).fq = u.fq ∧ (u.saved 0).defer = u.defer ∧ (u.saved 0).id = u.id) ∧
  ((t.stop = none ∨ t.stopped = false) → exec (.taskSwap n) s = .next s) ∧
  (∀ cause v, t.restored = some (cause, v) →
    let d := s.cycle.toNat - t.stopAt
    let u : Task := { t with restored := none, lease := t.lease.map (· + s.cycle.toNat) }
    let s₁ := (s.setTask u).rebaseSwap t.id d
    ((u.tnote = true ∧ u.tin = false) → s.firstAgain t = s₁.takeTrap u cause (v.getD (w64 d)) u.pc) ∧
    ((u.tnote = false ∨ u.tin = true) → s.firstAgain t = s₁)) ∧
  (∀ run vlc, s.freeRun t.hive t.combs = some run → s.restorable t = true → s.freeVlc t.hive = some vlc →
    let v := { t with firstComb := run, vlc := vlc }
    (∀ c a since ready, t.place = .frame (.fault c a) since ready →
      exec (.taskRestore n t.hive vlc) s = .next (s.putBack v cRESUMED (some (w64 a)))) ∧
    (∀ since ready, t.place = .frame .preempt since ready → exec (.taskRestore n t.hive vlc) s = .next (s.putBack v cPREEMPTED none))) ∧
  (∀ hv vlc, (s.restorable t = false ∨ t.hive ≠ hv) → exec (.taskRestore n hv vlc) s = .next s)) ∧
  (∀ (s : State) vf q, s.part? vf = some q →
  (q.psState = 0 → ∃ s', exec (.psctlSave vf) s = .next s' ∧ s'.part? vf = some { q with psState := 1 } ∧
    (∀ t ∈ s'.tasks, t.vf = q.vf → t.place = .vlc → t.isEnding = false → t.stop ≠ none) ∧ s'.mem = s.mem ∧ s'.honey = s.honey ∧
    s'.tasks.map (·.id) = s.tasks.map (·.id)) ∧
  (q.psState ≠ 0 → exec (.psctlSave vf) s = .next s) ∧
  (s.saveDone q = true → exec (.partitionSaved vf) s = .next
    { s.setPart { q with psState := 2 } with shadow := s.shadow ++ (List.range q.nHives).map (q.firstHive + ·) }) ∧
  (s.saveDone q = false → exec (.partitionSaved vf) s = .next s) ∧
  (q.psState = 2 → exec (.psctlRestore vf) s = .next (s.setPart { q with psState := 3 })) ∧
  (q.psState ≠ 2 → exec (.psctlRestore vf) s = .next s) ∧
  (q.psState ≠ 3 → exec (.partitionRestored vf) s = .next s) ∧
  (q.psState = 3 → (∀ t ∈ s.tasks, t.vf = vf → ∀ c, t.place ≠ .shadow c) → q.pfdones = [] →
    exec (.partitionRestored vf) s = .next { s.setPart { q with psState := 0 } with
      shadow := s.shadow.filter fun h => !((List.range q.nHives).map (q.firstHive + ·)).contains h }))

/-- NOTICE_WRITE and INSTRUCTION_PAGE_FAULT (R196, R197, R204, R207, R265, R433): the oldest notice is written at SNQPROD modulo 4,096,
SNQPROD rises and the host is signalled; one that cannot be written goes to the error log; a full ring holds every notice. The SVC whose
notice it was completes then, with the notice's index in s(SD), all ones where it could not be written; a task that waits to end does so
with its last notice. A fetch that does not translate asks for the task's swap with MEM.IPF, unless a stop is already asked for, and one
whose leaf has no X raises MEM.PROT, each with the word's address. -/
def Obligations.NoticesAndFetchFaultsComplete : Prop :=
  ∀ (s : State) vf q, s.part? vf = some q →
  (∀ n rest, q.notices = n :: rest → (q.snqprod - q.snqcons).toNat < 4096 →
    let a := q.snqbase.toNat * 2 ^ 17 + 32 * (q.snqprod.toNat % 4096)
    n.bytes.length = 32 ∧
    ∀ (s₂ : State) (index : Word),
      ((∃ s₁, State.devWrite q a n.bytes s = .ok s₁ ∧ s₁.part? vf = some q ∧ index = q.snqprod.setWidth 64 ∧
        s₂ = (s₁.setPart { q with notices := rest, snqprod := q.snqprod + 1 }).send (.msix vf 1)) ∨
      (∃ e, State.devWrite q a n.bytes s = .error e ∧ index = BitVec.allOnes 64 ∧
        s₂ = ((s.setPart { q with notices := rest }).logRecord n.cause n.bytes).send (.msix 0 1))) →
      (n.task = none ∨ (n.svc = false ∧ ∀ u, n.task.bind s₂.task? = some u → u.wait ≠ some .leaving) →
        exec (.noticeWrite vf) s = .next s₂) ∧
      (∀ k u i sd, n.svc = true → n.task = some k → s₂.task? k = some u → u.wait = some (.notice i sd) →
        exec (.noticeWrite vf) s = .next (s₂.setTask ((u.awake.ws sd index).retire i))) ∧
      (∀ k u, n.svc = false → n.task = some k → s₂.task? k = some u → u.wait = some .leaving → u.vf = vf →
        ((∃ x ∈ rest, x.task = some k) → exec (.noticeWrite vf) s = .next s₂) ∧
        ((∀ x ∈ rest, x.task ≠ some k) → exec (.noticeWrite vf) s = .next (s₂.endTask u)))) ∧
  (4096 ≤ (q.snqprod - q.snqcons).toNat → exec (.noticeWrite vf) s = .next s) ∧
  (q.notices = [] → exec (.noticeWrite vf) s = .next s) ∧
  (∀ n t a, s.task? n = some t → t.vf = vf →
    (∀ l, s.icLine (t.ctx q) a = .ok l → exec (.instructionPageFault n a) s = .next s) ∧
    (s.icLine (t.ctx q) a = .error .unmapped →
      exec (.instructionPageFault n a) s = .next (s.setTask
        { t with stop := some (t.stop.getD (.fault cIPF a)), stopAt := if t.stop.isSome then t.stopAt else s.cycle.toNat })) ∧
    (s.icLine (t.ctx q) a = .error .denied → exec (.instructionPageFault n a) s = .next (s.takeTrap t cPROT (w64 a) t.pc)))

/-! ## Clocks, readiness and resets -/

/-- REFRESH_START and REFRESH_END, CLOCK_STEP_CHANGE, READY_SET, FUNCTION_FAIL, THERMAL_HOLD, THERMAL_RESET and DEVICE_RESET (R6, R30, R422,
R427): the bank group that refreshes is the cycle's, in the first 384 of its 1,536 cycles; the clock takes the highest of the 13 steps
from 1.2 down to 0.6 GHz that the power limit allows, and 0.6 GHz under the thermal hold; READY and FAILED follow their functions, and the
host is signalled at each change of READY; a reset leaves the machine as State.reset, but for what memory holds, the messages sent and the
count of free values (logs 26 and 9), and an image that CFGNEXT left is applied and sets READY.KEEPER (log 27). What the error log's entry
of a thermal hold holds is free. -/
def Obligations.ClocksAndResetsComplete : Prop :=
  ∀ (s : State) (bit : Nat),
  (∀ i ∈ ([.refreshStart, .refreshEnd] : List Instr),
    (s.cycle.toNat % 1536 < 384 → exec i s = .next { s with refreshing := some (s.cycle.toNat / 1536 % 16) }) ∧
    (384 ≤ s.cycle.toNat % 1536 → exec i s = .next { s with refreshing := none })) ∧
  (∃ f, exec .clockStepChange s = .next { s with clock := f } ∧ 12 ≤ f ∧ f ≤ 24 ∧ (s.thermalHold = true → f = 12) ∧
    (s.thermalHold = false → (s.stepFits f = true ∨ f = 12) ∧ ∀ g, f < g → g ≤ 24 → s.stepFits g = false)) ∧
  (∀ f, s.stepFits f = true ↔ 24 * (411 * 255 + 320 * s.afrHbm.toNat) + (564 * s.afrPass.toNat + 905 * s.afrMx.toNat) * f ≤
    24 * 255 * min 2200 s.keeper.powerLimit) ∧
  (s.mayBeReady bit = true → s.ready.getLsbD bit = false →
    ∃ r : BitVec 28, exec (.readySet bit) s = .next ({ s with ready := r, everReady := s.everReady ||| r }.send (.msix 0 2)) ∧
      ∀ k < 28, r.getLsbD k = (s.ready.getLsbD k || k == bit)) ∧
  (s.mayBeReady bit = true → s.ready.getLsbD bit = true → exec (.readySet bit) s = .next s) ∧
  (s.mayBeReady bit = false → exec (.readySet bit) s = .next s) ∧
  (bit < 28 → ∃ s', exec (.functionFail bit) s = .next s' ∧ (∀ k < 28, s'.failed.getLsbD k = (s.failed.getLsbD k || k == bit)) ∧
    (∀ k < 28, s'.ready.getLsbD k = (s.ready.getLsbD k && k != bit)) ∧ s'.mem = s.mem ∧ s'.honey = s.honey ∧
    ((bit < 9 ∨ 16 < bit) → s'.tasks = s.tasks) ∧
    (∀ t ∈ s'.tasks, 9 ≤ bit → bit ≤ 16 → dieOf t.hive = bit - 9 → t.isEnding = true)) ∧
  exec (.thermalHold false) s = .next { s with thermalHold := false } ∧
  (∃ c v, exec (.thermalHold true) s = .next
    { s with keeper := { s.keeper with errlog := s.keeper.errlog ++ [(c, v)] }, thermalHold := true, clock := 12, fresh := s.fresh + 2 }) ∧
  (s.keeper.nextImage = none → ∀ i ∈ ([.thermalReset, .deviceReset] : List Instr), exec i s = .next
    { State.reset with
      mem := s.mem, honey := s.honey, badMem := s.badMem, badHoney := s.badHoney, msgs := s.msgs, fresh := s.fresh }) ∧
  (∀ b, s.keeper.nextImage = some b → ∀ i ∈ ([.thermalReset, .deviceReset] : List Instr), ∃ s', exec i s = .next s' ∧
    s'.keeper.image = b ∧ s'.keeper.cfgstat = 1 ∧ s'.mem = s.mem ∧ s'.honey = s.honey ∧ s'.tasks = [] ∧ s'.parts = [] ∧ s'.jobs = [] ∧
    s'.cycle = 0 ∧ (∀ k < 28, s'.ready.getLsbD k = (k == 27)) ∧ s'.failed = 0)

/-! ## The keeper -/

namespace Sys2Proof.Machine

/-- The machine once a mailbox command has started (R425): its number and arguments are held, and BUSY is set. -/
def State.started (s : State) (n : Nat) (args : List Word) : State :=
  { s with keeper := { s.keeper.putArgs args with
      mbcmd := w64 n, run := (s.keeper.putArgs args).mbarg, busy := true, result := none } }

/-- The machine with the status that the running command will report. -/
def State.answers (s : State) (r : Option Nat) : State := { s with keeper := { s.keeper with result := r } }

/-- Argument `k` of a command: the word that the host writes with it, else what stands in MBARG. -/
def State.mailArg (s : State) (args : List Word) (k : Nat) : Word := args.getD k (s.keeper.mbarg.toArray.getD k 0)

end Sys2Proof.Machine

/-- Every mailbox command completes (R40, R194, R412, R417, R422 to R428, R432): while BUSY is 0, the keeper is ready and the host port
answers, it starts and does what the table says. PCREATE answers 1 for a set or a value that is not legal, 2 for one in use, 3 while a
function that it needs is not ready, and else adds the partition; PDESTROY removes one without tasks and enabled queues; PSAVE, PRESTORE
and LKILL begin what ends later; QSUP sets LQCTL.SUP; PEERWIN sets a window; ATTEST writes its report; CHECKPOINT answers 2 where it may
not run; CFGNEXT keeps a good image; an unassigned command answers 5. Otherwise a command is ignored, but that a PSAVE during a checkpoint
waits for its end. What PDESTROY answers for a function without a partition, that a window of length 0 is closed, and what arguments a
running command reads are the model's (logs 24, 25 and 55). CFGLEN, MAILBOX_COMPLETE and the copy of a checkpoint (R416, R423, R425, R428,
R432): an image is checked once, longer than the window's 512 KiB answers 2, and READY.KEEPER (bit 27) is set with the check, whatever it
reports, unless the keeper has failed; one applied is not replaced. A command whose status is known ends: BUSY falls, MBSTAT takes the
status and the host is signalled; another ends when its partition is saved, runs again, or has ended the launch; a checkpoint ends with
its copy, which moves every byte of the honey store and of HBM between the device and the host buffer, and reads all ones where the host
port does not answer; of a function that has failed it reads all ones, and what it would write there is dropped (R432); a PSAVE that
waited for it then starts. -/
def Obligations.KeeperCommandsComplete : Prop :=
  (∀ (s : State) (args : List Word) c, args.length ≤ 15 →
  let a (k : Nat) : Nat := (s.mailArg args k).toNat
  let ignored := s.keeper.busy = true ∨ s.ready.getLsbD 27 = false ∨ s.portLive 8 = false
  (ignored → ∀ i ∈ ([.pcreate args, .pdestroy args, .prestore args, .qsup args, .peerwin args, .attest args, .checkpoint args,
      .cfgnext args, .lkill args, .unknownCommand c args] : List Instr), exec i s = .next s) ∧
  (ignored → (s.keeper.busy = false ∨ s.keeper.mbcmd ≠ 8 ∨ s.portLive 8 = false) → exec (.psave args) s = .next s) ∧
  (s.keeper.busy = true → s.keeper.mbcmd = 8 → s.portLive 8 = true → s.keeper.later = none → exec (.psave args) s =
    .next { s with keeper := { s.keeper.putArgs args with later := some (s.keeper.putArgs args).mbarg } }) ∧
  (s.keeper.busy = false → s.ready.getLsbD 27 = true → s.portLive 8 = true →
    (let legal := a 0 + a 1 ≤ 512 ∧ (a 1 = 16 ∧ a 0 % 16 = 0 ∨ a 1 = 32 ∧ a 0 % 32 = 0 ∨ a 1 ≠ 0 ∧ a 1 % 64 = 0 ∧ a 0 % 64 = 0) ∧
        a 2 ≠ 0 ∧ a 2 ≤ 16 ∧ a 3 < 2 ^ 16 ∧ a 4 < 2 ^ 56
      let taken := ∃ p ∈ s.parts, p.vf = a 2 ∨ a 0 < p.firstHive + p.nHives ∧ p.firstHive < a 0 + a 1
      let unready := s.keeper.cfgstat ≠ 1 ∨ ∃ d < 8, s.ready.getLsbD (17 + d) = false ∨
        s.ready.getLsbD (9 + d) = false ∧ a 0 < 64 * d + 64 ∧ 64 * d < a 0 + a 1;
      (¬legal → exec (.pcreate args) s = .next ((s.started 1 args).answers (some 1))) ∧
      (legal → taken → exec (.pcreate args) s = .next ((s.started 1 args).answers (some 2))) ∧
      (legal → ¬taken → unready → exec (.pcreate args) s = .next ((s.started 1 args).answers (some 3))) ∧
      (legal → ¬taken → ¬unready → ∃ hs, exec (.pcreate args) s = .next ({ s.started 1 args with
        parts := s.parts ++ [Partition.create (a 2) (a 0) (a 1) (a 4) (BitVec.ofNat 16 (a 3))], hives := hs }.answers (some 0)))) ∧
    (∀ q, s.part? (a 0) = some q →
      (((∃ t ∈ s.tasks, t.vf = q.vf) ∨ ∃ k < 16, (q.queue k).en = true) →
        exec (.pdestroy args) s = .next ((s.started 2 args).answers (some 2))) ∧
      ((∀ t ∈ s.tasks, t.vf ≠ q.vf) → (∀ k < 16, (q.queue k).en = false) → ∃ s', exec (.pdestroy args) s = .next s' ∧
        s'.parts = s.parts.filter (·.vf != q.vf) ∧ s'.keeper.result = some 0 ∧ s'.mem = s.mem ∧ s'.tasks = s.tasks) ∧
      (q.psState = 0 → exec (.psave args) s = .next ((s.started 3 args).savePartition q)) ∧
      (q.psState ≠ 0 → exec (.psave args) s = .next ((s.started 3 args).answers (some 2))) ∧
      (q.psState = 2 → exec (.prestore args) s = .next ((s.started 4 args).setPart { q with psState := 3 })) ∧
      (q.psState ≠ 2 → exec (.prestore args) s = .next ((s.started 4 args).answers (some 2))) ∧
      (a 1 < 16 → a 2 ≤ 1 → exec (.qsup args) s = .next
        (((s.started 5 args).setPart (q.setQueue (a 1) { q.queue (a 1) with sup := a 2 == 1 })).answers (some 0))) ∧
      ((16 ≤ a 1 ∨ 1 < a 2) → exec (.qsup args) s = .next ((s.started 5 args).answers (some 1))) ∧
      (∀ l, q.launches.find? (fun l => l.queue == a 1 && l.serial == a 2 && !l.killed) = some l →
        exec (.lkill args) s = .next ((s.started 10 args).setPart (q.setLaunch { l with
          killed := true, dropped := l.dropped + (l.stages.map (·.count)).sum
          stages := l.stages.map fun g => { g with head := g.head + g.count, count := 0 } }))) ∧
      (q.launches.find? (fun l => l.queue == a 1 && l.serial == a 2 && !l.killed) = none →
        exec (.lkill args) s = .next ((s.started 10 args).answers (some 1)))) ∧
    (s.part? (a 0) = none → ∃ r, exec (.pdestroy args) s = .next ({ s.started 2 args with fresh := s.fresh + 1 }.answers (some r))) ∧
    (let good := a 0 < 8 ∧ a 1 < 16 ∧ a 2 < 2 ^ 45 ∧ a 3 < 2 ^ 45 ∧ a 2 + a 3 ≤ 2 ^ 45 ∧ a 4 < 2 ^ 16 ∧ a 5 < 2 ^ 56 ∧ a 6 < 8
      let rest := (s.port (a 0)).windows.filter (·.1 != a 1);
      (good → exec (.peerwin args) s = .next (((s.started 6 args).setPort (a 0) { s.port (a 0) with
        windows := if a 3 = 0 then rest
          else (a 1, ⟨a 2, a 3, a 4, a 5, bitOf (a 6) 0, bitOf (a 6) 1, bitOf (a 6) 2⟩) :: rest }).answers (some 0))) ∧
      (¬good → exec (.peerwin args) s = .next ((s.started 6 args).answers (some 1)))) ∧
    exec (.attest args) s = .next (((s.started 7 args).hostWrite (a 8)
      (Config.attestation ((List.range 8).flatMap fun k => leBytes 8 (a k)) s.keeper.image)).answers (some 0)) ∧
    exec (.checkpoint args) s = .next ((s.started 8 args).answers (if s.checkpointOk then none else some 2)) ∧
    (let b := s.hostRead (a 0) 0x80000;
      exec (.cfgnext args) s = .next (if Config.imageVerdict b = 1 then
        { s.started 9 args with keeper := { (s.started 9 args).keeper with nextImage := some b, result := some 0 } }
        else (s.started 9 args).answers (some 4))) ∧
    ((c = 0 ∨ 10 < c) → exec (.unknownCommand c args) s = .next ((s.started c args).answers (some 5))) ∧
    (1 ≤ c → c ≤ 10 → exec (.unknownCommand c args) s = .next s))) ∧
  (∀ (s : State) (len : Word) (image : List Byte),
  let w := (image ++ s.keeper.window.drop image.length).take 0x80000
  let taken := (List.range len.toNat).map fun i => w.getD i 0
  ((s.keeper.cfgstat = 1 ∨ s.portLive 8 = false) → exec (.cfglen len image) s = .next s) ∧
  (s.keeper.cfgstat ≠ 1 → s.portLive 8 = true → 0x80000 < len.toNat → s.failed.getLsbD 27 = false → s.ready.getLsbD 27 = false →
    exec (.cfglen len image) s = .next ({ s with
      keeper := { s.keeper with window := w, cfglen := len, cfgstat := 2 }, ready := s.ready ||| bit28 27,
      everReady := s.everReady ||| (s.ready ||| bit28 27) }.send (.msix 0 2))) ∧
  (s.keeper.cfgstat ≠ 1 → s.portLive 8 = true → len.toNat ≤ 0x80000 → Config.imageVerdict taken = 1 →
    ∃ s', exec (.cfglen len image) s = .next s' ∧ s'.keeper.cfgstat = 1 ∧ s'.keeper.powerLimit ≤ 2200 ∧ s'.mem = s.mem ∧ s'.tasks = s.tasks ∧
      s'.keeper.image = taken ∧ (∀ k < 28, s'.ready.getLsbD k = (s.ready.getLsbD k || (k == 27 && !s.failed.getLsbD 27)))) ∧
  (s.keeper.cfgstat ≠ 1 → s.portLive 8 = true → len.toNat ≤ 0x80000 → Config.imageVerdict taken ≠ 1 →
    ∃ s', exec (.cfglen len image) s = .next s' ∧ s'.keeper.image = s.keeper.image ∧ s'.ports = s.ports ∧
      s'.keeper.cfgstat = (if Config.imageVerdict taken = 3 then 3 else if Config.imageVerdict taken = 4 then 4 else 2) ∧
      (∀ k < 28, s'.ready.getLsbD k = (s.ready.getLsbD k || (k == 27 && !s.failed.getLsbD 27)))) ∧
  (let ends (s : State) (r : Nat) : State :=
      { s with keeper := { s.keeper with busy := false, result := none, status := BitVec.ofNat 16 r } }.send (.msix 0 0);
    (∀ r, s.keeper.busy = true → s.keeper.result = some r → s.keeper.later = none → exec .mailboxComplete s = .next (ends s r)) ∧
    (s.keeper.busy = false → exec .mailboxComplete s = .next s) ∧
    (∀ q, s.keeper.busy = true → s.keeper.result = none → s.keeper.later = none → s.part? (s.keeper.arg 0) = some q →
      (s.keeper.mbcmd = 3 → exec .mailboxComplete s = .next (if q.psState = 2 then ends s 0 else s)) ∧
      (s.keeper.mbcmd = 4 → exec .mailboxComplete s = .next (if q.psState = 0 then ends s 0 else s)) ∧
      (s.keeper.mbcmd = 10 → exec .mailboxComplete s = .next (if q.launches.any
        (fun l => l.queue == s.keeper.arg 1 && l.serial == s.keeper.arg 2) then s else ends s 0))) ∧
    (s.keeper.busy = true → s.keeper.result = none → s.keeper.mbcmd = 8 →
      (s.keeper.later = none → exec .mailboxComplete s = .next (ends s.runCheckpoint 0)) ∧
      (∀ v, s.keeper.later = some v → exec .mailboxComplete s = .next (startCommand 3
        (let s₁ := ends s.runCheckpoint 0; { s₁ with keeper := { s₁.keeper with mbarg := v, later := none } }) State.startPsave)))) ∧
  (let a := s.keeper.arg 0
    let buf (x : Nat) : Nat := Config.hostBase + a + x;
    a + (Config.honeyEnd + Config.hbmEnd) ≤ 2 ^ 48 →
    (s.keeper.arg 1 = 0 → s.portAnswers 8 = false → s.runCheckpoint = s) ∧
    (s.keeper.arg 1 = 0 → s.portAnswers 8 = true → s.dieLines = [] →
      (∀ x < Config.honeyEnd, memRead s.runCheckpoint.mem (buf x) = if s.honeyDead then 0xFF else memRead s.honey x) ∧
      (∀ x < Config.hbmEnd, memRead s.runCheckpoint.mem (buf (Config.honeyEnd + x)) = if s.hbmFailed x then 0xFF else memRead s.mem x) ∧
      (∀ x, x < Config.hostBase + a ∨ buf (Config.honeyEnd + Config.hbmEnd) ≤ x →
        memRead s.runCheckpoint.mem x = memRead s.mem x) ∧ s.runCheckpoint.honey = s.honey) ∧
    (s.keeper.arg 1 ≠ 0 →
      let given (x : Nat) : Byte := if s.portAnswers 8 then memRead s.mem (buf x) else 0xFF
      (∀ x < Config.honeyEnd, memRead s.runCheckpoint.honey x = if s.honeyDead then memRead s.honey x else given x) ∧
      (∀ x < Config.hbmEnd, memRead s.runCheckpoint.mem x = if s.hbmFailed x then memRead s.mem x else given (Config.honeyEnd + x)) ∧
      (∀ x, Config.hbmEnd ≤ x → memRead s.runCheckpoint.mem x = memRead s.mem x))))

/-! ## Ports -/

/-- Links and versions (R412, R416, R419, R420): LINK_UP, LINK_DOWN, IDE_CHECK_FAIL, IDE_REKEY, VERSION, LSTART and UNKNOWN_VENDOR_MESSAGE. A
launch signal under interface version 0x0100 is dropped (log 48), and one of another GEN is discarded. BAREVT, BARRSP, BARRSP_TIMEOUT and
COMPLETION_TIMEOUT (R416, R419): an event of a launch that runs here is applied to its object and answered; of another it is discarded and
answered with 2; the answer, or the time's end, completes the instruction that waits, with 2 for an arrival and else with the object's
BGEN, or the job whose arrival awaits it; a read whose request times out completes with all ones, and its port is down; so is a port whose
partner answers none in time. That a timed-out BARINIT or BARKILL finds BGEN at the object's physical address is the model's (log 29).
That a partner which answers nothing is one event of the whole port, which lasts until it is ended, is the model's choice (log 75). -/
def Obligations.LinksAndRemoteAccessesComplete : Prop :=
  (∀ (s : State) port hi lo (gen : Word) rank code, let q := s.port port
  (port = 8 → exec (.linkUp port) s = .next (s.setPort 8 { q with up := true, down := false, mute := false, told := false })) ∧
  (port < 8 → s.keeper.cfgstat = 1 → s.ready.getLsbD (1 + port) = false → exec (.linkUp port) s = .next
    ((s.setPort port { q with up := true, down := false, version := 0, mismatch := false, mute := false, told := false }).send
      (.version port 0x0101 0x0100))) ∧
  (port < 8 → s.keeper.cfgstat ≠ 1 → exec (.linkUp port) s = .next s) ∧
  (port ≤ 8 → q.up = true → ∃ s', exec (.linkDown port) s = .next s' ∧ (s'.port port).up = false ∧ (s'.port port).down = true ∧ (s'.port port).told = true ∧
    s'.keeper.errlog = s.keeper.errlog ++ [(cLINK, w64 port)] ∧ s'.mem = s.mem ∧ s'.tasks = s.tasks ∧
    s'.ready.getLsbD (if port = 8 then 0 else 1 + port) = false ∧
    (port ≠ 8 → s.portLive 8 = true → (OutMsg.msix 0 1) ∈ s'.msgs)) ∧
  (q.up = false → exec (.linkDown port) s = .next s) ∧
  (port ≤ 8 → exec (.ideCheckFail port) s = .next ((s.setPort port { q with insecure := true, down := true, told := true }).hostCause cLINK (w64 port))) ∧
  (port ≤ 8 → exec (.ideRekey port) s = .next (s.setPort port { q with insecure := false, told := q.told && !q.mute })) ∧
  (port < 8 → q.up = true → max lo 0x0100 ≤ min hi 0x0101 → ∃ s', exec (.version port hi lo) s = .next s' ∧
    (s'.port port).version = min hi 0x0101 ∧ (s'.port port).mismatch = false ∧ s'.ready.getLsbD (1 + port) =
      (s.ready.getLsbD (1 + port) || !s.failed.getLsbD (1 + port))) ∧
  (port < 8 → q.up = true → min hi 0x0101 < max lo 0x0100 → ∃ s', exec (.version port hi lo) s = .next s' ∧
    (s'.port port).version = 0 ∧ (s'.port port).mismatch = true ∧ s'.ready.getLsbD (1 + port) = false) ∧
  (s.takesMessages port = true → 0x0101 ≤ q.version → s.runsGen gen = true →
    exec (.lstart port gen rank) s = .next (s.setPort port { q with gen := gen, rank := rank })) ∧
  ((q.version < 0x0101 ∨ s.runsGen gen = false) → exec (.lstart port gen rank) s = .next s) ∧
  (s.takesMessages port = true ∨ port = 8 ∧ s.portLive 8 = true → code ≠ 0x01 → code ≠ 0x10 → code ≠ 0x11 → code ≠ 0x20 →
    exec (.unknownVendorMessage port code) s = .next (s.setPort port { q with dropped := q.dropped + 1 }))) ∧
  (∀ (s : State) port (gen : Word) addr event (g : Word) tag (v : Word), s.takesMessages port = true →
  (s.runsGen gen = false → exec (.barevt port gen addr event g tag) s = .next (s.send (.barrsp port tag 2))) ∧
  (s.runsGen gen = true → ∀ q va ev, s.decodeInbound port addr 64 (fun w => w.r && w.w) = some (q, va) → barEventOf event g = some ev →
    ev ≠ .init 0 → ∀ l s₁, State.devRead q va 64 s = .ok (l, s₁) → anyBad l = false → ∀ b st, barrierApply (bytesOf l) ev = some (b, st) →
    ∀ s₂, State.devWrite q va b s₁ = .ok s₂ → ∀ e s₃, (s₂.send (.barrsp port tag (w64 st))).translate q.ctx va none = .ok (e, s₃) →
      exec (.barevt port gen addr event g tag) s = .next (State.releaseWaiters (e.phys va) ev st s₃.tasks s₃)) ∧
  (∀ t i sd arrive phys, s.task? tag = some t → t.wait = some (.remote i sd port arrive phys) →
    exec (.barrsp port tag v) s = .next (s.setTask ((t.awake.ws sd v).retire i)) ∧
    exec (.barrspTimeout tag) s = .next (s.setTask
      ((t.awake.ws sd (if arrive then 2 else w64 (leNat (memReadN s.mem phys 8)))).retire i))) ∧
  (∀ j x, s.task? tag = none → j ∈ s.jobs → (∀ k ∈ s.jobs, k.tag = tag → k = j) → j.tag = tag → j.arrival = some x → x.stage = .sent →
    (portOf x.phys = port → exec (.barrsp port tag v) s = .next ((s.endJob j).settleStream j)) ∧
    exec (.barrspTimeout tag) s = .next ((s.endJob j).settleStream j)) ∧
  (∀ t x q e s₁, s.task? tag = some t → t.pend = some x → (x.handle.space = .host ∨ x.handle.space = .pool) → s.part? t.vf = some q →
    s.translate (t.ctx q) x.addr (some x.handle.space) = .ok (e, s₁) → s₁.tasks = s.tasks → portOf (e.phys x.addr) < 9 →
    (x.size = 1 ∨ x.size = 2 ∨ x.size = 4 ∨ x.size = 8) →
    ∃ s', exec (.completionTimeout (.task tag)) s = .next s' ∧ (s'.port (portOf (e.phys x.addr))).down = true ∧
      (∃ u, s'.task? tag = some u ∧ u = ({ t with pend := none }.awake.ws x.sd
        (extended (x.signed || x.atomic.isSome) x.size (2 ^ (8 * x.size) - 1))).retire x.instr) ∧ s'.mem = s₁.mem) ∧
  (∀ p, p < 9 →
    (s.portLive p = true → (s.port p).mute = false → exec (.completionTimeout (.port p true)) s =
      .next ((s.setPort p { s.port p with mute := true, down := true, told := true }).hostCause cLINK (w64 p))) ∧
    ((s.portLive p = false ∨ (s.port p).mute = true) → exec (.completionTimeout (.port p true)) s =
      .next (s.setPort p { s.port p with mute := true })) ∧
    ((s.port p).told = true → s.portRefused p = s) ∧
    ((s.port p).told = false → s.portRefused p =
      (s.setPort p { s.port p with down := true, told := true }).hostCause cLINK (w64 p)) ∧
    exec (.completionTimeout (.port p false)) s = .next (s.setPort p { s.port p with mute := false })))

/-- INBOUND_READ, INBOUND_WRITE and INBOUND_ATOMIC complete (R147, R200, R413, R417, R418, R422): the host port reads, writes and updates HBM
through the home die cache, and outside HBM answers Unsupported Request; a peer's request goes through its window and the partition's page
tables, and completes with Unsupported Request where it is not decoded or not allowed, with Completer Abort where a byte is uncorrectable,
and else with the bytes; a read of BAR0 answers with a function's registers, and Unsupported Request for an unbound one; a configuration
read before READY.HOST is to be retried. That the host port addresses HBM by physical address is the model's (log 28). That BAR reads of
any size are made by bytes, and register writes only as whole aligned words, is the model's (log 89). -/
def Obligations.InboundRequestsComplete : Prop :=
  ∀ (s : State) addr len port (bytes : List Byte) op w4 (a b : Word) vf, let n := if w4 then 4 else 8
  let bad (s : State) (k : Nat) (l : List (Byte × Bool)) (x : Nat) : State := (s.send (.abort k)).hostCause cHBMUE (w64 (x + l.findIdx (·.2)))
  (s.portLive 8 = true →
    (addr + len ≤ Config.hbmEnd →
      let l := (List.range len).map fun i => s.homeByte (addr + i)
      (anyBad l = false → exec (.inboundRead (.port 8) addr len) s = .next (s.send (.completion 8 (bytesOf l)))) ∧
      (anyBad l = true → exec (.inboundRead (.port 8) addr len) s = .next (bad s 8 l addr))) ∧
    (addr + bytes.length ≤ Config.hbmEnd → exec (.inboundWrite (.port 8) addr bytes) s =
      .next (bytes.zipIdx.foldl (fun s x => s.homeWrite (addr + x.2) x.1) s)) ∧
    (addr + n ≤ Config.hbmEnd →
      let s₀ := s.evictFrame (addr / 128 * 128)
      let l := (List.range n).map fun i => s₀.homeByte (addr + i)
      (anyBad l = true → exec (.inboundAtomic 8 addr op w4 a b) s = .next (bad s₀ 8 l addr)) ∧
      (∀ v, anyBad l = false → inboundNew op n (leNat (bytesOf l)) a.toNat b.toNat = some v → exec (.inboundAtomic 8 addr op w4 a b) s =
        .next (((leBytes n v).zipIdx.foldl (fun s x => s.physWrite (addr + x.2) x.1) s₀).send (.completion 8 (bytesOf l)))) ∧
      (anyBad l = false → inboundNew op n (leNat (bytesOf l)) a.toNat b.toNat = none → exec (.inboundAtomic 8 addr op w4 a b) s =
        .next (s₀.send (.completion 8 (bytesOf l)))))) ∧
  ((s.portLive 8 = false ∨ Config.hbmEnd < addr + len) → exec (.inboundRead (.port 8) addr len) s = .next (s.send (.unsupported 8))) ∧
  ((s.portLive 8 = false ∨ Config.hbmEnd < addr + bytes.length) →
    exec (.inboundWrite (.port 8) addr bytes) s = .next (s.send (.unsupported 8))) ∧
  ((s.portLive 8 = false ∨ Config.hbmEnd < addr + n) → exec (.inboundAtomic 8 addr op w4 a b) s = .next (s.send (.unsupported 8))) ∧
  (port < 8 → let ur := s.send (.unsupported port)
    (s.decodeInbound port addr len (·.r) = none → exec (.inboundRead (.port port) addr len) s = .next ur) ∧
    (∀ q va, s.decodeInbound port addr len (·.r) = some (q, va) →
      (∀ e, State.devRead q va len s = .error e → exec (.inboundRead (.port port) addr len) s = .next ur) ∧
      (∀ l s₁, State.devRead q va len s = .ok (l, s₁) → exec (.inboundRead (.port port) addr len) s =
        .next (if anyBad l then bad s₁ port l va else s₁.send (.completion port (bytesOf l))))) ∧
    (s.decodeInbound port addr bytes.length (·.w) = none → exec (.inboundWrite (.port port) addr bytes) s = .next ur) ∧
    (∀ q va, s.decodeInbound port addr bytes.length (·.w) = some (q, va) →
      (∀ e, State.devWrite q va bytes s = .error e → exec (.inboundWrite (.port port) addr bytes) s = .next ur) ∧
      (∀ s₁, State.devWrite q va bytes s = .ok s₁ → exec (.inboundWrite (.port port) addr bytes) s = .next s₁)) ∧
    (s.decodeInbound port addr n (·.a) = none → exec (.inboundAtomic port addr op w4 a b) s = .next ur) ∧
    (∀ q va, s.decodeInbound port addr n (·.a) = some (q, va) →
      (∀ e, State.ctrlRead q va n s = .error e → exec (.inboundAtomic port addr op w4 a b) s = .next ur) ∧
      (∀ l s₁, State.ctrlRead q va n s = .ok (l, s₁) →
        (anyBad l = true → exec (.inboundAtomic port addr op w4 a b) s = .next (bad s₁ port l va)) ∧
        (∀ v, anyBad l = false → inboundNew op n (leNat (bytesOf l)) a.toNat b.toNat = some v →
          ∀ s₂, State.ctrlWrite q va (leBytes n v) s₁ = .ok s₂ →
            exec (.inboundAtomic port addr op w4 a b) s = .next (s₂.send (.completion port (bytesOf l)))) ∧
        (anyBad l = false → inboundNew op n (leNat (bytesOf l)) a.toNat b.toNat = none →
          exec (.inboundAtomic port addr op w4 a b) s = .next (s₁.send (.completion port (bytesOf l))))))) ∧
  (∀ k old x y, inboundNew 0 k old x y = some ((old + x) % 2 ^ (8 * k)) ∧ inboundNew 1 k old x y = some (x % 2 ^ (8 * k)) ∧
    inboundNew 2 k old x y = if old = y % 2 ^ (8 * k) then some (x % 2 ^ (8 * k)) else none) ∧
  (s.portLive 8 = false → exec (.inboundRead (.bar vf) addr len) s = .next s ∧ exec (.inboundWrite (.bar vf) addr bytes) s = .next s) ∧
  (s.portLive 8 = true →
    (vf ≠ 0 → s.part? vf = none → exec (.inboundRead (.bar vf) addr len) s = .next (s.send (.unsupported 8)) ∧
      exec (.inboundWrite (.bar vf) addr bytes) s = .next (s.send (.unsupported 8))) ∧
    (∀ q, vf ≠ 0 → s.part? vf = some q →
      exec (.inboundRead (.bar vf) addr len) s = .next (s.send (.completion 8
        ((List.range len).map fun i => (leBytes 8 (s.barWord q ((addr + i) / 8)).toNat).getD ((addr + i) % 8) 0))) ∧
      (bytes.length = 8 → addr % 8 = 0 → addr / 8 < 0x90 → exec (.inboundWrite (.bar vf) addr bytes) s =
        exec (.barRegisterWrite vf (BitVec.ofNat 12 (0x800 + addr / 8)) (w64 (leNat bytes))) s)) ∧
    exec (.inboundRead (.bar 0) 0x1080 8) s =
      .next (s.send (.completion 8 (leBytes 8 (if s.keeper.busy then 2 ^ 63 + s.keeper.status.toNat else s.keeper.status.toNat)))) ∧
    exec (.inboundRead (.bar 0) 0x1090 1) s = .next (s.send (.completion 8 [s.keeper.cfgstat]))) ∧
  (s.ready.getLsbD 0 = false → exec (.inboundRead (.config vf) addr len) s = .next (s.send (.retry vf)))

/-- The fences and LSYNC complete once the task's own accesses are performed, its stores and its vector loads and stores (R255 to R257), a
release beyond the hive where every dirty byte of the task could be written back; until then they wait. FENCE.acq needs none performed. An
acquire leaves no clean byte of an owned line valid in the hive. The stall of a release that cannot write back is the model's reading (log
77). SVC, CFLUSH and CINV complete (R265, R266). CFLUSH writes back line by line along the range every dirty line that holds a byte of it.
CACHE_WRITE_BACK and HIVE_CACHE_PREFETCH (R148, R159): a dirty line that is evicted leaves the hive's cache, and its dirty bytes stand,
dirty, in the line of its home die cache; a prefetch fills a line of the hive's cache with what the die cache holds, and changes no byte
of memory and no task. That a prefetch which would need a victim is dropped, on which 'changes no byte of memory' rests, is the model's
(log 5). -/
def Obligations.FencesAndCacheMaintenanceComplete : Prop :=
  (∀ p scope s t q, s.runsQ p t → s.part? t.vf = some q →
    let held (i : Instr) : State := s.setTask { t with
      wait := some (.condition (some i)), stallSince := some (t.stallSince.getD s.cycle.toNat) }
    exec (.fenceAcq p scope) s = .next ((s.acquired scope (t.ctx q)).andRetire (.fenceAcq p scope) t.id) ∧
    (∀ (s : State) c, (∀ k ∈ (s.acquireHive c).hiveLines, c.owns k = true → k.2.dirty ≠ 0 ∧ k.2.stale = true) ∧
      (s.acquireHive c).hiveLines.map (·.2.key) = ((s.hiveLines.filter fun k => !(c.owns k && k.2.dirty == 0)).map (·.2.key))) ∧
    (∀ u, (s.drainStores t.id t.stores.length).curTask = some u → u.stores ≠ [] ∨ u.vld ≠ [] ∨ u.vst ≠ [] →
      ∀ i ∈ ([.lsync p, .fenceRel p scope, .fenceAr p scope] : List Instr), exec i s = .next (held i)) ∧
    ∀ s₁ u q₁, s.drained t s₁ u → s₁.part? u.vf = some q₁ →
      exec (.lsync p) s = .next (s₁.andRetire (.lsync p) t.id) ∧
      (scope ≠ .hive → (s₁.releaseTask (u.ctx q₁)).unreleased (u.ctx q₁) = true →
        exec (.fenceRel p scope) s = .next (held (.fenceRel p scope))) ∧
      ((scope ≠ .hive → (s₁.releaseTask (u.ctx q₁)).unreleased (u.ctx q₁) = false) →
      exec (.fenceRel p scope) s = .next ((s₁.released scope (u.ctx q₁)).andRetire (.fenceRel p scope) t.id) ∧
      ∀ v q₂, (s₁.released scope (u.ctx q₁)).curTask = some v → (s₁.released scope (u.ctx q₁)).part? v.vf = some q₂ →
        exec (.fenceAr p scope) s =
          .next (((s₁.released scope (u.ctx q₁)).acquired scope (v.ctx q₂)).andRetire (.fenceAr p scope) t.id))) ∧
  (∀ p sd scope icache h sa sb s t, s.runsQ p t →
    (∀ s₁ u, fenceRel .sys s = .ok ((), s₁) →
      (s₁.raiseNotice t.vf { t.notice cSWTRAP 0xFFFFFFFF (t.rs sa) with task := some t.id, svc := true }).curTask = some u →
      exec (.svc p sd sa) s = .next
        ((s₁.raiseNotice t.vf { t.notice cSWTRAP 0xFFFFFFFF (t.rs sa) with task := some t.id, svc := true }).setTask
          { u with wait := some (.notice (.svc p sd sa) sd), stallSince := none })) ∧
    (∀ q hd s₁, s.part? t.vf = some q → useHandle h s = .ok (hd, s₁) →
      ∀ s₂, checkBound hd (t.rs sa).toNat (t.rs sb).toNat s₁ = .ok ((), s₂) →
      let a := hd.addr (t.rs sa).toNat
      let n := (t.rs sb).toNat
      (hd.r = true → (hd.space ≠ .hbm ∨ n = 0) → exec (.cflush p scope h sa sb) s = .next (s₂.andRetire (.cflush p scope h sa sb) t.id)) ∧
      (hd.r = true → hd.space = .hbm → n ≠ 0 → ∀ s₃,
        forEach (flushLine scope t q) (s₂.dirtyNumbers q.asid.toNat a n) s₂ = .ok ((), s₃) →
        exec (.cflush p scope h sa sb) s = .next (s₃.andRetire (.cflush p scope h sa sb) t.id)) ∧
      (∀ k, k ∈ s₂.dirtyNumbers q.asid.toNat a n ↔ ∃ l ∈ s₂.hiveLines.map (·.2) ++ s₂.dieLines,
        l.dirty ≠ 0 ∧ l.inRange q.asid.toNat a n = true ∧ l.key.number = k) ∧
      (s₂.dirtyNumbers q.asid.toNat a n).Pairwise (fun x y =>
        (x * 128 + 2 ^ 56 - a / 128 * 128) % 2 ^ 56 ≤ (y * 128 + 2 ^ 56 - a / 128 * 128) % 2 ^ 56) ∧
      (hd.w = true → (hd.space ≠ .hbm ∨ n = 0) →
        exec (.cinv p scope icache h sa sb) s = .next (s₂.andRetire (.cinv p scope icache h sa sb) t.id)) ∧
      (hd.w = true → hd.space = .hbm → n ≠ 0 →
        let gone (k : Nat × Line) : Bool := scopeHive scope t q k.1 && k.2.inRange q.asid.toNat a n
        exec (.cinv p scope icache h sa sb) s = .next (State.andRetire { s₂ with
          hiveLines := s₂.hiveLines.filter fun k => !gone k
          icLines := if icache then s₂.icLines.filter fun k => !gone k else s₂.icLines
          dieLines := if scope = .sys then s₂.dieLines.filter fun l => !l.inRange q.asid.toNat a n else s₂.dieLines }
            (.cinv p scope icache h sa sb) t.id)))) ∧
  ((∀ (s : State) hv line k g a l q d, s.hiveLines.find? (fun k => k.1 == hv && k.2.dirty != 0 &&
      (match k.2.key with | .virt _ _ n => n == line | .honey _ => false)) = some (k, l) → l.key = .virt g a line →
    s.parts.find? (fun p => decide (p.firstHive ≤ hv) && decide (hv < p.firstHive + p.nHives)) = some q →
    s.dieLines.find? (·.serves a (line * 128)) = some d → l.bytes.length = 128 → d.bytes.length = 128 →
    ∃ s' d', exec (.cacheWriteBack hv line) s = .next s' ∧ s'.dieLines.find? (·.serves a (line * 128)) = some d' ∧
      (∀ i < 128, bitOf l.dirty i = true → d'.bytes.getD i 0 = l.bytes.getD i 0 ∧ bitOf d'.dirty i = true) ∧
      (∀ i < 128, bitOf l.dirty i = false → d'.bytes.getD i 0 = d.bytes.getD i 0 ∧ bitOf d'.dirty i = bitOf d.dirty i) ∧
      s'.hiveLines = s.hiveLines.filter (fun k => !(k.1 == hv && k.2.key = l.key)) ∧ s'.mem = s.mem ∧ s'.tasks = s.tasks) ∧
  (∀ (s : State) t u q va, s.task? t = some u → s.part? u.vf = some q →
    let c := u.ctx q
    let s₁ := s.fillDie c va
    ∀ l, s₁.dieLines.find? (·.serves c.asid va) = some l → l.leaf.ns = false → l.leaf.r = true → l.leaf.cp < 2 →
    s₁.hiveHit c va = none → s₁.hiveVictim c.hive (va / 128) = none →
    (∀ i < 128, bitOf l.dirty i = true ∨ s₁.badMem.contains (l.frame + i) = false) →
      exec (.hiveCachePrefetch t va) s = .next { s₁ with hiveLines := (c.hive, { l with dirty := 0, writers := [] }) :: s₁.hiveLines }) ∧
  (∀ (s : State) t va, ∃ s', exec (.hiveCachePrefetch t va) s = .next s' ∧ s'.mem = s.mem ∧ s'.honey = s.honey ∧ s'.tasks = s.tasks ∧
    s'.parts = s.parts ∧ s'.jobs = s.jobs))

/-! ## The machine as a whole -/

namespace Sys2Proof.Machine

/-- The task with the flow of control of another: its pc, its loops and what the end of an iteration changes (R245, R64). -/
def Task.flowAs (u t : Task) : Task :=
  { u with pc := t.pc, lc := t.lc, loops := t.loops, strip := t.strip, vstart := t.vstart, resume := t.resume, lbuf := t.lbuf, lbad := t.lbad }

/-- No line of a hive cache or of a die cache is dirty (R159). -/
def State.cachesClean (s : State) : Prop := (∀ l ∈ s.dieLines, l.dirty = 0) ∧ ∀ k ∈ s.hiveLines, k.2.dirty = 0

/-- From one state to another the honey store is as it was, and of memory only bytes at some virtual addresses of an ASID have changed,
where its translations put them: every other byte reads as before. -/
def State.writesOnly (s s' : State) (asid : Nat) (at_ : Nat → Prop) : Prop :=
  s'.honey = s.honey ∧ ∀ pa, memRead s'.mem pa ≠ memRead s.mem pa → ∃ va, at_ va ∧ ∃ e ∈ s'.tlb, e.hit asid va = true ∧ pa = e.phys va

/-- Writes through a handle go to memory itself and not into a cache (R145). -/
def Handle.toMemory (h : Handle) : Prop := h.space = .hbm → h.policy = 3

/-- The offsets within a tile that an SPST writes: preamble and table, and the records (R97, R378). -/
def inSparse (poff : Nat) (lens : List Nat) (j : Nat) : Prop := j < 64 + 4 * (lens.length + 1) ∨ (poff ≤ j ∧ j < poff + lens.sum)

end Sys2Proof.Machine

/-- A step runs the decoded instruction (R207, R245): when nothing stands on the agenda and a task is to issue, the word at its pc is fetched,
with the next word where EXT is set and the first is not the last of a loop's body, and the step is exec of the instruction that they
decode to, followed by the end of the cycle; the launch's START is marked once the words are fetched (log 78). A restored task comes first
to what its restore brings (R191, R195). That one step is one cycle (log 1), and that the agenda and the phase decide whether a task
issues (log 2), are the model's choices. -/
def Obligations.StepRunsTheDecodedInstruction : Prop :=
  ∀ (s : State) t, s.agenda = [] → (s.phase = false ∨ s.nextEvent = none) → s.pickTask = some t → t.combpar = [] → t.itemAt = none →
  let s₀ : State := { s with phase := !s.phase }
  let s₁ := s₀.serve t
  (t.restored = none → ∀ q u, s₁.part? t.vf = some q → s₁.task? t.id = some u → ∀ w s₂, s₁.fetchWord u q u.pc = (.word w, s₂) →
    (wordExt w = false → ∀ i, decode w 0 = .ok i → step s = finishStep (exec i (s₂.markStart u))) ∧
    (wordExt w = true → u.lastBodyWord = false → ∀ x s₃, s₂.fetchWord ((s₂.task? u.id).getD u) q (u.pc + 8) = (.word x, s₃) →
      ∀ i, decode w x = .ok i → step s = finishStep (exec i (s₃.markStart u)))) ∧
  (t.restored ≠ none → ∀ u, (s₀.firstAgain t).task? t.id = some u → step s =
    finishStep (if u.issuable then runWordAt u (s₀.firstAgain t) else .next (s₀.firstAgain t))) ∧
  (∀ i (r r' : State), exec i r = .next r' → finishStep (exec i r) = .next r'.tick) ∧
  (∀ r : State, r.tick.cycle = r.cycle + 1)

/-- Words that the spec's examples and tables give decode to the instructions that they stand for, one at least of each of the formats S, SI,
B, M, Y, V, X, A and K (R206 to R224); a word of zeros and a word of ones are of an unassigned opcode. -/
def Obligations.DecodeReadsTheSpecWords : Prop :=
  decode 0x3020144038000040 0 = .ok (.ld ⟨false, 2⟩ (some .hive) 5 3 4 (.short 64)) ∧
  decode 0x302014403C000040 0 = .ok (.ld ⟨false, 2⟩ (some .pkg) 5 3 4 (.short 64)) ∧
  decode 0xC130881100200000 0x0000020800A00000 = .ok (.vmul ⟨false, 3⟩ .rne .wide 4 1 (.vec 2) (some ⟨.none, .grp 4 5, .none⟩)) ∧
  decode 0x0100021030000000 0 = .ok (.add ⟨false, 0⟩ 2 4 3) ∧
  decode 0x0200082000000048 0 = .ok (.addi ⟨false, 0⟩ 4 4 (.short 72)) ∧
  decode 0x2101000004000002 0 = .ok (.loopi ⟨false, 0⟩ 0 4 2) ∧
  decode 0x3900450010400000 0 = .ok (.bararr ⟨false, 0⟩ 5 4 0 1 0) ∧
  decode 0x4100061100200000 0 = .ok (.vadd ⟨false, 0⟩ .rne .wide 3 1 (.vec 2) none) ∧
  decode 0x6020085080308000 0 = .ok (.vtopk ⟨false, 2⟩ false 4 5 1 3 2 none) ∧
  decode 0xE900110A14000400 0x0000078F0000001F = .ok (.mxmac ⟨false, 0⟩ .rne true ⟨none, 0⟩ 1 8 (.comb 10) 5 15 15 31) ∧
  decode 0x7800CF08D0004000 0 = .ok (.kvlook ⟨false, 0⟩ 15 2 13 1) ∧
  decode 0 0 = .ok (.illegalOpcode 0 none) ∧
  decode (BitVec.allOnes 64) 5 = .ok (.illegalOpcode (BitVec.allOnes 64) (some 5))

/-- Decoding an encoded instruction gives it back, with every operand at every value that the encoding admits, for every well-formed
instruction that has an encoding (R206 to R224). -/
def Obligations.DecodeOfEncode : Prop :=
  ∀ i : Instr, i.wf = true → encode i ≠ [] → decode ((encode i).headD 0) ((encode i).getD 1 0) = .ok i

/-- What the decoder accepts is well formed, and encoding it gives the words back: no two words mean the same, and no bit is dropped (R211).
-/
def Obligations.EncodeOfDecode : Prop :=
  ∀ (w x : Word) i, decode w x = .ok i → i.wf = true ∧ encode i = (if wordExt w then [w, x] else [w])

/-- The machine right after device reset (R6, R34, R35, R40, R422, R423): the cycle counter is zero, there is no partition, no task and no
job, the shadow store is empty, READY, FAILED and CFGSTAT are zero, and both memories are in canonical form. That no byte of memory is
listed, and that the caches are empty, are the model's (logs 3 and 5). A partition that is created has LSEED 0x1B873593, no queue enabled,
LQCTL.LOG 4, no notice, and zero in every other register of the tables (R174, R178, R188, R193, R196). -/
def Obligations.ResetHoldsTheStatedValues : Prop :=
  State.reset.cycle = 0 ∧ State.reset.parts = [] ∧ State.reset.tasks = [] ∧ State.reset.jobs = [] ∧ State.reset.shadow = [] ∧
  State.reset.ready = 0 ∧ State.reset.failed = 0 ∧ State.reset.keeper.cfgstat = 0 ∧ State.reset.Inv ∧
  State.reset.dieLines = [] ∧ State.reset.hiveLines = [] ∧ State.reset.icLines = [] ∧ State.reset.tlb = [] ∧ State.reset.handles = [] ∧
  (∀ a, memRead State.reset.mem a = 0 ∧ memRead State.reset.honey a = 0) ∧
  (∀ vf h n b (asid : BitVec 16) k, let q := Partition.create vf h n b asid
    q.lseed = 0x1B873593 ∧ q.asid = asid ∧ q.ptroot = 0 ∧ q.hbase = 0 ∧ q.snqprod = 0 ∧ q.snqcons = 0 ∧ q.notices = [] ∧
    q.snqbase = 0 ∧ q.swcnt = 0 ∧ q.swbase = 0 ∧ q.psState = 0 ∧ q.launches = [] ∧ q.pfdones = [] ∧
    (q.queue k).en = false ∧ (q.queue k).err = false ∧ (q.queue k).sup = false ∧ (q.queue k).prod = 0 ∧ (q.queue k).cons = 0 ∧
    (k < 16 → (q.queue k).log = 4) ∧ (q.queue k).tickets = 0 ∧ (q.queue k).base = 0 ∧ (q.queue k).age = 0)

/-- Every step keeps both memories in canonical form: whatever the step does, addresses rise strictly, and no entry equals what an unlisted
address reads as. -/
def Obligations.EveryStepKeepsTheInvariant : Prop :=
  ∀ s s' : State, s.Inv → step s = .next s' → s'.Inv

/-- Memory in canonical form (R5): a write is read back, and leaves every other byte as it was; two memories in the form that read alike are
equal; a little-endian number of n bytes reads back modulo 2⁸ⁿ. -/
def Obligations.MemoryReadsBackWhatIsWritten : Prop :=
  (∀ m a b, memRead (memWrite m a b) a = b ∨ Memory.wf m = false) ∧
  (∀ m a b k, k ≠ a → memRead (memWrite m a b) k = memRead m k) ∧
  (∀ m m', Memory.wf m = true → Memory.wf m' = true → (∀ a, memRead m a = memRead m' a) → m = m') ∧
  (∀ m a bs, Memory.wf m = true → memReadN (memWriteN m a bs) a bs.length = bs) ∧
  (∀ m a bs k, (k < a ∨ a + bs.length ≤ k) → memRead (memWriteN m a bs) k = memRead m k) ∧
  (∀ n v, leNat (leBytes n v) = v % 2 ^ (8 * n))

/-- A word of an unassigned opcode raises INSN.ILLOP where it has an active lane, and always for 0x00 and 0x7F; else it is a no-operation
(R209, R210). A word without an active lane, of which no record is held, is a no-operation (R208, R209): the task continues after it, and
nothing else changes. A word with PN = 1 and PR = 0 has none in any class; a word that the decoder refuses is skipped alike. -/
def Obligations.NoActiveLaneAndUnassignedOpcodes : Prop :=
  (∀ (w : Word) x s t, s.curTask = some t →
    let opc := (w.extractLsb' 56 7).toNat
    let p : Pred := ⟨w.getLsbD 55, (w.extractLsb' 52 3).toNat⟩
    let active := laneActive (if opc < 0x40 ∨ 0x78 ≤ opc then .q else .cell) p t
    (opc = 0 ∨ opc = 0x7F ∨ active = true → exec (.illegalOpcode w x) s = .next (s.takeTrap t cILLOP w t.pc)) ∧
    (opc ≠ 0 → opc ≠ 0x7F → active = false →
      exec (.illegalOpcode w x) s = .next (s.setTask (t.retire (.illegalOpcode w x))))) ∧
  ((∀ (w x : Word) r s t, rowOf (wordOpc w) (wordPred w) (if wordExt w then some x else none) w.toNat = some r → r.illfn = false →
    r.rsvnz = false → r.own = false → s.curTask = some t → laneActive r.lanes (wordPred w) t = false →
    t.held r.instr = none → exec r.instr s = .next (s.setTask (t.retire r.instr))) ∧
  (∀ l t, laneActive l ⟨true, 0⟩ t = false) ∧
  (∀ (w x : Word) r s t, decode w x = .error r → laneActive r.lanes r.pred t = false →
    State.refuseWord s t r = s.setTask (t.seqTo (t.pc + (if wordExt w then 16 else 8)))) ∧
  (∀ (t : Task) i, (t.retire i).flowAs t = t) ∧
  (∀ (t : Task) i, t.loops = [] → t.retire i = { t with pc := t.pc + BitVec.ofNat 56 (ilen i) }))

/-- The checks of an access come in the order of R134 (R134, R135, R137, R138, R164): the bound, the permission, the alignment, no write to
the honey store, no write to a read-only byte, each with its cause and its tval; an access that passes them in HONEY or COMBLIN is
allowed, at (BASE + o) modulo 2⁵⁶. A read of HONEY before READY.HONEY has first been set fails as one beyond the bound does (R422). In the
other spaces a leaf must map the address, else a translation fault, and allow the access, else MEM.PROT; an access within a page that
passes is allowed. -/
def Obligations.HandleChecksInOrder : Prop :=
  ∀ (hd : Handle) o n acc al s t, s.curTask = some t → 0 < n → acc ≠ .look →
    let a := (hd.base + o) % 2 ^ 56
    let out := hd.bound < o + n ∨ (hd.space = .honey ∧ 2 ^ 34 < a + n) ∨ (hd.space = .comblin ∧ t.vlmax * 32 < a + n) ∨
      (acc = .read ∧ hd.space = .honey ∧ s.everReady.getLsbD 25 = false)
    let allowed := (acc = .read ∧ hd.r = true) ∨ (acc = .write ∧ hd.w = true) ∨ (acc = .fetch ∧ hd.x = true) ∨
      (acc = .atomic ∧ hd.a = true ∧ hd.space ≠ .honey ∧ hd.space ≠ .comblin)
    let fails (c : Nat) (v : Word) : Prop := checkAccess hd o n acc al s = .error (.trap c v)
    let readOnly := hd.space = .comblin ∧ ∃ i < n, (a + i) % 32 = 0 ∨ 27 ≤ (a + i) % 32
    (out → fails cHBOUND (w64 o)) ∧ (¬out → ¬allowed → fails cPROT (w64 a)) ∧
    (¬out → allowed → a % al ≠ 0 → fails cALIGN (w64 a)) ∧
    (¬out → allowed → a % al = 0 → acc = .write → hd.space = .honey → fails cHONEYWR (w64 a)) ∧
    (¬out → allowed → a % al = 0 → acc = .write → readOnly → fails cROWRITE (w64 a)) ∧
    (¬out → allowed → a % al = 0 → (hd.space = .honey ∨ hd.space = .comblin) → (acc = .write → hd.space = .comblin ∧ ¬readOnly) →
      ∀ q, s.part? t.vf = some q → checkAccess hd o n acc al s = .ok (a, s)) ∧
    (¬out → allowed → a % al = 0 → ∀ q, s.part? t.vf = some q → ∀ x : Except XErr (LeafBits × State),
      ((hd.space = .hbm ∧ s.leafFor (t.ctx q) (hd.policy ≤ 1) a = x) ∨
        ((hd.space = .pool ∨ hd.space = .host) ∧ (s.translate (t.ctx q) a (some hd.space)).map (fun y => (y.1.leaf, y.2)) = x)) →
      (x = .error .unmapped → checkAccess hd o n acc al s =
        .error (.page (match acc with | .read => cLPF | .fetch => cIPF | _ => cSPF) a)) ∧
      (x = .error .denied → fails cPROT (w64 a)) ∧
      (∀ l s₁, x = .ok (l, s₁) → (l.allows acc = false → fails cPROT (w64 a)) ∧
        (l.allows acc = true → a / 65536 = (a + n - 1) / 65536 → checkAccess hd o n acc al s = .ok (a, s₁))))

/-! ## Rules of the scalar chapter -/

/-- R236 whole: a divisor of zero, the most negative dividend over −1, and every other quotient and remainder, which truncates toward zero; a
remainder that is not zero has the sign of the dividend; no scalar integer instruction traps or touches fflags. -/
def Obligations.DivisionRule : Prop :=
  (∀ p sd sa sb s t, s.curTask = some t → activeQ p t = true → sd ≠ 0 → sd < 64 →
    let a := t.rs sa
    let b := t.rs sb
    let gives (i : Instr) (v : Word) : Prop := exec i s = .next (s.setTask ((t.ws sd v).retire i)) ∧ ((t.ws sd v).retire i).rs sd = v
    (b = 0 → gives (.div p sd sa sb) 0xFFFFFFFFFFFFFFFF ∧ gives (.divu p sd sa sb) 0xFFFFFFFFFFFFFFFF ∧ gives (.rem p sd sa sb) a ∧
      gives (.remu p sd sa sb) a) ∧
    (b ≠ 0 → a.toInt = -2 ^ 63 → b.toInt = -1 → gives (.div p sd sa sb) a ∧ gives (.rem p sd sa sb) 0) ∧
    (b ≠ 0 → ¬(a.toInt = -2 ^ 63 ∧ b.toInt = -1) → gives (.div p sd sa sb) (BitVec.ofInt 64 (a.toInt.tdiv b.toInt)) ∧
      gives (.rem p sd sa sb) (BitVec.ofInt 64 (a.toInt - b.toInt * a.toInt.tdiv b.toInt))) ∧
    (b ≠ 0 → gives (.divu p sd sa sb) (BitVec.ofNat 64 (a.toNat / b.toNat)) ∧ gives (.remu p sd sa sb) (BitVec.ofNat 64 (a.toNat % b.toNat)))) ∧
  (∀ a b : Int, a - b * a.tdiv b ≠ 0 → ((a - b * a.tdiv b < 0) ↔ a < 0)) ∧
  (∀ i p sd v, scalarResult i = some (p, sd, v) → ∀ s t, s.curTask = some t → ∃ u, exec i s = .next (s.setTask u) ∧ u.fflags = t.fflags ∧
    u.tcauseCode = t.tcauseCode ∧ u.tin = t.tin ∧ u.wait = t.wait)

/-- R237 whole: the position is bits [5:0] of s(SB) and the length less one bits [13:8], the other bits do not matter, a field is cut at bit
63; EXTZ takes the field, EXTS extends its sign, INS replaces it in c. -/
def Obligations.FieldInstructionsRule : Prop :=
  ∀ p sd sa sb sc s t, s.curTask = some t → activeQ p t = true → sd ≠ 0 → sd < 64 →
    let a := (t.rs sa).toNat
    let c := (t.rs sc).toNat
    let pos := (t.rs sb).toNat % 2 ^ 6
    let len := (t.rs sb).toNat / 2 ^ 8 % 2 ^ 6 + 1
    let n := min len (64 - pos)
    let f := a / 2 ^ pos % 2 ^ n
    let gives (i : Instr) (v : Word) : Prop := exec i s = .next (s.setTask ((t.ws sd v).retire i)) ∧ ((t.ws sd v).retire i).rs sd = v
    gives (.extz p sd sa sb) (BitVec.ofNat 64 f) ∧
    gives (.exts p sd sa sb) (BitVec.ofInt 64 (if f / 2 ^ (n - 1) % 2 = 1 then (f : Int) - 2 ^ n else f)) ∧
    (∃ v, gives (.ins p sd sa sb sc) v ∧ ∀ k < 64, v.toNat.testBit k = if pos ≤ k ∧ k < pos + n then a.testBit (k - pos) else c.testBit k) ∧
    pos + n ≤ 64

/-- R247 whole: LBRK pops the record that names its counter with those nested in it, leaves the counter and the strip, and continues at the
record's end, in a handler too. Where the enclosing record ends there, and no handler runs, that record reaches the end of its iteration:
its counter falls and its body starts again, or at zero it is popped, and so on outward; the strip advances where SEN is 1 and SLC names
it. Without such a record LBRK raises INSN.LOOPBODY. -/
def Obligations.LoopBreakRule : Prop :=
  ∀ p lc s t, s.runsQ p t →
    (∀ inner r outer, t.loops = inner ++ r :: outer → (∀ x ∈ inner, x.lc ≠ lc) → r.lc = lc →
      let u : Task := { t.awake with
        loops := outer, lbuf := if outer.isEmpty then [] else t.lbuf, lbad := if outer.isEmpty then [] else t.lbad }
      exec (.lbrk p lc) s = .next (s.setTask (u.seqTo r.stop)) ∧ u.lc = t.lc ∧ u.strip = t.strip ∧
      ((t.tin = true ∨ ∀ e rest, outer = e :: rest → e.stop ≠ r.stop) → u.seqTo r.stop = { u with pc := r.stop }) ∧
      (∀ e rest, t.tin = false → outer = e :: rest → e.stop = r.stop →
        let v : Task := if t.sen = true ∧ t.slc.toNat = e.lc then { u with strip := t.strip + 1, vstart := 0, resume := none } else u
        (t.rlc e.lc ≠ 0 → u.seqTo r.stop = { v.wlc e.lc (t.rlc e.lc - 1) with pc := e.start }) ∧
        (t.rlc e.lc = 0 → rest = [] → u.seqTo r.stop = { v with pc := r.stop, loops := [], lbuf := [], lbad := [] }) ∧
        (t.rlc e.lc = 0 → rest ≠ [] → u.seqTo r.stop = { v with loops := rest }.seqTo r.stop)) ∧
      ((∀ e ∈ outer, e.lc ≠ lc) → (u.seqTo r.stop).rlc lc = t.rlc lc)) ∧
    ((∀ r ∈ t.loops, r.lc ≠ lc) → exec (.lbrk p lc) s = .next (s.takeTrap t cLOOPBODY (iword (.lbrk p lc)) t.pc))

/-! ## Frames -/

/-- The frame of the register instructions (R235 to R240): nothing changes but the destination, the pc and, at the end of a loop's iteration,
the loop state and the strip; no byte of memory, no other task, no flag, no predicate or register but the one written. -/
def Obligations.RegisterInstructionsFrame : Prop :=
  ∀ s t i, s.curTask = some t → (∀ d p, (∃ v, scalarResult i = some (p, d, v)) ∨ (∃ v, predicateResult i = some (p, d, v)) →
    ∃ s' u, exec i s = .next s' ∧ s' = s.setTask u ∧ s'.curTask = some u ∧
      (∀ n : Nat, n ≠ d → u.rs n = t.rs n) ∧ u.rs 0 = 0 ∧ u.rq 0 = true ∧
      (∀ v, scalarResult i = some (p, d, v) → u.q = t.q) ∧ (∀ v, predicateResult i = some (p, d, v) → u.s = t.s) ∧
      (∀ n : Nat, n ≠ d → u.rq n = t.rq n) ∧
      { u.flowAs t with s := t.s, q := t.q } = t ∧
      (∀ a, memRead s'.mem a = memRead s.mem a ∧ memRead s'.honey a = memRead s.honey a) ∧
      (∀ v ∈ s.tasks, v.id ≠ t.id → v ∈ s'.tasks))

/-- The frame of loads and of stores (R134, R252, R253), with no dirty line in a cache that could be put out: a load that is weak, or whose
task has no store queued, changes no byte of memory, however it ends; where the task goes on outside a trap it changes no register but
s(SD); a store changes no byte of memory until it is performed, and no scalar register. The frame of one byte written (R145, R159), with
no dirty line in a cache: beyond the caches only under policy UC or at the memory controller, and then at no other address than the one
its translation gives; a byte of POOL or HOST space at no other; a read changes no byte of memory. The frame of the other writers of
memory, with no dirty line in a cache: with the address expression of the meaning, every byte outside those written reads as before. An
atomic writes its operand's bytes alone, at its issue or, over a port, at its return (R254); through a handle whose writes go to memory,
VST its payload and preamble (R302), SPST its records, table and preamble (R378), a scatter its element's bytes (R366), a copy its
destination's bytes from where it stands (R373), MXRD its tile and its step word (R349), the other operations of the matrix queue but
CONTRACT and ATTN none; a write to a KV pool the bytes of its field, a pin its block's entry (R387, R394); HSWR its bytes of the honey
store (R377). -/
def Obligations.LoadsStoresAndByteAccessesFrame : Prop :=
  ((∀ i p str sd h sa imm n signed, loadForm i = some (p, str, sd, h, sa, imm, n, signed) → ∀ s s' t, s.curTask = some t →
    (str = none ∨ t.stores = []) → s.cachesClean → exec i s = .next s' →
    (∀ a, memRead s'.mem a = memRead s.mem a ∧ memRead s'.honey a = memRead s.honey a) ∧
    (∀ v ∈ s.tasks, v.id ≠ t.id → v ∈ s'.tasks) ∧
    (∀ u, s'.curTask = some u → u.tin = t.tin → (∀ k : Nat, k ≠ sd → u.rs k = t.rs k) ∧ u.q = t.q ∧ u.fflags = t.fflags ∧ u.cols = t.cols ∧
      u.tepc = t.tepc ∧ u.tval = t.tval ∧ u.tvec = t.tvec ∧ u.sfill = t.sfill ∧ u.avl = t.avl)) ∧
  (∀ i p str sd h sa imm n, storeForm i = some (p, str, sd, h, sa, imm, n) → ∀ s s' t, s.curTask = some t → s.cachesClean →
    exec i s = .next s' → (∀ a, memRead s'.mem a = memRead s.mem a ∧ memRead s'.honey a = memRead s.honey a) ∧
    (∀ v ∈ s.tasks, v.id ≠ t.id → v ∈ s'.tasks) ∧
    (∀ u, s'.curTask = some u → u.s = t.s ∧ u.q = t.q ∧ u.fflags = t.fflags))) ∧
  ((∀ (s s' : State) c pol point acc va b lf s₁, s.hbmWrite c pol point false acc va b = .ok s' →
    s.leafFor c (pol ≤ 1 && !point) va = .ok (lf, s₁) → effPolicy pol lf.cp < 3 → s.cachesClean → s'.mem = s.mem ∧ s'.honey = s.honey) ∧
  (∀ (s s' : State) c pol point ctrl acc va b, s.hbmWrite c pol point ctrl acc va b = .ok s' →
    s.cachesClean → s'.honey = s.honey ∧ ∀ pa, memRead s'.mem pa ≠ memRead s.mem pa →
      ∃ e, s'.tlb.find? (·.hit c.asid va) = some e ∧ pa = e.phys va) ∧
  (∀ (s s' : State) c sp acc va b, s.remoteWrite c sp acc va b = .ok s' →
    s'.honey = s.honey ∧ ∀ pa, memRead s'.mem pa ≠ memRead s.mem pa → ∃ e, s'.tlb.find? (·.hit c.asid va) = some e ∧ pa = e.phys va) ∧
  (∀ (s s' : State) c pol point ctrl acc va x, s.hbmRead c pol point ctrl acc va = .ok (x, s') →
    s.cachesClean → s'.mem = s.mem ∧ s'.honey = s.honey)) ∧
  (∀ (s s' : State) t q, s.cachesClean → s.part? t.vf = some q → let asid := q.asid.toNat
  (s.curTask = some t → ∀ (hd : Handle) point ctrl acc a b, hd.toMemory ∨ ctrl = true → writeBytes hd point ctrl acc a b s = .ok ((), s') →
    s.writesOnly s' asid fun va => ∃ k < b.length, va = (a + k) % 2 ^ 56) ∧
  (∀ i p n sc sd h sa sb imm pcie f, atomicForm i = some (p, n, sc, sd, h, sa, sb, imm, pcie, f) → s.curTask = some t → t.stores = [] →
    ∀ hd s₁, useHandle h s = .ok (hd, s₁) → exec i s = .next s' →
    s.writesOnly s' asid fun va => ∃ k < n, va = hd.addr (memOffset t sa imm + k)) ∧
  (∀ id r, s.task? id = some t → t.pend = some r → exec (.scalarLoadReturn id) s = .next s' →
    s'.honey = s.honey ∧ ∀ pa, memRead s'.mem pa ≠ memRead s.mem pa → r.atomic ≠ none ∧
      ∃ e ∈ s'.tlb, e.hit asid r.addr = true ∧ ∃ k < (if r.size = 4 then 4 else 8), pa = e.phys r.addr + k) ∧
  (∀ p va h sb disp, let i : Instr := .vst p va h sb disp
    s.curTask = some t → ∀ hd s₁, useHandle h s = .ok (hd, s₁) → hd.toMemory → exec i s = .next s' → ∀ o (c : Cap),
    (t.held i = none → (o, some c) = (vecOffset t sb disp, (t.vreg va).map (·.c))) → (∀ r, t.held i = some r → (o, c) = (r.key.toNat, r.cap 0)) →
    s.writesOnly s' asid fun x => ∃ j < 64 + denseSize c.f c.count, x = hd.addr (o + j)) ∧
  (∀ p sa r h, let i : Instr := .spst p sa r h
    s.curTask = some t → ∀ hd s₁, useHandle h s = .ok (hd, s₁) → hd.toMemory → exec i s = .next s' →
    (∀ v, t.vreg r = some v → t.held i = none → let k := ceilDiv v.c.count 128
      s.writesOnly s' asid fun x => ∃ j, inSparse (64 + 64 * ceilDiv (4 * (k + 1)) 64) ((List.range k).map fun m =>
        (sparseRecord v.c v.c.count (t.elem v.base v.c) (bitOf (activeCells p t)) m).length) j ∧ x = hd.addr ((t.rs sa).toNat + j)) ∧
    (∀ y, t.held i = some y → s.writesOnly s' asid fun x => ∃ j, inSparse y.total y.lengths j ∧ x = hd.addr (y.key.toNat + j))) ∧
  (∀ n j f (hd : Handle) l, s.job? n = some j → s.task? j.task = some t → hd.toMemory → let g := (Fmt.of (BitVec.toNat f)).getD .none
    exec (.foragerAccess n) s = .next s' →
    (j.kind = .scatter f hd l → s.writesOnly s' asid fun x => ∃ e, l[j.progress]? = some e ∧ ∃ k < g.bytes, x = hd.addr (e.off + k)) ∧
    (∀ rm, j.kind = .scata f rm hd l → s.writesOnly s' asid fun x =>
      ∃ o, ((l.map (·.off)).eraseDups)[j.progress]? = some o ∧ ∃ k < g.bytes, x = hd.addr (o + k))) ∧
  (∀ n j hd hs doff soff len rows ds ss, s.job? n = some j → s.task? j.task = some t → j.kind = .copy hd hs doff soff len rows ds ss →
    hd.toMemory → j.arrival = none → exec (.jobComplete n) s = .next s' →
    s.writesOnly s' asid fun x => ∃ k, j.progress ≤ k ∧ k < len * rows ∧ x = stridedAddr hd doff ds len k) ∧
  (∀ id n o, s.task? id = some t → nextQueueOp t.mx.queue = some (n, o) → exec (.mxQueueOp id) s = .next s' →
    (∀ k (hd : Handle) o₁ o₂, o.kind = .rd k hd o₁ o₂ → hd.toMemory → s.writesOnly s' asid fun x =>
      (∃ j < 64 + 512 * t.mxRows, x = hd.addr (o₁ + j)) ∨ ∃ j < 8, x = hd.addr (o₂ + j)) ∧
    ((∀ c, o.kind ≠ .contract c) → (∀ c, o.kind ≠ .attn c) → (∀ k h o₁ o₂, o.kind ≠ .rd k h o₁ o₂) →
      s'.mem = s.mem ∧ s'.honey = s.honey)) ∧
  (s.curTask = some t → ∀ (hd : Handle) o b, poolPutBytes hd o b s = .ok ((), s') →
    s.writesOnly s' asid fun va => ∃ k < b.length, va = hd.addr (o + k)) ∧
  (∀ p sd sb h, s.curTask = some t → let b := (t.rs sb).toNat
    ∀ k e s₁, pinned h b s = .ok ((k, e), s₁) → (exec (.kvpin p sd sb h) s = .next s' ∨ exec (.kvunpin p sd sb h) s = .next s') →
    s.writesOnly s' asid fun va => ∃ j < 32, va = k.h.addr (k.ibto + 32 * b + j)) ∧
  (∀ p sa sb h sh sor, s.curTask = some t → ∀ hd s₁, useHandle h s = .ok (hd, s₁) → exec (.hswr p sa sb h sh sor) s = .next s' →
    s'.mem = s.mem ∧ ∀ a, memRead s'.honey a ≠ memRead s.honey a →
      hd.addr (t.rs sa).toNat ≤ a ∧ a < hd.addr (t.rs sa).toNat + (t.rs sb).toNat))

/-- The frame of the comb's arithmetic (R275, R283): VADD, VSUB, VMUL, VMIN, VMAX, VAND, VOR, VXOR, VNOT and VMOV write their destination
alone, and of it the active cells alone: no other column outside the sequencer's scratch, no other descriptor, no scalar register, no
predicate, no byte of memory. -/
def Obligations.CombArithmeticFrame : Prop :=
  ∀ p rm wf wide vd va src m i, i ∈ ([.vadd p rm wf vd va src m, .vsub p rm wf vd va src m, .vmul p rm wf vd va src m,
      .vmin p rm wide vd va src m, .vmax p rm wide vd va src m, .vand p vd va src m, .vor p vd va src m, .vxor p vd va src m,
      .vnot p vd va m, .vmov p vd va m] : List Instr) →
  ∀ c, combOf i = some (p, c) → ∀ s t v, s.curTask = some t → laneActive .cell p t = true → t.combsTaken = false → t.held i = none →
  t.vreg vd = some v → 8 ≤ v.base → v.base + v.width ≤ 216 →
  ∀ r s₁, c.prep t s = .ok (r, s₁) → s₁.columnsBusy t ((c.reads r t).map (·.1)) (c.writes t) = false →
  c.parityError r 0 { t with linear := false } = none →
  ∃ s' u, exec i s = .next s' ∧ s'.curTask = some u ∧ s'.mem = s.mem ∧ s'.honey = s.honey ∧ u.s = t.s ∧ u.q = t.q ∧
    (∀ n, n ≠ vd → u.vreg n = t.vreg n) ∧
    (∀ k < 216, (k < v.base ∨ v.base + v.width ≤ k) → u.col k = t.col k) ∧
    (∀ k < 216, ∀ x, bitOf (activeCells p t) x = false → bitOf (u.col k) x = bitOf (t.col k) x) ∧
    (∀ w ∈ s.tasks, w.id ≠ t.id → w ∈ s'.tasks)

/-! ## What comb instructions leave in the cells -/

namespace Sys2Proof.Machine

/-- A per-cell comb instruction runs at once, from its first pass to its last: its checks pass, its combs and columns are free, and no
group that it reads fails parity (R275, R140, R199). -/
def State.runsComb (s : State) (t : Task) (p : Pred) (i : Instr) : Prop :=
  ∃ c r s₁, combOf i = some (p, c) ∧ s.curTask = some t ∧ laneActive .cell p t = true ∧ t.combsTaken = false ∧ t.held i = none ∧
    t.cols.length = 256 ∧ c.prep t s = .ok (r, s₁) ∧ s₁.columnsBusy t ((c.reads r t).map (·.1)) (c.writes t) = false ∧
    c.parityError r 0 { t with linear := false } = none

/-- Register `n` has descriptor `v`, whose columns a destination may take (R291). -/
def Task.target (t : Task) (n : Nat) (v : VReg) : Prop := t.vreg n = some v ∧ 8 ≤ v.base ∧ v.base + v.width ≤ 216

/-- No other register shares a column with register `n`, and each holds its elements (R291, R292). -/
def Task.apart (t : Task) (n : Nat) (v : VReg) : Prop :=
  ∀ k r, t.vreg k = some r → r.c.f.width ≤ r.width ∧ (k = n ∨ r.base + r.width ≤ v.base ∨ v.base + v.width ≤ r.base)

/-- The format and the elements of a second source: a register, or a scalar under the format of the first (R293). -/
def Task.second (t : Task) (src : Src2) (f g : Fmt) (b : Nat → Nat) : Prop :=
  match src with
  | .vec vb => ∃ r, t.vreg vb = some r ∧ g = r.c.f ∧ ∀ e, b e = t.elem r.base r.c e
  | .scal sb => g = f ∧ ∀ e, b e = (t.rs sb).toNat % 2 ^ f.width

/-- The number that an element of an integer format stands for (R88): SINT in two's complement. -/
def Fmt.number (f : Fmt) (x : Nat) : Int :=
  match f with
  | .sint n => (BitVec.ofNat n x).toInt
  | _ => x

/-- An exact number in an integer format: wrapped, or clamped first (R122). -/
def Fmt.holding (f : Fmt) (sat : Bool) (x : Int) : Nat :=
  match f with
  | .sint n => (BitVec.ofInt n (if sat then max (-2 ^ (n - 1)) (min (2 ^ (n - 1) - 1) x) else x)).toNat
  | f => (BitVec.ofInt f.width (if sat then max 0 (min (2 ^ f.width - 1) x) else x)).toNat

/-- A relation of VCMP on numbers (R297). -/
def relOfNumbers (r : Rel) (x y : Int) : Bool :=
  match r with
  | .eq => decide (x = y)
  | .ne => decide (x ≠ y)
  | .lt => decide (x < y)
  | .le => decide (x ≤ y)
  | .gt => decide (y < x)
  | .ge => decide (y ≤ x)

/-- The active cells of a word, below vl (R208). -/
def activeList (p : Pred) (t : Task) : List Nat := (List.range t.vl).filter fun e => bitOf (activeCells p t) e

end Sys2Proof.Machine

/-- What VADD, VSUB, VMUL, VMIN, VMAX, VCMP and VSEL leave in an active cell (R286, R296, R297). On integer sources the exact number of the
operation, wrapped into the destination's format, or clamped in the .sat form: the passes of R286 give the same as R296. Plain forms of
equal formats keep the format; a .w form is one column wider, a product twice as wide (R104). A NaN among floating-point sources gives the
canonical NaN. VCMP writes 1 where the relation holds of the exact numbers, and with a NaN only for NE; VSEL takes the first source where
the mask's column holds 1, else the second. What reductions and selections leave (R129, R305, R318 to R320, R325). VRSUM of an integer
format gives the exact sum of the active elements modulo 2⁶⁴, VRMAX and VRMIN an active element that none exceeds, VCOUNT the number of
active cells, in every cell of VD and in s(SB). VTOPK and VBOTK take the min(k, n) first of the n valid active elements, by ord and among
equals by index: slot j holds the j-th one's bits and index, each later slot the fills, and s(SD) how many there are. -/
def Obligations.CombResultValues : Prop :=
  ((∀ p rm wf wide vd va src i mode grow (op : Int → Int → Int),
    (i, mode, grow, op) ∈ ([(.vadd p rm wf vd va src none, wf, (· + 1), fun x y => x + y), (.vsub p rm wf vd va src none, wf, (· + 1), fun x y => x - y),
      (.vmul p rm wf vd va src none, wf, (2 * ·), fun x y => x * y),
      (.vmin p rm wide vd va src none, if wide then .wide else .plain, (· + 1), fun x y => min x y),
      (.vmax p rm wide vd va src none, if wide then .wide else .plain, (· + 1), fun x y => max x y)] :
        List (Instr × WF × (Nat → Nat) × (Int → Int → Int))) →
    ∀ s t v a g b, s.runsComb t p i → t.target vd v → t.apart vd v → t.vreg va = some a → t.second src a.c.f g b →
    ∃ s' u w, exec i s = .next s' ∧ s'.curTask = some u ∧ u.vreg vd = some w ∧ w.base = v.base ∧
      (mode ≠ .wide → g = a.c.f → w.c.f = a.c.f) ∧ (mode = .wide → g = a.c.f → w.c.f.width = grow a.c.f.width) ∧
      ∀ e ∈ activeList p t, let x := t.elem a.base a.c e
        (a.c.f.isInt = true → g.isInt = true →
          u.cellBits v.base e w.c.f.width = w.c.f.holding (mode == .sat) (op (a.c.f.number x) (g.number (b e)))) ∧
        (∀ h, w.c.f = .fp h → (a.c.f.val 0 x).isNan = true ∨ (g.val 0 (b e)).isNan = true →
          u.cellBits v.base e h.width = h.canon)) ∧
  (∀ p rel mdst vd va src, let i : Instr := .vcmp p rel mdst vd va src none
    ∀ s t a g b, s.runsComb t p i → t.vreg va = some a → t.second src a.c.f g b →
    ∃ s' u, exec i s = .next s' ∧ s'.curTask = some u ∧ (∀ x ∈ activeList p t, ∀ bit : Bool,
        (a.c.f.isInt = true → g.isInt = true → bit = relOfNumbers rel (a.c.f.number (t.elem a.base a.c x)) (g.number (b x))) →
        ((a.c.f.val 0 (t.elem a.base a.c x)).isNan = true ∨ (g.val 0 (b x)).isNan = true → bit = (rel == .ne)) →
        (a.c.f.isInt = true ∧ g.isInt = true) ∨ (a.c.f.val 0 (t.elem a.base a.c x)).isNan = true ∨ (g.val 0 (b x)).isNan = true →
        (mdst = true → bitOf (u.col vd) x = bit) ∧
        (∀ v, mdst = false → t.target vd v → u.cellBits v.base x 1 = b2n bit ∧ ∃ w, u.vreg vd = some w ∧ w.c.f = .bit))) ∧
  (∀ p vd va vb mc, let i : Instr := .vsel p vd va vb mc none
    ∀ s t v a r, s.runsComb t p i → t.target vd v → t.vreg va = some a → t.vreg vb = some r →
    ∃ s' u w, exec i s = .next s' ∧ s'.curTask = some u ∧ u.vreg vd = some w ∧ w.c.f = a.c.f ∧ ∀ e ∈ activeList p t,
      u.cellBits v.base e a.c.f.width = if bitOf (t.col mc) e then t.elem a.base a.c e else t.elem r.base r.c e)) ∧
  ((∀ p rm (tree : Bool) vd va osb, let i : Instr := if tree then .vrsumT p rm false vd va osb none else .vrsumO p rm false vd va osb none
    ∀ s t v a, s.runsComb t p i → t.target vd v → t.vreg va = some a → a.c.f.isInt = true →
    let sum : Int := ((activeList p t).map fun e => a.c.f.number (t.elem a.base a.c e)).sum
    ∃ s' u w, exec i s = .next s' ∧ s'.curTask = some u ∧ u.vreg vd = some w ∧
      (∀ n, a.c.f = .sint n → w.c.f = .sint 64) ∧ (∀ n, a.c.f = .uint n → w.c.f = .uint 64) ∧
      (∀ e < t.vlmax, u.cellBits v.base e 64 = (BitVec.ofInt 64 sum).toNat) ∧
      (∀ sb, osb = some sb → sb < 64 → u.rs sb = if sb = 0 then 0 else BitVec.ofInt 64 sum)) ∧
  (∀ p (mx : Bool) vd va, let i : Instr := if mx then .vrmax p false vd va none none else .vrmin p false vd va none none
    ∀ s t v a, s.runsComb t p i → t.target vd v → t.vreg va = some a → a.c.f.isInt = true →
    ∃ s' u, exec i s = .next s' ∧ s'.curTask = some u ∧ ∃ k ∈ activeList p t,
      (∀ e ∈ activeList p t, let x := a.c.f.number (t.elem a.base a.c e)
        let y := a.c.f.number (t.elem a.base a.c k)
        if mx then x ≤ y else y ≤ x) ∧
      ∀ e < t.vlmax, u.cellBits v.base e a.c.f.width = t.elem a.base a.c k) ∧
  (∀ p vd osb, let i : Instr := .vcount p false vd osb none
    ∀ s t v, s.runsComb t p i → t.target vd v →
    ∃ s' u, exec i s = .next s' ∧ s'.curTask = some u ∧ (∀ e < t.vlmax, u.cellBits v.base e 32 = (activeList p t).length) ∧
      (∀ sb, osb = some sb → sb < 64 → u.rs sb = if sb = 0 then 0 else w64 (activeList p t).length)) ∧
  (∀ p (top nanhi : Bool) vd ve va sd sa, let i : Instr := if top then .vtopk p nanhi vd ve va sd sa none else .vbotk p nanhi vd ve va sd sa none
    ∀ s t v x a, s.runsComb t p i → t.target vd v → t.target ve x → t.apart vd v → t.apart ve x → t.vreg va = some a →
    let k := (t.rs sa).toNat
    let bits (e : Nat) : Nat := t.cellBits a.base e a.c.f.width
    let ord (e : Nat) : Nat := ordOf a.c (bits e)
    let valid := (activeList p t).filter fun e => nanhi || !(a.c.f.val a.c.planes (bits e)).isNan
    let before (e e' : Nat) : Prop := (if top then ord e' < ord e else ord e < ord e') ∨ (ord e = ord e' ∧ e < e')
    ∃ s' u, ∃ l : List Nat, exec i s = .next s' ∧ s'.curTask = some u ∧ l.Pairwise before ∧ l.length = min k valid.length ∧ (∀ e ∈ l, e ∈ valid) ∧
      (∀ e ∈ valid, e ∉ l → ∀ y ∈ l, before y e) ∧
      (∀ j y, l[j]? = some y → u.cellBits v.base j a.c.f.width = bits y ∧
        u.cellBits x.base j 32 = t.strip.toNat * t.vlmax + y) ∧
      (∀ j < k, l.length ≤ j → u.cellBits v.base j a.c.f.width = valueFill a.c.f ∧ u.cellBits x.base j 32 = 0xFFFFFFFF) ∧
      (sd < 64 → u.rs sd = if sd = 0 then 0 else w64 l.length)) ∧
  (∀ (c : Cap) x, (∀ n, c.f = .uint n → x < 2 ^ n → ordOf c x = x) ∧
    (∀ n, c.f = .sint n → 0 < n → (ordOf c x : Int) = (BitVec.ofNat n x).toInt + 2 ^ (n - 1)) ∧
    (∀ g, c.f = .fp g → ((g.val x).isNan = true → ordOf c x = 2 ^ g.width) ∧ ((g.val x).isZero = true → ordOf c x = 2 ^ (g.width - 1)))) ∧
  (∀ n g, valueFill (.uint n) = 0 ∧ valueFill (.sint n) = 2 ^ (n - 1) ∧ valueFill (.fp e2m1) = 15 ∧
    (g ∈ [fp32, bf16, fp16, e4m3, e5m2] → valueFill (.fp g) = g.canon)))
end

