-- ==== Sys2Proof/Laws/Memory.lean ====
section
/-! SUPPORT. The operations on memory keep its canonical form, and the machine after reset has it. -/

namespace Sys2Proof.Machine

/-! ## The form -/

/-- An address lies above a lower end, if there is one. -/
def aboveLo (lo : Option Nat) (a : Nat) : Bool :=
  match lo with
  | none => true
  | some l => decide (l < a)

theorem memWfFrom_cons (lo : Option Nat) (k : Nat) (v : Byte) (r : List Host.Cell) :
    memWfFrom lo ((k, v) :: r) = true ↔ aboveLo lo k = true ∧ v ≠ 0 ∧ memWfFrom (some k) r = true := by
  cases lo <;> simp [memWfFrom, aboveLo, and_assoc]

theorem memWfFrom_of_le {lo hi : Option Nat} {m : List Host.Cell} (h : memWfFrom hi m = true)
    (hle : ∀ a, aboveLo hi a = true → aboveLo lo a = true) : memWfFrom lo m = true := by
  cases m with
  | nil => rfl
  | cons c r => obtain ⟨k, v⟩ := c; rw [memWfFrom_cons] at h ⊢; exact ⟨hle _ h.1, h.2⟩

theorem memWrite_wfFrom {lo : Option Nat} {m : List Host.Cell} (a : Nat) (b : Byte) (h : memWfFrom lo m = true)
    (ha : aboveLo lo a = true) : memWfFrom lo (memWrite m a b) = true := by
  induction m generalizing lo with
  | nil =>
    unfold memWrite
    split
    · rfl
    · rename_i hb; exact (memWfFrom_cons ..).2 ⟨ha, hb, rfl⟩
  | cons c r ih =>
    obtain ⟨k, v⟩ := c
    rw [memWfFrom_cons] at h
    unfold memWrite
    split
    · rename_i hk
      split
      · exact (memWfFrom_cons ..).2 h
      · rename_i hb
        exact (memWfFrom_cons ..).2 ⟨ha, hb, (memWfFrom_cons ..).2 ⟨by simpa [aboveLo] using hk, h.2⟩⟩
    · split
      · rename_i hk hka
        subst hka
        split
        · exact memWfFrom_of_le h.2.2 fun x hx => by
            cases lo with
            | none => rfl
            | some l => simp only [aboveLo, decide_eq_true_eq] at *; omega
        · rename_i hb; exact (memWfFrom_cons ..).2 ⟨h.1, hb, h.2.2⟩
      · rename_i hk hka
        exact (memWfFrom_cons ..).2 ⟨h.1, h.2.1, ih h.2.2 (by simp only [aboveLo, decide_eq_true_eq]; omega)⟩

/-- A write of one byte keeps the canonical form. -/
theorem memWrite_wf {m : List Host.Cell} (a : Nat) (b : Byte) (h : Memory.wf m = true) : Memory.wf (memWrite m a b) = true :=
  memWrite_wfFrom a b h rfl

/-- A write of bytes keeps the canonical form. -/
theorem memWriteN_wf {m : List Host.Cell} (a : Nat) (bs : List Byte) (h : Memory.wf m = true) :
    Memory.wf (memWriteN m a bs) = true := by
  induction bs generalizing m a with
  | nil => exact h
  | cons b bs ih => exact ih (a + 1) (memWrite_wf a b h)

theorem filter_wfFrom {lo : Option Nat} {m : List Host.Cell} (p : Host.Cell → Bool) (h : memWfFrom lo m = true) :
    memWfFrom lo (m.filter p) = true := by
  induction m generalizing lo with
  | nil => rfl
  | cons c r ih =>
    obtain ⟨k, v⟩ := c
    rw [memWfFrom_cons] at h
    by_cases hp : p (k, v) = true
    · rw [List.filter_cons_of_pos hp]; exact (memWfFrom_cons ..).2 ⟨h.1, h.2.1, ih h.2.2⟩
    · rw [List.filter_cons_of_neg hp]
      refine memWfFrom_of_le (ih h.2.2) fun x hx => ?_
      cases lo with
      | none => rfl
      | some l => have := h.1; simp only [aboveLo, decide_eq_true_eq] at *; omega

/-- Two pieces in the form, one below an address and one from it upward, make one in the form. -/
theorem append_wfFrom {lo : Option Nat} {l r : List Host.Cell} (a : Nat) (hl : memWfFrom lo l = true) (hb : ∀ c ∈ l, c.1 < a)
    (hr : memWfFrom none r = true) (ha : ∀ c ∈ r, a ≤ c.1) (h : ∀ c ∈ r, aboveLo lo c.1 = true) :
    memWfFrom lo (l ++ r) = true := by
  induction l generalizing lo with
  | nil =>
    cases r with
    | nil => rfl
    | cons c r =>
      obtain ⟨k, v⟩ := c
      rw [memWfFrom_cons] at hr
      exact (memWfFrom_cons ..).2 ⟨h _ List.mem_cons_self, hr.2⟩
  | cons c l ih =>
    obtain ⟨k, v⟩ := c
    rw [memWfFrom_cons] at hl
    refine (memWfFrom_cons ..).2 ⟨hl.1, hl.2.1, ih hl.2.2 (fun c hc => hb c (List.mem_cons_of_mem _ hc)) fun c hc => ?_⟩
    have h1 := hb (k, v) List.mem_cons_self
    have h2 := ha c hc
    simp only [aboveLo, decide_eq_true_eq] at *
    omega

theorem map_wfFrom {lo lo' : Option Nat} {m : List Host.Cell} (a b : Nat) (h : memWfFrom lo m = true) (hm : ∀ c ∈ m, a ≤ c.1)
    (hlo : ∀ c ∈ m, aboveLo lo c.1 = true → aboveLo lo' (c.1 - a + b) = true) :
    memWfFrom lo' (m.map fun c => (c.1 - a + b, c.2)) = true := by
  induction m generalizing lo lo' with
  | nil => rfl
  | cons c r ih =>
    obtain ⟨k, v⟩ := c
    rw [memWfFrom_cons] at h
    refine (memWfFrom_cons ..).2 ⟨hlo _ List.mem_cons_self h.1, h.2.1,
      ih h.2.2 (fun c hc => hm c (List.mem_cons_of_mem _ hc)) fun c hc hx => ?_⟩
    have h1 := hm (k, v) List.mem_cons_self
    have h2 := hm c (List.mem_cons_of_mem _ hc)
    simp only [aboveLo, decide_eq_true_eq] at *
    omega

/-- A range moved to another keeps the form. -/
theorem rangeCells_wf {m : List Host.Cell} (a n b : Nat) (h : Memory.wf m = true) : Memory.wf (rangeCells m a n b) = true := by
  refine map_wfFrom a b (filter_wfFrom _ h) (fun c hc => ?_) fun _ _ _ => rfl
  simp only [List.mem_filter, Bool.and_eq_true, decide_eq_true_eq] at hc
  exact hc.2.1

theorem rangeCells_mem {m : List Host.Cell} {a n b : Nat} {c : Host.Cell} (h : c ∈ rangeCells m a n b) : b ≤ c.1 ∧ c.1 < b + n := by
  simp only [rangeCells, List.mem_map, List.mem_filter, Bool.and_eq_true, decide_eq_true_eq] at h
  obtain ⟨x, ⟨_, h1, h2⟩, rfl⟩ := h
  exact ⟨Nat.le_add_left .., by omega⟩

theorem onesFrom_mem {a n : Nat} {c : Host.Cell} (h : c ∈ onesFrom a n) : a ≤ c.1 ∧ c.1 < a + n := by
  simp only [onesFrom, List.mem_map, List.mem_range] at h
  obtain ⟨i, hi, rfl⟩ := h
  exact ⟨Nat.le_add_right .., by simpa using hi⟩

theorem onesFrom_wf (a n : Nat) : Memory.wf (onesFrom a n) = true := by
  induction n with
  | zero => rfl
  | succ n ih =>
    rw [show onesFrom a (n + 1) = onesFrom a n ++ [(a + n, 0xFF)] by simp [onesFrom, List.range_succ]]
    exact append_wfFrom (a + n) ih (fun c hc => (onesFrom_mem hc).2) ((memWfFrom_cons ..).2 ⟨rfl, by decide, rfl⟩) (by simp) fun _ _ => rfl

theorem cellAt_mem {n : Nat} {b : Byte} {c : Host.Cell} (h : c ∈ cellAt n b) : c.1 = n := by
  unfold cellAt at h
  split at h
  · simp at h
  · simp only [List.mem_singleton] at h; subst h; rfl

theorem cellAt_wf (n : Nat) (b : Byte) : Memory.wf (cellAt n b) = true := by
  unfold cellAt
  split
  · rfl
  · rename_i h; exact (memWfFrom_cons ..).2 ⟨rfl, h, rfl⟩

theorem pickCells_mem {p : Nat → Bool} {x y : List Host.Cell} {n : Nat} {c : Host.Cell} (h : c ∈ pickCells p x y n) : c.1 < n := by
  induction n with
  | zero => simp [pickCells] at h
  | succ n ih =>
    rcases List.mem_append.1 h with h | h
    · exact Nat.lt_succ_of_lt (ih h)
    · exact cellAt_mem h ▸ Nat.lt_succ_self n

/-- What is picked from two memories has the form, whatever they are. -/
theorem pickCells_wf (p : Nat → Bool) (x y : List Host.Cell) (n : Nat) : Memory.wf (pickCells p x y n) = true := by
  induction n with
  | zero => rfl
  | succ n ih =>
    exact append_wfFrom n ih (fun c hc => pickCells_mem hc) (cellAt_wf ..) (fun c hc => Nat.le_of_eq (cellAt_mem hc).symm)
      fun _ _ => rfl

/-! ## The machine's memories -/

theorem State.physWrite_inv {s : State} (pa : Nat) (b : Byte) (h : s.Inv) : (s.physWrite pa b).Inv := by
  unfold State.physWrite
  split
  · exact h
  · exact ⟨memWrite_wf pa b h.1, h.2⟩

theorem State.foldl_physWrite_inv {α : Type} {s : State} (l : List α) (f : α → Nat) (g : α → Byte) (h : s.Inv) :
    (l.foldl (fun s x => s.physWrite (f x) (g x)) s).Inv := by
  induction l generalizing s with
  | nil => exact h
  | cons x l ih => exact ih (State.physWrite_inv _ _ h)

theorem State.honeyWrite_inv {s : State} (a : Nat) (b : List Byte) (h : s.Inv) : (s.honeyWrite a b).Inv := by
  unfold State.honeyWrite
  split
  · exact h
  · exact ⟨h.1, memWriteN_wf a b h.2⟩

theorem State.flushDies_inv {s : State} (h : s.Inv) : s.flushDies.Inv := by
  unfold State.flushDies
  generalize s.dieLines = l
  induction l generalizing s with
  | nil => exact h
  | cons x l ih => exact ih (State.foldl_physWrite_inv x.dirtyBytes (fun p => x.frame + p.1) (fun p => p.2) h)

theorem State.honeyOut_wf {s : State} (h : s.Inv) : Memory.wf s.honeyOut = true := by
  unfold State.honeyOut
  split
  · exact onesFrom_wf ..
  · exact h.2

theorem State.hbmOut_wf {s : State} (h : s.Inv) : Memory.wf s.hbmOut = true := by
  unfold State.hbmOut
  split
  · exact pickCells_wf ..
  · exact h.1

theorem State.checkpointSave_inv {s : State} (a : Nat) (h : s.Inv) : (s.checkpointSave a).Inv := by
  have hf := State.flushDies_inv h
  refine ⟨?_, hf.2⟩
  unfold State.checkpointSave Memory.wf checkpointLen
  simp only [List.append_assoc]
  refine append_wfFrom a (filter_wfFrom _ hf.1) (fun c hc => ?_) (append_wfFrom (a + Config.honeyEnd) (rangeCells_wf _ _ _ (State.honeyOut_wf hf))
    (fun c hc => (rangeCells_mem hc).2) (append_wfFrom (a + Config.honeyEnd + Config.hbmEnd) (rangeCells_wf _ _ _ (State.hbmOut_wf hf))
      (fun c hc => (rangeCells_mem hc).2) (filter_wfFrom _ hf.1) (fun c hc => ?_) fun _ _ => rfl) (fun c hc => ?_) fun _ _ => rfl)
    (fun c hc => ?_) fun _ _ => rfl
  · simpa using (List.mem_filter.1 hc).2
  · have := (List.mem_filter.1 hc).2; simp only [decide_eq_true_eq] at this; omega
  · rcases List.mem_append.1 hc with hc | hc
    · exact (rangeCells_mem hc).1
    · have := (List.mem_filter.1 hc).2; simp only [decide_eq_true_eq] at this; omega
  · rcases List.mem_append.1 hc with hc | hc
    · exact (rangeCells_mem hc).1
    rcases List.mem_append.1 hc with hc | hc
    · have := (rangeCells_mem hc).1; omega
    · have := (List.mem_filter.1 hc).2; simp only [decide_eq_true_eq] at this; omega

/-- What the honey store and HBM take keeps the form where it has it and HBM's lies below the end of HBM. -/
theorem State.takeCopy_inv {s : State} {honey hbm : List Host.Cell} (h : s.Inv) (hh : Memory.wf honey = true) (hm : Memory.wf hbm = true)
    (hb : ∀ c ∈ hbm, c.1 < Config.hbmEnd) : (s.takeCopy honey hbm).Inv := by
  have hp (e : Nat) : memWfFrom none (pickCells s.hbmFailed s.mem hbm e) = true := pickCells_wf ..
  constructor
  · refine append_wfFrom Config.hbmEnd ?_ (fun c hc => ?_) (filter_wfFrom _ h.1) (fun c hc => by simpa using (List.mem_filter.1 hc).2)
      fun _ _ => rfl
    · split
      · exact hp _
      · exact hm
    · split at hc
      · exact pickCells_mem hc
      · exact hb c hc
  · show Memory.wf (if s.honeyDead then s.honey else honey) = true
    split
    · exact h.2
    · exact hh

theorem State.checkpointRestore_inv {s : State} (a : Nat) (h : s.Inv) : (s.checkpointRestore a).Inv :=
  State.takeCopy_inv h (rangeCells_wf _ _ _ h.1) (rangeCells_wf _ _ _ h.1) fun c hc => by have := (rangeCells_mem hc).2; omega

theorem State.checkpointOnes_inv {s : State} (h : s.Inv) : s.checkpointOnes.Inv := by
  unfold State.checkpointOnes
  refine State.takeCopy_inv h (onesFrom_wf ..) (onesFrom_wf ..) fun c hc => ?_
  have := (onesFrom_mem hc).2
  rwa [Nat.zero_add] at this

theorem State.reset_inv : State.reset.Inv := ⟨rfl, rfl⟩

theorem State.deviceReset_inv {s : State} (h : s.Inv) : s.deviceReset.Inv := by
  unfold State.deviceReset
  simp only []
  split <;> exact h

end Sys2Proof.Machine
end

