-- ==== Sys2Proof/Laws/Run.lean ====
section
/-! SUPPORT. What the pieces of a meaning do: the operations of `M`, one line each, and the runners of instruction words. -/

namespace Sys2Proof.Machine

/-! ## The operations of a meaning, each on a state where it succeeds or ends early -/

theorem bind_eq {α β : Type} (m : M α) (f : α → M β) (s : State) :
    (m >>= f) s = (match m s with | .error e => .error e | .ok (v, s') => f v s') := by
  simp only [bind, StateT.bind, Except.bind]
  cases m s <;> rfl

theorem bind_ok {α β : Type} {m : M α} {f : α → M β} {s s' : State} {v : α} (h : m s = .ok (v, s')) :
    (m >>= f) s = f v s' := by rw [bind_eq, h]

theorem bind_error {α β : Type} {m : M α} {f : α → M β} {s : State} {e : Stop} (h : m s = .error e) :
    (m >>= f) s = .error e := by rw [bind_eq, h]

theorem map_eq {α β : Type} (m : M α) (f : α → β) (s : State) :
    (f <$> m) s = (match m s with | .error e => .error e | .ok (v, s') => .ok (f v, s')) := by
  simp only [Functor.map, StateT.map, bind, Except.bind, pure, Except.pure]
  cases m s <;> rfl

theorem pure_eq {α : Type} (v : α) (s : State) : (pure v : M α) s = .ok (v, s) := rfl
theorem ite_eq {α : Type} (c : Prop) [Decidable c] (a b : M α) (s : State) :
    (if c then a else b) s = if c then a s else b s := by split <;> rfl
theorem getS_eq (s : State) : getS s = .ok (s, s) := rfl
theorem setS_eq (s s' : State) : setS s' s = .ok ((), s') := rfl
theorem modS_eq (f : State → State) (s : State) : modS f s = .ok ((), f s) := rfl
theorem setT_eq (t : Task) (s : State) : setT t s = .ok ((), s.setTask t) := rfl
theorem trap_eq {α : Type} (c : Nat) (v : Word) (s : State) : (trap c v : M α) s = .error (.trap c v) := rfl
theorem stall_eq {α : Type} (s : State) : (stall : M α) s = .error (.stall (.condition none)) := rfl
theorem stopWith_eq {α : Type} (e : Stop) (s : State) : (stopWith e : M α) s = .error e := rfl
theorem check_eq (c : Bool) (k : Nat) (v : Word) (s : State) :
    check c k v s = if c then .ok ((), s) else .error (.trap k v) := rfl

theorem getT_eq {s : State} {t : Task} (h : s.curTask = some t) : getT s = .ok (t, s) := by
  simp only [getT, h]

theorem modT_eq {s : State} {t : Task} (f : Task → Task) (h : s.curTask = some t) :
    modT f s = .ok ((), s.setTask (f t)) := by
  unfold modT; rw [bind_ok (getT_eq h)]; rfl

theorem getP_eq {s : State} {t : Task} {q : Partition} (h : s.curTask = some t) (hq : s.part? t.vf = some q) :
    getP s = .ok (q, s) := by
  unfold getP; rw [bind_ok (getT_eq h), bind_ok (getS_eq s)]; simp only [hq]; rfl

theorem finishWord_eq {i : Instr} {s : State} {t : Task} (f : Task → Task) (h : s.curTask = some t) :
    finishWord i f s = .ok ((), s.setTask ((f t.awake).retire i)) := by
  unfold finishWord; rw [modT_eq _ h]

theorem useHandle_eq {k : Nat} {s : State} {t : Task} {q : Partition} (h : s.curTask = some t)
    (hq : s.part? t.vf = some q) :
    useHandle k s = (match s.handle? (t.ctx q) q k with
      | (some e, s') => .ok (e, s')
      | (none, _) => .error (.trap cHINV (w64 k))) := by
  unfold useHandle
  rw [bind_ok (getT_eq h), bind_ok (getP_eq h hq), bind_ok (getS_eq s)]
  generalize s.handle? (t.ctx q) q k = r
  obtain ⟨_ | e, s'⟩ := r <;> rfl

/-! ## The runners of instruction words -/

theorem runTask_eq {l : Lanes} {p : Pred} {i : Instr} {s : State} {t : Task} (f : Task → Task) (h : s.curTask = some t) :
    runTask l p i s f = .next (s.setTask ((if laneActive l p t then f t else t).retire i)) := by
  simp only [runTask, h]; split <;> rfl

theorem runWord_idle {l : Lanes} {p : Pred} {i : Instr} {s : State} {t : Task} {body : Task → M Unit}
    (h : s.curTask = some t) (ha : laneActive l p t = false) :
    runWord l p i s body = .next (s.setTask (t.retire i)) := by
  simp only [runWord, h, ha, Bool.false_eq_true, if_false]

theorem runWord_ok {l : Lanes} {p : Pred} {i : Instr} {s s' : State} {t : Task} {body : Task → M Unit}
    (h : s.curTask = some t) (ha : laneActive l p t = true) (hb : body t s = .ok ((), s')) :
    runWord l p i s body = .next (s'.andRetire i t.id) := by
  simp only [runWord, h, ha, hb, if_true]

theorem runWord_error {l : Lanes} {p : Pred} {i : Instr} {s : State} {t : Task} {e : Stop} {body : Task → M Unit}
    (h : s.curTask = some t) (ha : laneActive l p t = true) (hb : body t s = .error e) :
    runWord l p i s body = .next (s.deliver t i e) := by
  simp only [runWord, h, ha, hb, if_true]

theorem runFlow_idle {l : Lanes} {p : Pred} {i : Instr} {s : State} {t : Task} {body : Task → M Unit}
    (h : s.curTask = some t) (ha : laneActive l p t = false) :
    runFlow l p i s body = .next (s.setTask (t.retire i)) := by
  simp only [runFlow, h, ha, Bool.false_eq_true, if_false]

theorem runFlow_ok {l : Lanes} {p : Pred} {i : Instr} {s s' : State} {t : Task} {body : Task → M Unit}
    (h : s.curTask = some t) (ha : laneActive l p t = true) (hb : body t s = .ok ((), s')) :
    runFlow l p i s body = .next s' := by
  simp only [runFlow, h, ha, hb, if_true]

theorem runFlow_error {l : Lanes} {p : Pred} {i : Instr} {s : State} {t : Task} {e : Stop} {body : Task → M Unit}
    (h : s.curTask = some t) (ha : laneActive l p t = true) (hb : body t s = .error e) :
    runFlow l p i s body = .next (s.deliver t i e) := by
  simp only [runFlow, h, ha, hb, if_true]

theorem runFor_ok {id : Nat} {i : Instr} {s s' : State} {t : Task} {body : Task → M Unit} (h : s.task? id = some t)
    (hb : body t { s with cur := some id } = .ok ((), s')) :
    runFor id i s body = .next { s' with cur := s.cur } := by
  simp only [runFor, h, hb]

end Sys2Proof.Machine
end

