-- ==== Sys2Proof/Laws/State.lean ====
section
/-! SUPPORT. What each update of the state and of a task's record leaves in each field, and reading back what was set. -/

namespace Sys2Proof.Machine

/-! ## Replacing a task, a partition, a job; sending a message -/

@[simp] theorem State.setTask_cycle (s : State) (t : Task) : (s.setTask t).cycle = s.cycle := rfl
@[simp] theorem State.setTask_mem (s : State) (t : Task) : (s.setTask t).mem = s.mem := rfl
@[simp] theorem State.setTask_honey (s : State) (t : Task) : (s.setTask t).honey = s.honey := rfl
@[simp] theorem State.setTask_badMem (s : State) (t : Task) : (s.setTask t).badMem = s.badMem := rfl
@[simp] theorem State.setTask_badHoney (s : State) (t : Task) : (s.setTask t).badHoney = s.badHoney := rfl
@[simp] theorem State.setTask_refreshing (s : State) (t : Task) : (s.setTask t).refreshing = s.refreshing := rfl
@[simp] theorem State.setTask_hiveLines (s : State) (t : Task) : (s.setTask t).hiveLines = s.hiveLines := rfl
@[simp] theorem State.setTask_icLines (s : State) (t : Task) : (s.setTask t).icLines = s.icLines := rfl
@[simp] theorem State.setTask_dieLines (s : State) (t : Task) : (s.setTask t).dieLines = s.dieLines := rfl
@[simp] theorem State.setTask_tlb (s : State) (t : Task) : (s.setTask t).tlb = s.tlb := rfl
@[simp] theorem State.setTask_handles (s : State) (t : Task) : (s.setTask t).handles = s.handles := rfl
@[simp] theorem State.setTask_hives (s : State) (t : Task) : (s.setTask t).hives = s.hives := rfl
@[simp] theorem State.setTask_parts (s : State) (t : Task) : (s.setTask t).parts = s.parts := rfl
@[simp] theorem State.setTask_jobs (s : State) (t : Task) : (s.setTask t).jobs = s.jobs := rfl
@[simp] theorem State.setTask_ports (s : State) (t : Task) : (s.setTask t).ports = s.ports := rfl
@[simp] theorem State.setTask_keeper (s : State) (t : Task) : (s.setTask t).keeper = s.keeper := rfl
@[simp] theorem State.setTask_ready (s : State) (t : Task) : (s.setTask t).ready = s.ready := rfl
@[simp] theorem State.setTask_failed (s : State) (t : Task) : (s.setTask t).failed = s.failed := rfl
@[simp] theorem State.setTask_everReady (s : State) (t : Task) : (s.setTask t).everReady = s.everReady := rfl
@[simp] theorem State.setTask_clock (s : State) (t : Task) : (s.setTask t).clock = s.clock := rfl
@[simp] theorem State.setTask_thermalHold (s : State) (t : Task) : (s.setTask t).thermalHold = s.thermalHold := rfl
@[simp] theorem State.setTask_afrSeq (s : State) (t : Task) : (s.setTask t).afrSeq = s.afrSeq := rfl
@[simp] theorem State.setTask_afrHbm (s : State) (t : Task) : (s.setTask t).afrHbm = s.afrHbm := rfl
@[simp] theorem State.setTask_afrMx (s : State) (t : Task) : (s.setTask t).afrMx = s.afrMx := rfl
@[simp] theorem State.setTask_afrPass (s : State) (t : Task) : (s.setTask t).afrPass = s.afrPass := rfl
@[simp] theorem State.setTask_msgs (s : State) (t : Task) : (s.setTask t).msgs = s.msgs := rfl
@[simp] theorem State.setTask_shadow (s : State) (t : Task) : (s.setTask t).shadow = s.shadow := rfl
@[simp] theorem State.setTask_nextTask (s : State) (t : Task) : (s.setTask t).nextTask = s.nextTask := rfl
@[simp] theorem State.setTask_nextJob (s : State) (t : Task) : (s.setTask t).nextJob = s.nextJob := rfl
@[simp] theorem State.setTask_agenda (s : State) (t : Task) : (s.setTask t).agenda = s.agenda := rfl
@[simp] theorem State.setTask_phase (s : State) (t : Task) : (s.setTask t).phase = s.phase := rfl
@[simp] theorem State.setTask_turn (s : State) (t : Task) : (s.setTask t).turn = s.turn := rfl
@[simp] theorem State.setTask_cur (s : State) (t : Task) : (s.setTask t).cur = s.cur := rfl
@[simp] theorem State.setTask_fresh (s : State) (t : Task) : (s.setTask t).fresh = s.fresh := rfl

@[simp] theorem State.setPart_cycle (s : State) (p : Partition) : (s.setPart p).cycle = s.cycle := rfl
@[simp] theorem State.setPart_mem (s : State) (p : Partition) : (s.setPart p).mem = s.mem := rfl
@[simp] theorem State.setPart_honey (s : State) (p : Partition) : (s.setPart p).honey = s.honey := rfl
@[simp] theorem State.setPart_badMem (s : State) (p : Partition) : (s.setPart p).badMem = s.badMem := rfl
@[simp] theorem State.setPart_badHoney (s : State) (p : Partition) : (s.setPart p).badHoney = s.badHoney := rfl
@[simp] theorem State.setPart_refreshing (s : State) (p : Partition) : (s.setPart p).refreshing = s.refreshing := rfl
@[simp] theorem State.setPart_hiveLines (s : State) (p : Partition) : (s.setPart p).hiveLines = s.hiveLines := rfl
@[simp] theorem State.setPart_icLines (s : State) (p : Partition) : (s.setPart p).icLines = s.icLines := rfl
@[simp] theorem State.setPart_dieLines (s : State) (p : Partition) : (s.setPart p).dieLines = s.dieLines := rfl
@[simp] theorem State.setPart_tlb (s : State) (p : Partition) : (s.setPart p).tlb = s.tlb := rfl
@[simp] theorem State.setPart_handles (s : State) (p : Partition) : (s.setPart p).handles = s.handles := rfl
@[simp] theorem State.setPart_hives (s : State) (p : Partition) : (s.setPart p).hives = s.hives := rfl
@[simp] theorem State.setPart_tasks (s : State) (p : Partition) : (s.setPart p).tasks = s.tasks := rfl
@[simp] theorem State.setPart_jobs (s : State) (p : Partition) : (s.setPart p).jobs = s.jobs := rfl
@[simp] theorem State.setPart_ports (s : State) (p : Partition) : (s.setPart p).ports = s.ports := rfl
@[simp] theorem State.setPart_keeper (s : State) (p : Partition) : (s.setPart p).keeper = s.keeper := rfl
@[simp] theorem State.setPart_ready (s : State) (p : Partition) : (s.setPart p).ready = s.ready := rfl
@[simp] theorem State.setPart_failed (s : State) (p : Partition) : (s.setPart p).failed = s.failed := rfl
@[simp] theorem State.setPart_everReady (s : State) (p : Partition) : (s.setPart p).everReady = s.everReady := rfl
@[simp] theorem State.setPart_clock (s : State) (p : Partition) : (s.setPart p).clock = s.clock := rfl
@[simp] theorem State.setPart_thermalHold (s : State) (p : Partition) : (s.setPart p).thermalHold = s.thermalHold := rfl
@[simp] theorem State.setPart_afrSeq (s : State) (p : Partition) : (s.setPart p).afrSeq = s.afrSeq := rfl
@[simp] theorem State.setPart_afrHbm (s : State) (p : Partition) : (s.setPart p).afrHbm = s.afrHbm := rfl
@[simp] theorem State.setPart_afrMx (s : State) (p : Partition) : (s.setPart p).afrMx = s.afrMx := rfl
@[simp] theorem State.setPart_afrPass (s : State) (p : Partition) : (s.setPart p).afrPass = s.afrPass := rfl
@[simp] theorem State.setPart_msgs (s : State) (p : Partition) : (s.setPart p).msgs = s.msgs := rfl
@[simp] theorem State.setPart_shadow (s : State) (p : Partition) : (s.setPart p).shadow = s.shadow := rfl
@[simp] theorem State.setPart_nextTask (s : State) (p : Partition) : (s.setPart p).nextTask = s.nextTask := rfl
@[simp] theorem State.setPart_nextJob (s : State) (p : Partition) : (s.setPart p).nextJob = s.nextJob := rfl
@[simp] theorem State.setPart_agenda (s : State) (p : Partition) : (s.setPart p).agenda = s.agenda := rfl
@[simp] theorem State.setPart_phase (s : State) (p : Partition) : (s.setPart p).phase = s.phase := rfl
@[simp] theorem State.setPart_turn (s : State) (p : Partition) : (s.setPart p).turn = s.turn := rfl
@[simp] theorem State.setPart_cur (s : State) (p : Partition) : (s.setPart p).cur = s.cur := rfl
@[simp] theorem State.setPart_fresh (s : State) (p : Partition) : (s.setPart p).fresh = s.fresh := rfl

@[simp] theorem State.setJob_cycle (s : State) (j : Job) : (s.setJob j).cycle = s.cycle := rfl
@[simp] theorem State.setJob_mem (s : State) (j : Job) : (s.setJob j).mem = s.mem := rfl
@[simp] theorem State.setJob_honey (s : State) (j : Job) : (s.setJob j).honey = s.honey := rfl
@[simp] theorem State.setJob_badMem (s : State) (j : Job) : (s.setJob j).badMem = s.badMem := rfl
@[simp] theorem State.setJob_badHoney (s : State) (j : Job) : (s.setJob j).badHoney = s.badHoney := rfl
@[simp] theorem State.setJob_refreshing (s : State) (j : Job) : (s.setJob j).refreshing = s.refreshing := rfl
@[simp] theorem State.setJob_hiveLines (s : State) (j : Job) : (s.setJob j).hiveLines = s.hiveLines := rfl
@[simp] theorem State.setJob_icLines (s : State) (j : Job) : (s.setJob j).icLines = s.icLines := rfl
@[simp] theorem State.setJob_dieLines (s : State) (j : Job) : (s.setJob j).dieLines = s.dieLines := rfl
@[simp] theorem State.setJob_tlb (s : State) (j : Job) : (s.setJob j).tlb = s.tlb := rfl
@[simp] theorem State.setJob_handles (s : State) (j : Job) : (s.setJob j).handles = s.handles := rfl
@[simp] theorem State.setJob_hives (s : State) (j : Job) : (s.setJob j).hives = s.hives := rfl
@[simp] theorem State.setJob_parts (s : State) (j : Job) : (s.setJob j).parts = s.parts := rfl
@[simp] theorem State.setJob_tasks (s : State) (j : Job) : (s.setJob j).tasks = s.tasks := rfl
@[simp] theorem State.setJob_ports (s : State) (j : Job) : (s.setJob j).ports = s.ports := rfl
@[simp] theorem State.setJob_keeper (s : State) (j : Job) : (s.setJob j).keeper = s.keeper := rfl
@[simp] theorem State.setJob_ready (s : State) (j : Job) : (s.setJob j).ready = s.ready := rfl
@[simp] theorem State.setJob_failed (s : State) (j : Job) : (s.setJob j).failed = s.failed := rfl
@[simp] theorem State.setJob_everReady (s : State) (j : Job) : (s.setJob j).everReady = s.everReady := rfl
@[simp] theorem State.setJob_clock (s : State) (j : Job) : (s.setJob j).clock = s.clock := rfl
@[simp] theorem State.setJob_thermalHold (s : State) (j : Job) : (s.setJob j).thermalHold = s.thermalHold := rfl
@[simp] theorem State.setJob_afrSeq (s : State) (j : Job) : (s.setJob j).afrSeq = s.afrSeq := rfl
@[simp] theorem State.setJob_afrHbm (s : State) (j : Job) : (s.setJob j).afrHbm = s.afrHbm := rfl
@[simp] theorem State.setJob_afrMx (s : State) (j : Job) : (s.setJob j).afrMx = s.afrMx := rfl
@[simp] theorem State.setJob_afrPass (s : State) (j : Job) : (s.setJob j).afrPass = s.afrPass := rfl
@[simp] theorem State.setJob_msgs (s : State) (j : Job) : (s.setJob j).msgs = s.msgs := rfl
@[simp] theorem State.setJob_shadow (s : State) (j : Job) : (s.setJob j).shadow = s.shadow := rfl
@[simp] theorem State.setJob_nextTask (s : State) (j : Job) : (s.setJob j).nextTask = s.nextTask := rfl
@[simp] theorem State.setJob_nextJob (s : State) (j : Job) : (s.setJob j).nextJob = s.nextJob := rfl
@[simp] theorem State.setJob_agenda (s : State) (j : Job) : (s.setJob j).agenda = s.agenda := rfl
@[simp] theorem State.setJob_phase (s : State) (j : Job) : (s.setJob j).phase = s.phase := rfl
@[simp] theorem State.setJob_turn (s : State) (j : Job) : (s.setJob j).turn = s.turn := rfl
@[simp] theorem State.setJob_cur (s : State) (j : Job) : (s.setJob j).cur = s.cur := rfl
@[simp] theorem State.setJob_fresh (s : State) (j : Job) : (s.setJob j).fresh = s.fresh := rfl

@[simp] theorem State.send_cycle (s : State) (m : OutMsg) : (s.send m).cycle = s.cycle := rfl
@[simp] theorem State.send_mem (s : State) (m : OutMsg) : (s.send m).mem = s.mem := rfl
@[simp] theorem State.send_honey (s : State) (m : OutMsg) : (s.send m).honey = s.honey := rfl
@[simp] theorem State.send_badMem (s : State) (m : OutMsg) : (s.send m).badMem = s.badMem := rfl
@[simp] theorem State.send_badHoney (s : State) (m : OutMsg) : (s.send m).badHoney = s.badHoney := rfl
@[simp] theorem State.send_refreshing (s : State) (m : OutMsg) : (s.send m).refreshing = s.refreshing := rfl
@[simp] theorem State.send_hiveLines (s : State) (m : OutMsg) : (s.send m).hiveLines = s.hiveLines := rfl
@[simp] theorem State.send_icLines (s : State) (m : OutMsg) : (s.send m).icLines = s.icLines := rfl
@[simp] theorem State.send_dieLines (s : State) (m : OutMsg) : (s.send m).dieLines = s.dieLines := rfl
@[simp] theorem State.send_tlb (s : State) (m : OutMsg) : (s.send m).tlb = s.tlb := rfl
@[simp] theorem State.send_handles (s : State) (m : OutMsg) : (s.send m).handles = s.handles := rfl
@[simp] theorem State.send_hives (s : State) (m : OutMsg) : (s.send m).hives = s.hives := rfl
@[simp] theorem State.send_parts (s : State) (m : OutMsg) : (s.send m).parts = s.parts := rfl
@[simp] theorem State.send_tasks (s : State) (m : OutMsg) : (s.send m).tasks = s.tasks := rfl
@[simp] theorem State.send_jobs (s : State) (m : OutMsg) : (s.send m).jobs = s.jobs := rfl
@[simp] theorem State.send_ports (s : State) (m : OutMsg) : (s.send m).ports = s.ports := rfl
@[simp] theorem State.send_keeper (s : State) (m : OutMsg) : (s.send m).keeper = s.keeper := rfl
@[simp] theorem State.send_ready (s : State) (m : OutMsg) : (s.send m).ready = s.ready := rfl
@[simp] theorem State.send_failed (s : State) (m : OutMsg) : (s.send m).failed = s.failed := rfl
@[simp] theorem State.send_everReady (s : State) (m : OutMsg) : (s.send m).everReady = s.everReady := rfl
@[simp] theorem State.send_clock (s : State) (m : OutMsg) : (s.send m).clock = s.clock := rfl
@[simp] theorem State.send_thermalHold (s : State) (m : OutMsg) : (s.send m).thermalHold = s.thermalHold := rfl
@[simp] theorem State.send_afrSeq (s : State) (m : OutMsg) : (s.send m).afrSeq = s.afrSeq := rfl
@[simp] theorem State.send_afrHbm (s : State) (m : OutMsg) : (s.send m).afrHbm = s.afrHbm := rfl
@[simp] theorem State.send_afrMx (s : State) (m : OutMsg) : (s.send m).afrMx = s.afrMx := rfl
@[simp] theorem State.send_afrPass (s : State) (m : OutMsg) : (s.send m).afrPass = s.afrPass := rfl
@[simp] theorem State.send_shadow (s : State) (m : OutMsg) : (s.send m).shadow = s.shadow := rfl
@[simp] theorem State.send_nextTask (s : State) (m : OutMsg) : (s.send m).nextTask = s.nextTask := rfl
@[simp] theorem State.send_nextJob (s : State) (m : OutMsg) : (s.send m).nextJob = s.nextJob := rfl
@[simp] theorem State.send_agenda (s : State) (m : OutMsg) : (s.send m).agenda = s.agenda := rfl
@[simp] theorem State.send_phase (s : State) (m : OutMsg) : (s.send m).phase = s.phase := rfl
@[simp] theorem State.send_turn (s : State) (m : OutMsg) : (s.send m).turn = s.turn := rfl
@[simp] theorem State.send_cur (s : State) (m : OutMsg) : (s.send m).cur = s.cur := rfl
@[simp] theorem State.send_fresh (s : State) (m : OutMsg) : (s.send m).fresh = s.fresh := rfl

/-! ## Replacing a hive -/

@[simp] theorem State.setHive_cycle (s : State) (h : Hive) : (s.setHive h).cycle = s.cycle := by unfold State.setHive; split <;> rfl
@[simp] theorem State.setHive_mem (s : State) (h : Hive) : (s.setHive h).mem = s.mem := by unfold State.setHive; split <;> rfl
@[simp] theorem State.setHive_honey (s : State) (h : Hive) : (s.setHive h).honey = s.honey := by unfold State.setHive; split <;> rfl
@[simp] theorem State.setHive_badMem (s : State) (h : Hive) : (s.setHive h).badMem = s.badMem := by unfold State.setHive; split <;> rfl
@[simp] theorem State.setHive_badHoney (s : State) (h : Hive) : (s.setHive h).badHoney = s.badHoney := by unfold State.setHive; split <;> rfl
@[simp] theorem State.setHive_refreshing (s : State) (h : Hive) : (s.setHive h).refreshing = s.refreshing := by unfold State.setHive; split <;> rfl
@[simp] theorem State.setHive_hiveLines (s : State) (h : Hive) : (s.setHive h).hiveLines = s.hiveLines := by unfold State.setHive; split <;> rfl
@[simp] theorem State.setHive_icLines (s : State) (h : Hive) : (s.setHive h).icLines = s.icLines := by unfold State.setHive; split <;> rfl
@[simp] theorem State.setHive_dieLines (s : State) (h : Hive) : (s.setHive h).dieLines = s.dieLines := by unfold State.setHive; split <;> rfl
@[simp] theorem State.setHive_tlb (s : State) (h : Hive) : (s.setHive h).tlb = s.tlb := by unfold State.setHive; split <;> rfl
@[simp] theorem State.setHive_handles (s : State) (h : Hive) : (s.setHive h).handles = s.handles := by unfold State.setHive; split <;> rfl
@[simp] theorem State.setHive_parts (s : State) (h : Hive) : (s.setHive h).parts = s.parts := by unfold State.setHive; split <;> rfl
@[simp] theorem State.setHive_tasks (s : State) (h : Hive) : (s.setHive h).tasks = s.tasks := by unfold State.setHive; split <;> rfl
@[simp] theorem State.setHive_jobs (s : State) (h : Hive) : (s.setHive h).jobs = s.jobs := by unfold State.setHive; split <;> rfl
@[simp] theorem State.setHive_ports (s : State) (h : Hive) : (s.setHive h).ports = s.ports := by unfold State.setHive; split <;> rfl
@[simp] theorem State.setHive_keeper (s : State) (h : Hive) : (s.setHive h).keeper = s.keeper := by unfold State.setHive; split <;> rfl
@[simp] theorem State.setHive_ready (s : State) (h : Hive) : (s.setHive h).ready = s.ready := by unfold State.setHive; split <;> rfl
@[simp] theorem State.setHive_failed (s : State) (h : Hive) : (s.setHive h).failed = s.failed := by unfold State.setHive; split <;> rfl
@[simp] theorem State.setHive_everReady (s : State) (h : Hive) : (s.setHive h).everReady = s.everReady := by unfold State.setHive; split <;> rfl
@[simp] theorem State.setHive_clock (s : State) (h : Hive) : (s.setHive h).clock = s.clock := by unfold State.setHive; split <;> rfl
@[simp] theorem State.setHive_thermalHold (s : State) (h : Hive) : (s.setHive h).thermalHold = s.thermalHold := by unfold State.setHive; split <;> rfl
@[simp] theorem State.setHive_afrSeq (s : State) (h : Hive) : (s.setHive h).afrSeq = s.afrSeq := by unfold State.setHive; split <;> rfl
@[simp] theorem State.setHive_afrHbm (s : State) (h : Hive) : (s.setHive h).afrHbm = s.afrHbm := by unfold State.setHive; split <;> rfl
@[simp] theorem State.setHive_afrMx (s : State) (h : Hive) : (s.setHive h).afrMx = s.afrMx := by unfold State.setHive; split <;> rfl
@[simp] theorem State.setHive_afrPass (s : State) (h : Hive) : (s.setHive h).afrPass = s.afrPass := by unfold State.setHive; split <;> rfl
@[simp] theorem State.setHive_msgs (s : State) (h : Hive) : (s.setHive h).msgs = s.msgs := by unfold State.setHive; split <;> rfl
@[simp] theorem State.setHive_shadow (s : State) (h : Hive) : (s.setHive h).shadow = s.shadow := by unfold State.setHive; split <;> rfl
@[simp] theorem State.setHive_nextTask (s : State) (h : Hive) : (s.setHive h).nextTask = s.nextTask := by unfold State.setHive; split <;> rfl
@[simp] theorem State.setHive_nextJob (s : State) (h : Hive) : (s.setHive h).nextJob = s.nextJob := by unfold State.setHive; split <;> rfl
@[simp] theorem State.setHive_agenda (s : State) (h : Hive) : (s.setHive h).agenda = s.agenda := by unfold State.setHive; split <;> rfl
@[simp] theorem State.setHive_phase (s : State) (h : Hive) : (s.setHive h).phase = s.phase := by unfold State.setHive; split <;> rfl
@[simp] theorem State.setHive_turn (s : State) (h : Hive) : (s.setHive h).turn = s.turn := by unfold State.setHive; split <;> rfl
@[simp] theorem State.setHive_cur (s : State) (h : Hive) : (s.setHive h).cur = s.cur := by unfold State.setHive; split <;> rfl
@[simp] theorem State.setHive_fresh (s : State) (h : Hive) : (s.setHive h).fresh = s.fresh := by unfold State.setHive; split <;> rfl

/-! ## Waking a task, and writing its scalar registers, predicates and loop counters -/

@[simp] theorem Task.awake_id (t : Task) : (t.awake).id = t.id := rfl
@[simp] theorem Task.awake_vf (t : Task) : (t.awake).vf = t.vf := rfl
@[simp] theorem Task.awake_launch (t : Task) : (t.awake).launch = t.launch := rfl
@[simp] theorem Task.awake_stage (t : Task) : (t.awake).stage = t.stage := rfl
@[simp] theorem Task.awake_out (t : Task) : (t.awake).out = t.out := rfl
@[simp] theorem Task.awake_sup (t : Task) : (t.awake).sup = t.sup := rfl
@[simp] theorem Task.awake_hive (t : Task) : (t.awake).hive = t.hive := rfl
@[simp] theorem Task.awake_vlc (t : Task) : (t.awake).vlc = t.vlc := rfl
@[simp] theorem Task.awake_firstComb (t : Task) : (t.awake).firstComb = t.firstComb := rfl
@[simp] theorem Task.awake_combs (t : Task) : (t.awake).combs = t.combs := rfl
@[simp] theorem Task.awake_live (t : Task) : (t.awake).live = t.live := rfl
@[simp] theorem Task.awake_slot (t : Task) : (t.awake).slot = t.slot := rfl
@[simp] theorem Task.awake_place (t : Task) : (t.awake).place = t.place := rfl
@[simp] theorem Task.awake_cleared (t : Task) : (t.awake).cleared = t.cleared := rfl
@[simp] theorem Task.awake_pc (t : Task) : (t.awake).pc = t.pc := rfl
@[simp] theorem Task.awake_s (t : Task) : (t.awake).s = t.s := rfl
@[simp] theorem Task.awake_q (t : Task) : (t.awake).q = t.q := rfl
@[simp] theorem Task.awake_avl (t : Task) : (t.awake).avl = t.avl := rfl
@[simp] theorem Task.awake_strip (t : Task) : (t.awake).strip = t.strip := rfl
@[simp] theorem Task.awake_vstart (t : Task) : (t.awake).vstart = t.vstart := rfl
@[simp] theorem Task.awake_sfill (t : Task) : (t.awake).sfill = t.sfill := rfl
@[simp] theorem Task.awake_rngb (t : Task) : (t.awake).rngb = t.rngb := rfl
@[simp] theorem Task.awake_fflags (t : Task) : (t.awake).fflags = t.fflags := rfl
@[simp] theorem Task.awake_lc (t : Task) : (t.awake).lc = t.lc := rfl
@[simp] theorem Task.awake_loops (t : Task) : (t.awake).loops = t.loops := rfl
@[simp] theorem Task.awake_sen (t : Task) : (t.awake).sen = t.sen := rfl
@[simp] theorem Task.awake_slc (t : Task) : (t.awake).slc = t.slc := rfl
@[simp] theorem Task.awake_lbuf (t : Task) : (t.awake).lbuf = t.lbuf := rfl
@[simp] theorem Task.awake_lbad (t : Task) : (t.awake).lbad = t.lbad := rfl
@[simp] theorem Task.awake_tvec (t : Task) : (t.awake).tvec = t.tvec := rfl
@[simp] theorem Task.awake_tcauseVs (t : Task) : (t.awake).tcauseVs = t.tcauseVs := rfl
@[simp] theorem Task.awake_tcauseCode (t : Task) : (t.awake).tcauseCode = t.tcauseCode := rfl
@[simp] theorem Task.awake_tval (t : Task) : (t.awake).tval = t.tval := rfl
@[simp] theorem Task.awake_tepc (t : Task) : (t.awake).tepc = t.tepc := rfl
@[simp] theorem Task.awake_tin (t : Task) : (t.awake).tin = t.tin := rfl
@[simp] theorem Task.awake_tnote (t : Task) : (t.awake).tnote = t.tnote := rfl
@[simp] theorem Task.awake_tptrap (t : Task) : (t.awake).tptrap = t.tptrap := rfl
@[simp] theorem Task.awake_ix (t : Task) : (t.awake).ix = t.ix := rfl
@[simp] theorem Task.awake_tqueue (t : Task) : (t.awake).tqueue = t.tqueue := rfl
@[simp] theorem Task.awake_tlaunch (t : Task) : (t.awake).tlaunch = t.tlaunch := rfl
@[simp] theorem Task.awake_tseq (t : Task) : (t.awake).tseq = t.tseq := rfl
@[simp] theorem Task.awake_chiprank (t : Task) : (t.awake).chiprank = t.chiprank := rfl
@[simp] theorem Task.awake_ocld (t : Task) : (t.awake).ocld = t.ocld := rfl
@[simp] theorem Task.awake_ocst (t : Task) : (t.awake).ocst = t.ocst := rfl
@[simp] theorem Task.awake_occp (t : Task) : (t.awake).occp = t.occp := rfl
@[simp] theorem Task.awake_ocmx (t : Task) : (t.awake).ocmx = t.ocmx := rfl
@[simp] theorem Task.awake_cols (t : Task) : (t.awake).cols = t.cols := rfl
@[simp] theorem Task.awake_par (t : Task) : (t.awake).par = t.par := rfl
@[simp] theorem Task.awake_tags (t : Task) : (t.awake).tags = t.tags := rfl
@[simp] theorem Task.awake_linear (t : Task) : (t.awake).linear = t.linear := rfl
@[simp] theorem Task.awake_heldSwitch (t : Task) : (t.awake).heldSwitch = t.heldSwitch := rfl
@[simp] theorem Task.awake_lease (t : Task) : (t.awake).lease = t.lease := rfl
@[simp] theorem Task.awake_regs (t : Task) : (t.awake).regs = t.regs := rfl
@[simp] theorem Task.awake_resume (t : Task) : (t.awake).resume = t.resume := rfl
@[simp] theorem Task.awake_mx (t : Task) : (t.awake).mx = t.mx := rfl
@[simp] theorem Task.awake_fq (t : Task) : (t.awake).fq = t.fq := rfl
@[simp] theorem Task.awake_defer (t : Task) : (t.awake).defer = t.defer := rfl
@[simp] theorem Task.awake_paths (t : Task) : (t.awake).paths = t.paths := rfl
@[simp] theorem Task.awake_stores (t : Task) : (t.awake).stores = t.stores := rfl
@[simp] theorem Task.awake_vld (t : Task) : (t.awake).vld = t.vld := rfl
@[simp] theorem Task.awake_vst (t : Task) : (t.awake).vst = t.vst := rfl
@[simp] theorem Task.awake_pend (t : Task) : (t.awake).pend = t.pend := rfl
@[simp] theorem Task.awake_dues (t : Task) : (t.awake).dues = t.dues := rfl
@[simp] theorem Task.awake_dueFlags (t : Task) : (t.awake).dueFlags = t.dueFlags := rfl
@[simp] theorem Task.awake_latePulses (t : Task) : (t.awake).latePulses = t.latePulses := rfl
@[simp] theorem Task.awake_lateDone (t : Task) : (t.awake).lateDone = t.lateDone := rfl
@[simp] theorem Task.awake_combpar (t : Task) : (t.awake).combpar = t.combpar := rfl
@[simp] theorem Task.awake_stop (t : Task) : (t.awake).stop = t.stop := rfl
@[simp] theorem Task.awake_stopAt (t : Task) : (t.awake).stopAt = t.stopAt := rfl
@[simp] theorem Task.awake_yield (t : Task) : (t.awake).yield = t.yield := rfl
@[simp] theorem Task.awake_itemAt (t : Task) : (t.awake).itemAt = t.itemAt := rfl
@[simp] theorem Task.awake_restored (t : Task) : (t.awake).restored = t.restored := rfl

@[simp] theorem Task.wlc_id (t : Task) (n : Nat) (v : Word) : (t.wlc n v).id = t.id := rfl
@[simp] theorem Task.wlc_vf (t : Task) (n : Nat) (v : Word) : (t.wlc n v).vf = t.vf := rfl
@[simp] theorem Task.wlc_launch (t : Task) (n : Nat) (v : Word) : (t.wlc n v).launch = t.launch := rfl
@[simp] theorem Task.wlc_stage (t : Task) (n : Nat) (v : Word) : (t.wlc n v).stage = t.stage := rfl
@[simp] theorem Task.wlc_out (t : Task) (n : Nat) (v : Word) : (t.wlc n v).out = t.out := rfl
@[simp] theorem Task.wlc_sup (t : Task) (n : Nat) (v : Word) : (t.wlc n v).sup = t.sup := rfl
@[simp] theorem Task.wlc_hive (t : Task) (n : Nat) (v : Word) : (t.wlc n v).hive = t.hive := rfl
@[simp] theorem Task.wlc_vlc (t : Task) (n : Nat) (v : Word) : (t.wlc n v).vlc = t.vlc := rfl
@[simp] theorem Task.wlc_firstComb (t : Task) (n : Nat) (v : Word) : (t.wlc n v).firstComb = t.firstComb := rfl
@[simp] theorem Task.wlc_combs (t : Task) (n : Nat) (v : Word) : (t.wlc n v).combs = t.combs := rfl
@[simp] theorem Task.wlc_live (t : Task) (n : Nat) (v : Word) : (t.wlc n v).live = t.live := rfl
@[simp] theorem Task.wlc_slot (t : Task) (n : Nat) (v : Word) : (t.wlc n v).slot = t.slot := rfl
@[simp] theorem Task.wlc_place (t : Task) (n : Nat) (v : Word) : (t.wlc n v).place = t.place := rfl
@[simp] theorem Task.wlc_cleared (t : Task) (n : Nat) (v : Word) : (t.wlc n v).cleared = t.cleared := rfl
@[simp] theorem Task.wlc_pc (t : Task) (n : Nat) (v : Word) : (t.wlc n v).pc = t.pc := rfl
@[simp] theorem Task.wlc_s (t : Task) (n : Nat) (v : Word) : (t.wlc n v).s = t.s := rfl
@[simp] theorem Task.wlc_q (t : Task) (n : Nat) (v : Word) : (t.wlc n v).q = t.q := rfl
@[simp] theorem Task.wlc_avl (t : Task) (n : Nat) (v : Word) : (t.wlc n v).avl = t.avl := rfl
@[simp] theorem Task.wlc_strip (t : Task) (n : Nat) (v : Word) : (t.wlc n v).strip = t.strip := rfl
@[simp] theorem Task.wlc_vstart (t : Task) (n : Nat) (v : Word) : (t.wlc n v).vstart = t.vstart := rfl
@[simp] theorem Task.wlc_sfill (t : Task) (n : Nat) (v : Word) : (t.wlc n v).sfill = t.sfill := rfl
@[simp] theorem Task.wlc_rngb (t : Task) (n : Nat) (v : Word) : (t.wlc n v).rngb = t.rngb := rfl
@[simp] theorem Task.wlc_fflags (t : Task) (n : Nat) (v : Word) : (t.wlc n v).fflags = t.fflags := rfl
@[simp] theorem Task.wlc_loops (t : Task) (n : Nat) (v : Word) : (t.wlc n v).loops = t.loops := rfl
@[simp] theorem Task.wlc_sen (t : Task) (n : Nat) (v : Word) : (t.wlc n v).sen = t.sen := rfl
@[simp] theorem Task.wlc_slc (t : Task) (n : Nat) (v : Word) : (t.wlc n v).slc = t.slc := rfl
@[simp] theorem Task.wlc_lbuf (t : Task) (n : Nat) (v : Word) : (t.wlc n v).lbuf = t.lbuf := rfl
@[simp] theorem Task.wlc_lbad (t : Task) (n : Nat) (v : Word) : (t.wlc n v).lbad = t.lbad := rfl
@[simp] theorem Task.wlc_tvec (t : Task) (n : Nat) (v : Word) : (t.wlc n v).tvec = t.tvec := rfl
@[simp] theorem Task.wlc_tcauseVs (t : Task) (n : Nat) (v : Word) : (t.wlc n v).tcauseVs = t.tcauseVs := rfl
@[simp] theorem Task.wlc_tcauseCode (t : Task) (n : Nat) (v : Word) : (t.wlc n v).tcauseCode = t.tcauseCode := rfl
@[simp] theorem Task.wlc_tval (t : Task) (n : Nat) (v : Word) : (t.wlc n v).tval = t.tval := rfl
@[simp] theorem Task.wlc_tepc (t : Task) (n : Nat) (v : Word) : (t.wlc n v).tepc = t.tepc := rfl
@[simp] theorem Task.wlc_tin (t : Task) (n : Nat) (v : Word) : (t.wlc n v).tin = t.tin := rfl
@[simp] theorem Task.wlc_tnote (t : Task) (n : Nat) (v : Word) : (t.wlc n v).tnote = t.tnote := rfl
@[simp] theorem Task.wlc_tptrap (t : Task) (n : Nat) (v : Word) : (t.wlc n v).tptrap = t.tptrap := rfl
@[simp] theorem Task.wlc_ix (t : Task) (n : Nat) (v : Word) : (t.wlc n v).ix = t.ix := rfl
@[simp] theorem Task.wlc_tqueue (t : Task) (n : Nat) (v : Word) : (t.wlc n v).tqueue = t.tqueue := rfl
@[simp] theorem Task.wlc_tlaunch (t : Task) (n : Nat) (v : Word) : (t.wlc n v).tlaunch = t.tlaunch := rfl
@[simp] theorem Task.wlc_tseq (t : Task) (n : Nat) (v : Word) : (t.wlc n v).tseq = t.tseq := rfl
@[simp] theorem Task.wlc_chiprank (t : Task) (n : Nat) (v : Word) : (t.wlc n v).chiprank = t.chiprank := rfl
@[simp] theorem Task.wlc_ocld (t : Task) (n : Nat) (v : Word) : (t.wlc n v).ocld = t.ocld := rfl
@[simp] theorem Task.wlc_ocst (t : Task) (n : Nat) (v : Word) : (t.wlc n v).ocst = t.ocst := rfl
@[simp] theorem Task.wlc_occp (t : Task) (n : Nat) (v : Word) : (t.wlc n v).occp = t.occp := rfl
@[simp] theorem Task.wlc_ocmx (t : Task) (n : Nat) (v : Word) : (t.wlc n v).ocmx = t.ocmx := rfl
@[simp] theorem Task.wlc_cols (t : Task) (n : Nat) (v : Word) : (t.wlc n v).cols = t.cols := rfl
@[simp] theorem Task.wlc_par (t : Task) (n : Nat) (v : Word) : (t.wlc n v).par = t.par := rfl
@[simp] theorem Task.wlc_tags (t : Task) (n : Nat) (v : Word) : (t.wlc n v).tags = t.tags := rfl
@[simp] theorem Task.wlc_linear (t : Task) (n : Nat) (v : Word) : (t.wlc n v).linear = t.linear := rfl
@[simp] theorem Task.wlc_heldSwitch (t : Task) (n : Nat) (v : Word) : (t.wlc n v).heldSwitch = t.heldSwitch := rfl
@[simp] theorem Task.wlc_lease (t : Task) (n : Nat) (v : Word) : (t.wlc n v).lease = t.lease := rfl
@[simp] theorem Task.wlc_regs (t : Task) (n : Nat) (v : Word) : (t.wlc n v).regs = t.regs := rfl
@[simp] theorem Task.wlc_resume (t : Task) (n : Nat) (v : Word) : (t.wlc n v).resume = t.resume := rfl
@[simp] theorem Task.wlc_mx (t : Task) (n : Nat) (v : Word) : (t.wlc n v).mx = t.mx := rfl
@[simp] theorem Task.wlc_fq (t : Task) (n : Nat) (v : Word) : (t.wlc n v).fq = t.fq := rfl
@[simp] theorem Task.wlc_defer (t : Task) (n : Nat) (v : Word) : (t.wlc n v).defer = t.defer := rfl
@[simp] theorem Task.wlc_paths (t : Task) (n : Nat) (v : Word) : (t.wlc n v).paths = t.paths := rfl
@[simp] theorem Task.wlc_stores (t : Task) (n : Nat) (v : Word) : (t.wlc n v).stores = t.stores := rfl
@[simp] theorem Task.wlc_vld (t : Task) (n : Nat) (v : Word) : (t.wlc n v).vld = t.vld := rfl
@[simp] theorem Task.wlc_vst (t : Task) (n : Nat) (v : Word) : (t.wlc n v).vst = t.vst := rfl
@[simp] theorem Task.wlc_pend (t : Task) (n : Nat) (v : Word) : (t.wlc n v).pend = t.pend := rfl
@[simp] theorem Task.wlc_dues (t : Task) (n : Nat) (v : Word) : (t.wlc n v).dues = t.dues := rfl
@[simp] theorem Task.wlc_dueFlags (t : Task) (n : Nat) (v : Word) : (t.wlc n v).dueFlags = t.dueFlags := rfl
@[simp] theorem Task.wlc_latePulses (t : Task) (n : Nat) (v : Word) : (t.wlc n v).latePulses = t.latePulses := rfl
@[simp] theorem Task.wlc_lateDone (t : Task) (n : Nat) (v : Word) : (t.wlc n v).lateDone = t.lateDone := rfl
@[simp] theorem Task.wlc_combpar (t : Task) (n : Nat) (v : Word) : (t.wlc n v).combpar = t.combpar := rfl
@[simp] theorem Task.wlc_wait (t : Task) (n : Nat) (v : Word) : (t.wlc n v).wait = t.wait := rfl
@[simp] theorem Task.wlc_stallSince (t : Task) (n : Nat) (v : Word) : (t.wlc n v).stallSince = t.stallSince := rfl
@[simp] theorem Task.wlc_stop (t : Task) (n : Nat) (v : Word) : (t.wlc n v).stop = t.stop := rfl
@[simp] theorem Task.wlc_stopAt (t : Task) (n : Nat) (v : Word) : (t.wlc n v).stopAt = t.stopAt := rfl
@[simp] theorem Task.wlc_yield (t : Task) (n : Nat) (v : Word) : (t.wlc n v).yield = t.yield := rfl
@[simp] theorem Task.wlc_itemAt (t : Task) (n : Nat) (v : Word) : (t.wlc n v).itemAt = t.itemAt := rfl
@[simp] theorem Task.wlc_restored (t : Task) (n : Nat) (v : Word) : (t.wlc n v).restored = t.restored := rfl

@[simp] theorem Task.ws_id (t : Task) (n : Nat) (v : Word) : (t.ws n v).id = t.id := by unfold Task.ws; split <;> rfl
@[simp] theorem Task.ws_vf (t : Task) (n : Nat) (v : Word) : (t.ws n v).vf = t.vf := by unfold Task.ws; split <;> rfl
@[simp] theorem Task.ws_launch (t : Task) (n : Nat) (v : Word) : (t.ws n v).launch = t.launch := by unfold Task.ws; split <;> rfl
@[simp] theorem Task.ws_stage (t : Task) (n : Nat) (v : Word) : (t.ws n v).stage = t.stage := by unfold Task.ws; split <;> rfl
@[simp] theorem Task.ws_out (t : Task) (n : Nat) (v : Word) : (t.ws n v).out = t.out := by unfold Task.ws; split <;> rfl
@[simp] theorem Task.ws_sup (t : Task) (n : Nat) (v : Word) : (t.ws n v).sup = t.sup := by unfold Task.ws; split <;> rfl
@[simp] theorem Task.ws_hive (t : Task) (n : Nat) (v : Word) : (t.ws n v).hive = t.hive := by unfold Task.ws; split <;> rfl
@[simp] theorem Task.ws_vlc (t : Task) (n : Nat) (v : Word) : (t.ws n v).vlc = t.vlc := by unfold Task.ws; split <;> rfl
@[simp] theorem Task.ws_firstComb (t : Task) (n : Nat) (v : Word) : (t.ws n v).firstComb = t.firstComb := by unfold Task.ws; split <;> rfl
@[simp] theorem Task.ws_combs (t : Task) (n : Nat) (v : Word) : (t.ws n v).combs = t.combs := by unfold Task.ws; split <;> rfl
@[simp] theorem Task.ws_live (t : Task) (n : Nat) (v : Word) : (t.ws n v).live = t.live := by unfold Task.ws; split <;> rfl
@[simp] theorem Task.ws_slot (t : Task) (n : Nat) (v : Word) : (t.ws n v).slot = t.slot := by unfold Task.ws; split <;> rfl
@[simp] theorem Task.ws_place (t : Task) (n : Nat) (v : Word) : (t.ws n v).place = t.place := by unfold Task.ws; split <;> rfl
@[simp] theorem Task.ws_cleared (t : Task) (n : Nat) (v : Word) : (t.ws n v).cleared = t.cleared := by unfold Task.ws; split <;> rfl
@[simp] theorem Task.ws_pc (t : Task) (n : Nat) (v : Word) : (t.ws n v).pc = t.pc := by unfold Task.ws; split <;> rfl
@[simp] theorem Task.ws_q (t : Task) (n : Nat) (v : Word) : (t.ws n v).q = t.q := by unfold Task.ws; split <;> rfl
@[simp] theorem Task.ws_avl (t : Task) (n : Nat) (v : Word) : (t.ws n v).avl = t.avl := by unfold Task.ws; split <;> rfl
@[simp] theorem Task.ws_strip (t : Task) (n : Nat) (v : Word) : (t.ws n v).strip = t.strip := by unfold Task.ws; split <;> rfl
@[simp] theorem Task.ws_vstart (t : Task) (n : Nat) (v : Word) : (t.ws n v).vstart = t.vstart := by unfold Task.ws; split <;> rfl
@[simp] theorem Task.ws_sfill (t : Task) (n : Nat) (v : Word) : (t.ws n v).sfill = t.sfill := by unfold Task.ws; split <;> rfl
@[simp] theorem Task.ws_rngb (t : Task) (n : Nat) (v : Word) : (t.ws n v).rngb = t.rngb := by unfold Task.ws; split <;> rfl
@[simp] theorem Task.ws_fflags (t : Task) (n : Nat) (v : Word) : (t.ws n v).fflags = t.fflags := by unfold Task.ws; split <;> rfl
@[simp] theorem Task.ws_lc (t : Task) (n : Nat) (v : Word) : (t.ws n v).lc = t.lc := by unfold Task.ws; split <;> rfl
@[simp] theorem Task.ws_loops (t : Task) (n : Nat) (v : Word) : (t.ws n v).loops = t.loops := by unfold Task.ws; split <;> rfl
@[simp] theorem Task.ws_sen (t : Task) (n : Nat) (v : Word) : (t.ws n v).sen = t.sen := by unfold Task.ws; split <;> rfl
@[simp] theorem Task.ws_slc (t : Task) (n : Nat) (v : Word) : (t.ws n v).slc = t.slc := by unfold Task.ws; split <;> rfl
@[simp] theorem Task.ws_lbuf (t : Task) (n : Nat) (v : Word) : (t.ws n v).lbuf = t.lbuf := by unfold Task.ws; split <;> rfl
@[simp] theorem Task.ws_lbad (t : Task) (n : Nat) (v : Word) : (t.ws n v).lbad = t.lbad := by unfold Task.ws; split <;> rfl
@[simp] theorem Task.ws_tvec (t : Task) (n : Nat) (v : Word) : (t.ws n v).tvec = t.tvec := by unfold Task.ws; split <;> rfl
@[simp] theorem Task.ws_tcauseVs (t : Task) (n : Nat) (v : Word) : (t.ws n v).tcauseVs = t.tcauseVs := by unfold Task.ws; split <;> rfl
@[simp] theorem Task.ws_tcauseCode (t : Task) (n : Nat) (v : Word) : (t.ws n v).tcauseCode = t.tcauseCode := by unfold Task.ws; split <;> rfl
@[simp] theorem Task.ws_tval (t : Task) (n : Nat) (v : Word) : (t.ws n v).tval = t.tval := by unfold Task.ws; split <;> rfl
@[simp] theorem Task.ws_tepc (t : Task) (n : Nat) (v : Word) : (t.ws n v).tepc = t.tepc := by unfold Task.ws; split <;> rfl
@[simp] theorem Task.ws_tin (t : Task) (n : Nat) (v : Word) : (t.ws n v).tin = t.tin := by unfold Task.ws; split <;> rfl
@[simp] theorem Task.ws_tnote (t : Task) (n : Nat) (v : Word) : (t.ws n v).tnote = t.tnote := by unfold Task.ws; split <;> rfl
@[simp] theorem Task.ws_tptrap (t : Task) (n : Nat) (v : Word) : (t.ws n v).tptrap = t.tptrap := by unfold Task.ws; split <;> rfl
@[simp] theorem Task.ws_ix (t : Task) (n : Nat) (v : Word) : (t.ws n v).ix = t.ix := by unfold Task.ws; split <;> rfl
@[simp] theorem Task.ws_tqueue (t : Task) (n : Nat) (v : Word) : (t.ws n v).tqueue = t.tqueue := by unfold Task.ws; split <;> rfl
@[simp] theorem Task.ws_tlaunch (t : Task) (n : Nat) (v : Word) : (t.ws n v).tlaunch = t.tlaunch := by unfold Task.ws; split <;> rfl
@[simp] theorem Task.ws_tseq (t : Task) (n : Nat) (v : Word) : (t.ws n v).tseq = t.tseq := by unfold Task.ws; split <;> rfl
@[simp] theorem Task.ws_chiprank (t : Task) (n : Nat) (v : Word) : (t.ws n v).chiprank = t.chiprank := by unfold Task.ws; split <;> rfl
@[simp] theorem Task.ws_ocld (t : Task) (n : Nat) (v : Word) : (t.ws n v).ocld = t.ocld := by unfold Task.ws; split <;> rfl
@[simp] theorem Task.ws_ocst (t : Task) (n : Nat) (v : Word) : (t.ws n v).ocst = t.ocst := by unfold Task.ws; split <;> rfl
@[simp] theorem Task.ws_occp (t : Task) (n : Nat) (v : Word) : (t.ws n v).occp = t.occp := by unfold Task.ws; split <;> rfl
@[simp] theorem Task.ws_ocmx (t : Task) (n : Nat) (v : Word) : (t.ws n v).ocmx = t.ocmx := by unfold Task.ws; split <;> rfl
@[simp] theorem Task.ws_cols (t : Task) (n : Nat) (v : Word) : (t.ws n v).cols = t.cols := by unfold Task.ws; split <;> rfl
@[simp] theorem Task.ws_par (t : Task) (n : Nat) (v : Word) : (t.ws n v).par = t.par := by unfold Task.ws; split <;> rfl
@[simp] theorem Task.ws_tags (t : Task) (n : Nat) (v : Word) : (t.ws n v).tags = t.tags := by unfold Task.ws; split <;> rfl
@[simp] theorem Task.ws_linear (t : Task) (n : Nat) (v : Word) : (t.ws n v).linear = t.linear := by unfold Task.ws; split <;> rfl
@[simp] theorem Task.ws_heldSwitch (t : Task) (n : Nat) (v : Word) : (t.ws n v).heldSwitch = t.heldSwitch := by unfold Task.ws; split <;> rfl
@[simp] theorem Task.ws_lease (t : Task) (n : Nat) (v : Word) : (t.ws n v).lease = t.lease := by unfold Task.ws; split <;> rfl
@[simp] theorem Task.ws_regs (t : Task) (n : Nat) (v : Word) : (t.ws n v).regs = t.regs := by unfold Task.ws; split <;> rfl
@[simp] theorem Task.ws_resume (t : Task) (n : Nat) (v : Word) : (t.ws n v).resume = t.resume := by unfold Task.ws; split <;> rfl
@[simp] theorem Task.ws_mx (t : Task) (n : Nat) (v : Word) : (t.ws n v).mx = t.mx := by unfold Task.ws; split <;> rfl
@[simp] theorem Task.ws_fq (t : Task) (n : Nat) (v : Word) : (t.ws n v).fq = t.fq := by unfold Task.ws; split <;> rfl
@[simp] theorem Task.ws_defer (t : Task) (n : Nat) (v : Word) : (t.ws n v).defer = t.defer := by unfold Task.ws; split <;> rfl
@[simp] theorem Task.ws_paths (t : Task) (n : Nat) (v : Word) : (t.ws n v).paths = t.paths := by unfold Task.ws; split <;> rfl
@[simp] theorem Task.ws_stores (t : Task) (n : Nat) (v : Word) : (t.ws n v).stores = t.stores := by unfold Task.ws; split <;> rfl
@[simp] theorem Task.ws_vld (t : Task) (n : Nat) (v : Word) : (t.ws n v).vld = t.vld := by unfold Task.ws; split <;> rfl
@[simp] theorem Task.ws_vst (t : Task) (n : Nat) (v : Word) : (t.ws n v).vst = t.vst := by unfold Task.ws; split <;> rfl
@[simp] theorem Task.ws_pend (t : Task) (n : Nat) (v : Word) : (t.ws n v).pend = t.pend := by unfold Task.ws; split <;> rfl
@[simp] theorem Task.ws_dues (t : Task) (n : Nat) (v : Word) : (t.ws n v).dues = t.dues := by unfold Task.ws; split <;> rfl
@[simp] theorem Task.ws_dueFlags (t : Task) (n : Nat) (v : Word) : (t.ws n v).dueFlags = t.dueFlags := by unfold Task.ws; split <;> rfl
@[simp] theorem Task.ws_latePulses (t : Task) (n : Nat) (v : Word) : (t.ws n v).latePulses = t.latePulses := by unfold Task.ws; split <;> rfl
@[simp] theorem Task.ws_lateDone (t : Task) (n : Nat) (v : Word) : (t.ws n v).lateDone = t.lateDone := by unfold Task.ws; split <;> rfl
@[simp] theorem Task.ws_combpar (t : Task) (n : Nat) (v : Word) : (t.ws n v).combpar = t.combpar := by unfold Task.ws; split <;> rfl
@[simp] theorem Task.ws_wait (t : Task) (n : Nat) (v : Word) : (t.ws n v).wait = t.wait := by unfold Task.ws; split <;> rfl
@[simp] theorem Task.ws_stallSince (t : Task) (n : Nat) (v : Word) : (t.ws n v).stallSince = t.stallSince := by unfold Task.ws; split <;> rfl
@[simp] theorem Task.ws_stop (t : Task) (n : Nat) (v : Word) : (t.ws n v).stop = t.stop := by unfold Task.ws; split <;> rfl
@[simp] theorem Task.ws_stopAt (t : Task) (n : Nat) (v : Word) : (t.ws n v).stopAt = t.stopAt := by unfold Task.ws; split <;> rfl
@[simp] theorem Task.ws_yield (t : Task) (n : Nat) (v : Word) : (t.ws n v).yield = t.yield := by unfold Task.ws; split <;> rfl
@[simp] theorem Task.ws_itemAt (t : Task) (n : Nat) (v : Word) : (t.ws n v).itemAt = t.itemAt := by unfold Task.ws; split <;> rfl
@[simp] theorem Task.ws_restored (t : Task) (n : Nat) (v : Word) : (t.ws n v).restored = t.restored := by unfold Task.ws; split <;> rfl

@[simp] theorem Task.wq_id (t : Task) (n : Nat) (v : Bool) : (t.wq n v).id = t.id := by unfold Task.wq; split <;> rfl
@[simp] theorem Task.wq_vf (t : Task) (n : Nat) (v : Bool) : (t.wq n v).vf = t.vf := by unfold Task.wq; split <;> rfl
@[simp] theorem Task.wq_launch (t : Task) (n : Nat) (v : Bool) : (t.wq n v).launch = t.launch := by unfold Task.wq; split <;> rfl
@[simp] theorem Task.wq_stage (t : Task) (n : Nat) (v : Bool) : (t.wq n v).stage = t.stage := by unfold Task.wq; split <;> rfl
@[simp] theorem Task.wq_out (t : Task) (n : Nat) (v : Bool) : (t.wq n v).out = t.out := by unfold Task.wq; split <;> rfl
@[simp] theorem Task.wq_sup (t : Task) (n : Nat) (v : Bool) : (t.wq n v).sup = t.sup := by unfold Task.wq; split <;> rfl
@[simp] theorem Task.wq_hive (t : Task) (n : Nat) (v : Bool) : (t.wq n v).hive = t.hive := by unfold Task.wq; split <;> rfl
@[simp] theorem Task.wq_vlc (t : Task) (n : Nat) (v : Bool) : (t.wq n v).vlc = t.vlc := by unfold Task.wq; split <;> rfl
@[simp] theorem Task.wq_firstComb (t : Task) (n : Nat) (v : Bool) : (t.wq n v).firstComb = t.firstComb := by unfold Task.wq; split <;> rfl
@[simp] theorem Task.wq_combs (t : Task) (n : Nat) (v : Bool) : (t.wq n v).combs = t.combs := by unfold Task.wq; split <;> rfl
@[simp] theorem Task.wq_live (t : Task) (n : Nat) (v : Bool) : (t.wq n v).live = t.live := by unfold Task.wq; split <;> rfl
@[simp] theorem Task.wq_slot (t : Task) (n : Nat) (v : Bool) : (t.wq n v).slot = t.slot := by unfold Task.wq; split <;> rfl
@[simp] theorem Task.wq_place (t : Task) (n : Nat) (v : Bool) : (t.wq n v).place = t.place := by unfold Task.wq; split <;> rfl
@[simp] theorem Task.wq_cleared (t : Task) (n : Nat) (v : Bool) : (t.wq n v).cleared = t.cleared := by unfold Task.wq; split <;> rfl
@[simp] theorem Task.wq_pc (t : Task) (n : Nat) (v : Bool) : (t.wq n v).pc = t.pc := by unfold Task.wq; split <;> rfl
@[simp] theorem Task.wq_s (t : Task) (n : Nat) (v : Bool) : (t.wq n v).s = t.s := by unfold Task.wq; split <;> rfl
@[simp] theorem Task.wq_avl (t : Task) (n : Nat) (v : Bool) : (t.wq n v).avl = t.avl := by unfold Task.wq; split <;> rfl
@[simp] theorem Task.wq_strip (t : Task) (n : Nat) (v : Bool) : (t.wq n v).strip = t.strip := by unfold Task.wq; split <;> rfl
@[simp] theorem Task.wq_vstart (t : Task) (n : Nat) (v : Bool) : (t.wq n v).vstart = t.vstart := by unfold Task.wq; split <;> rfl
@[simp] theorem Task.wq_sfill (t : Task) (n : Nat) (v : Bool) : (t.wq n v).sfill = t.sfill := by unfold Task.wq; split <;> rfl
@[simp] theorem Task.wq_rngb (t : Task) (n : Nat) (v : Bool) : (t.wq n v).rngb = t.rngb := by unfold Task.wq; split <;> rfl
@[simp] theorem Task.wq_fflags (t : Task) (n : Nat) (v : Bool) : (t.wq n v).fflags = t.fflags := by unfold Task.wq; split <;> rfl
@[simp] theorem Task.wq_lc (t : Task) (n : Nat) (v : Bool) : (t.wq n v).lc = t.lc := by unfold Task.wq; split <;> rfl
@[simp] theorem Task.wq_loops (t : Task) (n : Nat) (v : Bool) : (t.wq n v).loops = t.loops := by unfold Task.wq; split <;> rfl
@[simp] theorem Task.wq_sen (t : Task) (n : Nat) (v : Bool) : (t.wq n v).sen = t.sen := by unfold Task.wq; split <;> rfl
@[simp] theorem Task.wq_slc (t : Task) (n : Nat) (v : Bool) : (t.wq n v).slc = t.slc := by unfold Task.wq; split <;> rfl
@[simp] theorem Task.wq_lbuf (t : Task) (n : Nat) (v : Bool) : (t.wq n v).lbuf = t.lbuf := by unfold Task.wq; split <;> rfl
@[simp] theorem Task.wq_lbad (t : Task) (n : Nat) (v : Bool) : (t.wq n v).lbad = t.lbad := by unfold Task.wq; split <;> rfl
@[simp] theorem Task.wq_tvec (t : Task) (n : Nat) (v : Bool) : (t.wq n v).tvec = t.tvec := by unfold Task.wq; split <;> rfl
@[simp] theorem Task.wq_tcauseVs (t : Task) (n : Nat) (v : Bool) : (t.wq n v).tcauseVs = t.tcauseVs := by unfold Task.wq; split <;> rfl
@[simp] theorem Task.wq_tcauseCode (t : Task) (n : Nat) (v : Bool) : (t.wq n v).tcauseCode = t.tcauseCode := by unfold Task.wq; split <;> rfl
@[simp] theorem Task.wq_tval (t : Task) (n : Nat) (v : Bool) : (t.wq n v).tval = t.tval := by unfold Task.wq; split <;> rfl
@[simp] theorem Task.wq_tepc (t : Task) (n : Nat) (v : Bool) : (t.wq n v).tepc = t.tepc := by unfold Task.wq; split <;> rfl
@[simp] theorem Task.wq_tin (t : Task) (n : Nat) (v : Bool) : (t.wq n v).tin = t.tin := by unfold Task.wq; split <;> rfl
@[simp] theorem Task.wq_tnote (t : Task) (n : Nat) (v : Bool) : (t.wq n v).tnote = t.tnote := by unfold Task.wq; split <;> rfl
@[simp] theorem Task.wq_tptrap (t : Task) (n : Nat) (v : Bool) : (t.wq n v).tptrap = t.tptrap := by unfold Task.wq; split <;> rfl
@[simp] theorem Task.wq_ix (t : Task) (n : Nat) (v : Bool) : (t.wq n v).ix = t.ix := by unfold Task.wq; split <;> rfl
@[simp] theorem Task.wq_tqueue (t : Task) (n : Nat) (v : Bool) : (t.wq n v).tqueue = t.tqueue := by unfold Task.wq; split <;> rfl
@[simp] theorem Task.wq_tlaunch (t : Task) (n : Nat) (v : Bool) : (t.wq n v).tlaunch = t.tlaunch := by unfold Task.wq; split <;> rfl
@[simp] theorem Task.wq_tseq (t : Task) (n : Nat) (v : Bool) : (t.wq n v).tseq = t.tseq := by unfold Task.wq; split <;> rfl
@[simp] theorem Task.wq_chiprank (t : Task) (n : Nat) (v : Bool) : (t.wq n v).chiprank = t.chiprank := by unfold Task.wq; split <;> rfl
@[simp] theorem Task.wq_ocld (t : Task) (n : Nat) (v : Bool) : (t.wq n v).ocld = t.ocld := by unfold Task.wq; split <;> rfl
@[simp] theorem Task.wq_ocst (t : Task) (n : Nat) (v : Bool) : (t.wq n v).ocst = t.ocst := by unfold Task.wq; split <;> rfl
@[simp] theorem Task.wq_occp (t : Task) (n : Nat) (v : Bool) : (t.wq n v).occp = t.occp := by unfold Task.wq; split <;> rfl
@[simp] theorem Task.wq_ocmx (t : Task) (n : Nat) (v : Bool) : (t.wq n v).ocmx = t.ocmx := by unfold Task.wq; split <;> rfl
@[simp] theorem Task.wq_cols (t : Task) (n : Nat) (v : Bool) : (t.wq n v).cols = t.cols := by unfold Task.wq; split <;> rfl
@[simp] theorem Task.wq_par (t : Task) (n : Nat) (v : Bool) : (t.wq n v).par = t.par := by unfold Task.wq; split <;> rfl
@[simp] theorem Task.wq_tags (t : Task) (n : Nat) (v : Bool) : (t.wq n v).tags = t.tags := by unfold Task.wq; split <;> rfl
@[simp] theorem Task.wq_linear (t : Task) (n : Nat) (v : Bool) : (t.wq n v).linear = t.linear := by unfold Task.wq; split <;> rfl
@[simp] theorem Task.wq_heldSwitch (t : Task) (n : Nat) (v : Bool) : (t.wq n v).heldSwitch = t.heldSwitch := by unfold Task.wq; split <;> rfl
@[simp] theorem Task.wq_lease (t : Task) (n : Nat) (v : Bool) : (t.wq n v).lease = t.lease := by unfold Task.wq; split <;> rfl
@[simp] theorem Task.wq_regs (t : Task) (n : Nat) (v : Bool) : (t.wq n v).regs = t.regs := by unfold Task.wq; split <;> rfl
@[simp] theorem Task.wq_resume (t : Task) (n : Nat) (v : Bool) : (t.wq n v).resume = t.resume := by unfold Task.wq; split <;> rfl
@[simp] theorem Task.wq_mx (t : Task) (n : Nat) (v : Bool) : (t.wq n v).mx = t.mx := by unfold Task.wq; split <;> rfl
@[simp] theorem Task.wq_fq (t : Task) (n : Nat) (v : Bool) : (t.wq n v).fq = t.fq := by unfold Task.wq; split <;> rfl
@[simp] theorem Task.wq_defer (t : Task) (n : Nat) (v : Bool) : (t.wq n v).defer = t.defer := by unfold Task.wq; split <;> rfl
@[simp] theorem Task.wq_paths (t : Task) (n : Nat) (v : Bool) : (t.wq n v).paths = t.paths := by unfold Task.wq; split <;> rfl
@[simp] theorem Task.wq_stores (t : Task) (n : Nat) (v : Bool) : (t.wq n v).stores = t.stores := by unfold Task.wq; split <;> rfl
@[simp] theorem Task.wq_vld (t : Task) (n : Nat) (v : Bool) : (t.wq n v).vld = t.vld := by unfold Task.wq; split <;> rfl
@[simp] theorem Task.wq_vst (t : Task) (n : Nat) (v : Bool) : (t.wq n v).vst = t.vst := by unfold Task.wq; split <;> rfl
@[simp] theorem Task.wq_pend (t : Task) (n : Nat) (v : Bool) : (t.wq n v).pend = t.pend := by unfold Task.wq; split <;> rfl
@[simp] theorem Task.wq_dues (t : Task) (n : Nat) (v : Bool) : (t.wq n v).dues = t.dues := by unfold Task.wq; split <;> rfl
@[simp] theorem Task.wq_dueFlags (t : Task) (n : Nat) (v : Bool) : (t.wq n v).dueFlags = t.dueFlags := by unfold Task.wq; split <;> rfl
@[simp] theorem Task.wq_latePulses (t : Task) (n : Nat) (v : Bool) : (t.wq n v).latePulses = t.latePulses := by unfold Task.wq; split <;> rfl
@[simp] theorem Task.wq_lateDone (t : Task) (n : Nat) (v : Bool) : (t.wq n v).lateDone = t.lateDone := by unfold Task.wq; split <;> rfl
@[simp] theorem Task.wq_combpar (t : Task) (n : Nat) (v : Bool) : (t.wq n v).combpar = t.combpar := by unfold Task.wq; split <;> rfl
@[simp] theorem Task.wq_wait (t : Task) (n : Nat) (v : Bool) : (t.wq n v).wait = t.wait := by unfold Task.wq; split <;> rfl
@[simp] theorem Task.wq_stallSince (t : Task) (n : Nat) (v : Bool) : (t.wq n v).stallSince = t.stallSince := by unfold Task.wq; split <;> rfl
@[simp] theorem Task.wq_stop (t : Task) (n : Nat) (v : Bool) : (t.wq n v).stop = t.stop := by unfold Task.wq; split <;> rfl
@[simp] theorem Task.wq_stopAt (t : Task) (n : Nat) (v : Bool) : (t.wq n v).stopAt = t.stopAt := by unfold Task.wq; split <;> rfl
@[simp] theorem Task.wq_yield (t : Task) (n : Nat) (v : Bool) : (t.wq n v).yield = t.yield := by unfold Task.wq; split <;> rfl
@[simp] theorem Task.wq_itemAt (t : Task) (n : Nat) (v : Bool) : (t.wq n v).itemAt = t.itemAt := by unfold Task.wq; split <;> rfl
@[simp] theorem Task.wq_restored (t : Task) (n : Nat) (v : Bool) : (t.wq n v).restored = t.restored := by unfold Task.wq; split <;> rfl

/-! ## Reading back -/

@[simp] theorem Task.awake_wait (t : Task) : t.awake.wait = none := rfl
@[simp] theorem Task.awake_stallSince (t : Task) : t.awake.stallSince = none := rfl
@[simp] theorem Task.awake_awake (t : Task) : t.awake.awake = t.awake := rfl

/-- A task in a list of which one task is replaced by another with its identity. -/
theorem find_replaced (l : List Task) (t : Task) (id : Nat) :
    (l.map fun u => if u.id == t.id then t else u).find? (·.id == id) =
      if t.id = id then (l.find? (·.id == id)).map fun _ => t else l.find? (·.id == id) := by
  induction l with
  | nil => simp only [List.map_nil, List.find?_nil, Option.map_none, ite_self]
  | cons a l ih =>
    rw [List.map_cons, List.find?_cons, List.find?_cons, ih]
    by_cases h : a.id = t.id
    · rw [h, if_pos (beq_self_eq_true _)]
      by_cases k : t.id = id
      · subst k; simp only [beq_self_eq_true, if_true, Option.map_some]
      · rw [beq_eq_false_iff_ne.mpr k, if_neg k]
    · rw [if_neg (by simpa using h)]
      by_cases m : a.id = id
      · have k : ¬t.id = id := fun k => h (m.trans k.symm)
        rw [if_neg k, if_neg k]
      · rw [beq_eq_false_iff_ne.mpr m]

theorem State.task?_setTask (s : State) (t : Task) (id : Nat) :
    (s.setTask t).task? id = if t.id = id then (s.task? id).map fun _ => t else s.task? id := find_replaced s.tasks t id

theorem State.task?_id {s : State} {id : Nat} {t : Task} (h : s.task? id = some t) : t.id = id := by
  simpa using List.find?_some h

theorem State.task?_setTask_same {s : State} {id : Nat} {t u : Task} (h : s.task? id = some t) (hu : u.id = id) :
    (s.setTask u).task? id = some u := by rw [State.task?_setTask, if_pos hu, h]; rfl

theorem State.curTask_cur {s : State} {t : Task} (h : s.curTask = some t) : s.cur = some t.id ∧ s.task? t.id = some t := by
  unfold State.curTask at h
  cases hc : s.cur with
  | none => simp [hc] at h
  | some k =>
    rw [hc] at h
    have h' : s.task? k = some t := h
    have := State.task?_id h'
    subst this
    exact ⟨rfl, h'⟩

theorem State.curTask_of {s : State} {t : Task} {id : Nat} (hc : s.cur = some id) (h : s.task? id = some t) :
    s.curTask = some t := by unfold State.curTask; rw [hc]; exact h

/-- The current task, once its record is replaced. -/
theorem State.curTask_setTask {s : State} {t u : Task} (h : s.curTask = some t) (hu : u.id = t.id) :
    (s.setTask u).curTask = some u := by
  obtain ⟨hc, ht⟩ := State.curTask_cur h
  exact State.curTask_of (id := t.id) (by simpa using hc) (State.task?_setTask_same ht hu)

/-- Of two replacements of one task the later stands. -/
theorem State.setTask_setTask (s : State) {t u : Task} (h : t.id = u.id) : (s.setTask t).setTask u = s.setTask u := by
  unfold State.setTask
  simp only [List.map_map]
  congr 1
  apply List.map_congr_left
  intro a _
  simp only [Function.comp]
  by_cases k : a.id = u.id
  · simp [k, h]
  · simp [k, h]

theorem State.task?_setPart (s : State) (p : Partition) (id : Nat) : (s.setPart p).task? id = s.task? id := rfl
theorem State.task?_setJob (s : State) (j : Job) (id : Nat) : (s.setJob j).task? id = s.task? id := rfl
theorem State.part?_setTask (s : State) (t : Task) (vf : Nat) : (s.setTask t).part? vf = s.part? vf := rfl
theorem State.hive_setTask (s : State) (t : Task) (h : Nat) : (s.setTask t).hive h = s.hive h := rfl

theorem State.curTask_setHive {s : State} (h : Hive) : (s.setHive h).curTask = s.curTask := by
  unfold State.setHive; split <;> rfl

theorem State.curTask_setPart {s : State} (p : Partition) : (s.setPart p).curTask = s.curTask := rfl

/-- The partition bound to a function, once its record is replaced. -/
theorem State.part?_setPart {s : State} {p q : Partition} (h : s.part? q.vf = some p) : (s.setPart q).part? q.vf = some q := by
  unfold State.part? State.setPart at *
  generalize s.parts = l at *
  induction l with
  | nil => simp at h
  | cons a l ih =>
    simp only [List.map_cons, List.find?_cons] at *
    by_cases k : a.vf = q.vf
    · simp [k]
    · rw [beq_eq_false_iff_ne.mpr k] at h ⊢
      simp only [Bool.false_eq_true, if_false, beq_eq_false_iff_ne.mpr k] at h ⊢
      exact ih h

/-- The end of an instruction that retires in the state it left the task in. -/
theorem State.andRetire_eq {s : State} {i : Instr} {id : Nat} {t : Task} (h : s.task? id = some t) :
    s.andRetire i id = s.setTask (t.awake.retire i) := by unfold State.andRetire; rw [h]

end Sys2Proof.Machine
end

