-- ==== Sys2Proof/Tests/Slice0.lean ====
section
/-! SUPPORT. The model's own tests: well-formedness, decoding of words written out from the spec, and for each statement with hypotheses a
state and operands that meet them. -/

namespace Sys2Proof.Tests
open Sys2Proof.Machine

set_option Elab.async false

/-! ## Well-formedness: for each check a term that it refuses, beside one that it lets through -/

/-- Always. -/
def yes : Pred := ⟨false, 0⟩
/-- No waggle term, tag 0. -/
def plainTrig : Trig := ⟨none, 0⟩

/-- Every ill-formed term of a list is refused, and every well-formed one is not. -/
def wfSplits (bad good : List Instr) : Bool := bad.all (fun i => !i.wf) && good.all (·.wf)

/-- Register numbers: predicate, scalar, vector, handle, predicate destination, tile, loop counter, mask, queue, term. -/
theorem test_wf_registers : wfSplits
    [.add ⟨false, 8⟩ 1 2 3, .add yes 64 2 3, .add yes 1 64 3, .add yes 1 2 64, .sel yes 1 2 3 64, .cmpeq yes 8 1 2, .qand yes 1 8 2,
     .qor yes 1 2 8, .lea yes 1 256 2 (.short 0), .jmp yes 1 64, .call yes 64 0, .loop yes 3 1 2, .lqctlWrite 16 (.setc yes 1),
     .hbaseWrite (.setc yes 64), .wgcfgWr yes 1 2 true 16, .wgfire yes 4, .wgwait yes 1 16, .launch yes 1 2 3 16, .vmov yes 32 1 none,
     .vmov yes 1 32 none, .vsel yes 1 2 32 1 none, .vsel yes 1 2 3 32 none, .mand yes 32 1 1 none, .mand yes 1 32 1 none,
     .mand yes 1 1 32 none, .vargmax yes false false 1 32 2 3 none, .mxzero yes 4, .fgath yes plainTrig 1 32 3 0 0x20 0 0,
     .fgath yes plainTrig 1 2 3 0 0x20 7 0, .fgath yes plainTrig 1 2 3 0 0x20 0 64, .vpop yes 1 2 8, .vdefer yes 1 16 none,
     .copy yes plainTrig 1 2 3 4 0 256 1, .copy yes plainTrig 1 2 3 4 0 5 64, .sptag yes 1 2 16, .ipref yes 65 0, .ipref yes 0 0]
    [.add ⟨false, 7⟩ 63 63 63, .sel yes 63 63 63 63, .cmpeq yes 7 1 2, .lea yes 1 255 2 (.short 0), .jmp yes 1 63, .loop yes 2 1 2,
     .lqctlWrite 15 (.setc yes 63), .wgcfgWr yes 1 2 true 15, .wgfire yes 3, .wgwait yes 1 15, .vmov yes 31 31 none, .mxzero yes 3,
     .fgath yes plainTrig 1 31 3 0 0x20 6 63, .vpop yes 1 2 7, .ipref yes 64 0, .ipref yes 1 0] = true := by decide +kernel

/-- Values: shift immediates, SA and SD of ENQ, DEQ and COPY2D, the last register, even pairs, formats, zero points, sizes, a register with a row of
its own, and words of assigned opcodes. -/
theorem test_wf_values : wfSplits
    [.shli yes 1 2 (.short 64), .srai yes 1 2 (.long 64), .enq yes 57, .deq yes 56, .copy2d yes plainTrig 1 2 61 4 0 5 6,
     .kvevict yes plainTrig 64 1 2 0, .vsetcap yes 1 3 none, .vgetcap yes 3 1 none, .vcvtMem yes .rne 1 3 0x20 none, .vbcast yes 1 2 0x00 none,
     .vcvt yes .rne 1 2 0x25 none, .vrand yes 1 2 0x20 none, .setc yes 0x012 1, .setc yes 0x860 1,
     .mxdrain yes .rne plainTrig 1 0 0 2 0 0 0x20 1 false false false, .mxdrain yes .rne plainTrig 1 0 0 2 0 0 0x43 8 false false false,
     .mxdrain yes .rne plainTrig 1 0 2 2 0 0 0x47 0 false false false, .mxdrain yes .rne plainTrig 1 0 0 2 128 0 0x47 0 false false false,
     .mxmac yes .rne false plainTrig 0 1 (.comb 2) 3 128 0 0, .mxmac yes .rne false plainTrig 0 1 (.comb 2) 3 0 128 0,
     .mxmac yes .rne false plainTrig 0 1 (.comb 2) 3 0 0 65536, .mxmac yes .rne false plainTrig 0 1 (.comb 32) 3 0 0 0,
     .mxmac yes .rne false plainTrig 0 1 (.honey 256 2) 3 0 0 0, .kvseqNew yes 1 2 3 4 5 0 65536 1, .kvseqNew yes 1 2 3 4 5 0 0 65536,
     .kvseqNew yes 1 2 3 4 5 0 1 0, .kvseqNew yes 1 2 3 4 5 0 0 0, .illegalOpcode 0x0100000000000000 none]
    [.shli yes 1 2 (.short 63), .enq yes 56, .deq yes 55, .copy2d yes plainTrig 1 2 60 4 0 5 6, .kvevict yes plainTrig 63 1 2 0,
     .vsetcap yes 1 2 none, .vbcast yes 1 2 0xBF none, .vrand yes 1 2 0x01 none, .setc yes 0x011 1,
     .mxdrain yes .rne plainTrig 1 0 2 2 127 127 0x47 0x80 true true true, .mxmac yes .rne false plainTrig 0 1 (.honey 255 63) 3 127 127 65535,
     .kvseqNew yes 1 2 3 4 5 15 65535 1, .kvseqNew yes 1 2 3 0 5 0 0 0, .illegalOpcode 0x0700000000000000 none] = true := by decide +kernel

/-- Predicates of whole-task words, modifiers, waggle fields, second sources and reductions without a vector destination. -/
theorem test_wf_forms : wfSplits
    [.mxdet ⟨false, 1⟩, .vscrub ⟨true, 2⟩, .vadd yes .rne .plain 1 2 (.vec 3) (some ⟨.grp 0 0, .none, .none⟩),
     .vadd yes .rne .plain 1 2 (.vec 3) (some ⟨.grp 13 0, .none, .none⟩), .vadd yes .rne .plain 1 2 (.vec 3) (some ⟨.none, .grp 4 16, .none⟩),
     .vadd yes .rne .plain 1 2 (.vec 3) (some ⟨.none, .none, .sh 1⟩), .vadd yes .rne .plain 1 2 (.scal 3) (some ⟨.none, .sh 1, .none⟩),
     .vadd yes .rne .plain 1 2 (.vec 32) none, .vadd yes .rne .plain 1 2 (.scal 64) none, .mxld yes ⟨none, 8⟩ 0 1 2, .mxld yes ⟨none, 4⟩ 0 1 2,
     .fgath yes ⟨some 16, 0⟩ 1 2 3 0 0x20 0 0, .hsrd yes ⟨none, 4⟩ 1 2 3, .vrsumO yes .rne true 1 2 (some 3) none,
     .vrsumO yes .rne true 0 2 none none, .vcount yes false 1 (some 64) none, .vargmax yes false true 1 0 2 3 none,
     .vargmax yes false true 0 1 2 3 none]
    [.mxdet yes, .vscrub ⟨true, 0⟩, .vadd yes .rne .plain 1 2 (.vec 3) (some ⟨.grp 12 4095, .sh (-1), .none⟩), .mxld yes ⟨some 15, 3⟩ 0 1 2,
     .fgath yes ⟨some 15, 7⟩ 1 2 3 0 0x20 0 0, .hsrd yes ⟨none, 3⟩ 1 2 3, .vrsumO yes .rne true 0 2 (some 3) none,
     .vargmax yes false true 0 0 2 3 none] = true := by decide +kernel

/-! ## Decoding: words written out from the tables of R213 to R224, those with a rule's or an example's value as the spec prints it -/

/-- A word with the given values in its fields, each from its lowest bit upward. -/
def bits (l : List (Nat × Nat)) : Word := BitVec.ofNat 64 (l.foldl (fun a f => a + f.2 * 2 ^ f.1) 0)

/-- Each word, with its extension word, decodes to the instruction beside it. -/
def decodesTo (l : List (Word × Word × Instr)) : Bool :=
  l.all fun c => match decode c.1 c.2.1 with | .ok i => decide (i = c.2.2) | .error _ => false

/-- Each word, with its extension word, is refused for the cause and with the lanes beside it. -/
def refusedFor (l : List (Word × Word × DecodeCause × Lanes)) : Bool :=
  l.all fun c => match decode c.1 c.2.1 with | .ok _ => false | .error r => decide (r.cause = c.2.2.1 ∧ r.lanes = c.2.2.2 ∧ r.word = c.1)

/-- Formats S, SI and M of the address instructions: OPC 0x01 to 0x06 (R213, R214, R216, R235 to R241); ADDI of the notes to R258. -/
theorem test_decode_scalar : decodesTo
    [(bits [(56, 0x01), (52, 3), (46, 1), (40, 5), (34, 6), (28, 7)], 0, .sub ⟨false, 3⟩ 5 6 7),
     (bits [(56, 0x01), (55, 1), (52, 5), (46, 23), (40, 63), (34, 1), (28, 2), (22, 3)], 0, .sel ⟨true, 5⟩ 63 1 2 3),
     (0x0200082000000048, 0, .addi yes 4 4 (.short 72)),
     (bits [(63, 1), (56, 0x02), (47, 8), (41, 9)], 0x123456789ABCDEF0, .movi yes 9 (.long 0x123456789ABCDEF0)),
     (bits [(56, 0x03), (46, 3), (34, 8), (28, 9), (19, 6)], 0, .cmpltu yes 6 8 9),
     (bits [(56, 0x04), (47, 1), (35, 8), (32, 5), (0, 0xFFFFFFFF)], 0, .cmplti yes 5 8 (.short (-1))),
     (bits [(56, 0x05), (46, 2), (19, 1), (16, 2), (13, 3)], 0, .qxor yes 1 2 3),
     (bits [(56, 0x06), (48, 1), (42, 10), (36, 11), (28, 200), (19, 12), (0, 0x40000)], 0, .hchk yes 10 200 11 12 (.short 0x40000))] =
    true := by decide +kernel

/-- Formats B, M and Y: OPC 0x20 to 0x3B (R215 to R217, R242 to R271), with the words of the notes to R258 and R262. -/
theorem test_decode_control : decodesTo
    [(bits [(56, 0x20), (48, 2), (40, 62), (0, 0xFFFFFE)], 0, .call yes 62 (-2)),
     (0x2100060000000029, 0, .loop yes 0 6 41), (0x2101000004000002, 0, .loopi yes 0 4 2), (0x2103000003000010, 0, .ipref yes 3 16),
     (bits [(56, 0x22), (24, 0xBEEF)], 0, .trap yes (.short 0xBEEF)),
     (0x3000484030000040, 0, .ld yes none 18 3 4 (.short 64)),
     (bits [(56, 0x31), (48, 2), (42, 20), (36, 21), (28, 22), (27, 1), (25, 3), (0, 0x7FFF8)], 0, .stI16 yes (some .sys) 20 22 21 (.short 0x7FFF8)),
     (bits [(56, 0x32), (48, 15), (42, 1), (36, 2), (28, 3), (27, 1), (25, 1), (19, 4), (0, 5)], 0, .acas yes true .die 1 3 2 4 (.short 5)),
     (0xB800800000000000, 0x00000000FFFFFFFF, .wait yes (some 0x00000000FFFFFFFF)),
     (bits [(56, 0x38), (0, 9)], 0, .fenceAcq yes .pkg), (0x3900450010400000, 0, .bararr yes 5 4 0 1 0), (0x3900850010400000, 0, .barwait yes 5 4 0 1 0),
     (0x3A00060000004000, 0, .getc yes 6 0x040), (0x3A00401C00003400, 0, .setc yes 0x034 7),
     (bits [(56, 0x3B), (46, 3), (40, 7), (34, 8), (8, 16 + 5), (0, 2)], 0, .wgcfgRd yes 7 8 true 5)] = true := by decide +kernel

/-- Formats V and X: OPC 0x40 to 0x62 (R218, R219, R223, R290 to R332), with the words of the notes to R314, R325, R332, R344 and R379. -/
theorem test_decode_comb : decodesTo
    [(bits [(56, 0x40), (41, 9), (20, 1), (14, 10)], 0, .vcfg yes 9 10 none),
     (0x4100061100200000, 0, .vadd yes .rne .wide 3 1 (.vec 2) none), (0x4100041000118000, 0, .vadd yes .rne .plain 2 1 (.scal 6) none),
     (0xC10018C600200000, 0x000001FFFE000000, .vadd yes .rne .wide 12 12 (.vec 12) (some ⟨.none, .sh (-16), .none⟩)),
     (bits [(56, 0x42), (46, 4), (41, 1), (36, 2), (31, 3)], 0, .vshl yes 1 2 (.vec 3) none),
     (0x4301821000128000, 0, .vshift yes 1 1 10 none), (bits [(56, 0x43), (41, 1), (36, 2), (31, 3), (6, 8 + 4)], 0, .vcmp yes .gt true 1 2 (.vec 3) none),
     (bits [(63, 1), (56, 0x44), (46, 1), (36, 7), (20, 1), (14, 5), (6, 201)], 4096, .vst yes 7 201 5 (some 4096)),
     (0x4510C00000138080, 0, .vcount ⟨false, 1⟩ true 0 (some 14) none), (0x450000300013C080, 0, .vrsumO yes .rne true 0 3 (some 15) none),
     (bits [(56, 0x46), (20, 1), (14, 9), (6, 11)], 0, .vdefer yes 9 11 none), (bits [(56, 0x47), (46, 4), (41, 1), (36, 2)], 0, .mfirst yes 1 2 none),
     (0xC800061100000000, 0x20301000FCC0C33C, .pass yes 3 1 2 none 0 0x20301000FCC0C33C),
     (0xC800C60000130000, 0x5005290AC0000000, .search yes 3 0 0 12 0 0x5005290AC0000000),
     (0x6020085080308000, 0, .vtopk ⟨false, 2⟩ false 4 5 1 3 2 none), (0x6020085080308040, 0, .vtopk ⟨false, 2⟩ true 4 5 1 3 2 none),
     (0x60000A6080C2C000, 0, .vtopk yes false 5 6 1 12 11 none), (0x6100480198000000, 0, .vperm yes 4 3 6 none),
     (bits [(56, 0x62), (41, 1), (31, 2), (26, 3)], 0, .vsim yes 1 2 3 none)] = true := by decide +kernel

/-- Formats A, Y of the engines, and K: OPC 0x68 to 0x7B (R217, R220, R221, R337, R360, R396), with the words of the notes to R354, R375, R379,
R396 and R435. -/
theorem test_decode_engines : decodesTo
    [(0x6800000054000000, 0, .mxatt yes 21 0), (0xE900110A14000400, 0x0000078F0000001F, .mxmac yes .rne true plainTrig 1 8 (.comb 10) 5 15 15 31),
     (0x6A00100000005000, 0, .mxld yes plainTrig 1 0 5), (0x6A00500001707000, 0, .mxrd yes plainTrig 1 0 23 7),
     (0xEA00D20F00000000, 0x00000F1E004700C0, .mxdrain yes .rne plainTrig 16 1 15 0 15 15 0x47 0 true true false),
     (0xF000C50040100000, 0x2100000000000002, .fstrm yes plainTrig 5 0 4 1 0 0x21 false 0 2),
     (0xF000C50040100000, 0x20A0000000000004, .fstrm yes plainTrig 5 0 4 1 0 0x20 true 2 4),
     (bits [(56, 0x71), (46, 1), (40, 1), (34, 2), (8, 7)], 0, .vpush yes 1 2 7),
     (0xF200091050600201, 0x031C000000000000, .copy yes ⟨none, 1⟩ 9 4 5 6 2 3 7),
     (bits [(56, 0x73), (34, 2), (28, 3), (20, 4), (0, 0x80 + 8 * 9 + 2)], 0, .hsrd yes ⟨some 9, 2⟩ 2 3 4),
     (0x7400000010200000, 0, .spst yes 0 1 2), (0x7400001420200000, 0, .spst yes 5 2 2), (0x7400400030200000, 0, .spld yes 0 3 2),
     (0xF800860801C04000, 0x0200000000000000, .kvapp yes 6 2 7 1 2 0), (0x79008B0882404000, 0, .pfxins yes 11 2 8 9 1),
     (0x7801451000008900, 0, .spretClose yes 5 4 2 2), (0x7801450800004900, 0, .spretClose yes 5 2 1 2), (0x7800CF08D0004000, 0, .kvlook yes 15 2 13 1),
     (bits [(56, 0x7A), (40, 5), (28, 6), (14, 7)], 0, .kvpin yes 5 6 7),
     (bits [(56, 0x7B), (40, 5), (34, 6), (14, 7), (0, 0x80 + 8 * 15 + 3)], 0, .attn yes ⟨some 15, 3⟩ 5 6 7),
     (bits [(56, 0x7B), (40, 5), (34, 6), (14, 7), (0, 4)], 0, .attn yes ⟨none, 4⟩ 5 6 7)] = true := by decide +kernel

/-- Words that steps 1 to 3 of R211 refuse: an unassigned opcode; the reserved word of the notes to R211; an unassigned function; an
extension word that S does not allow; a modifier with j = g; one on a scalar slot (R223); scope without STR; MODE 2; a whole-task word with PR; BS 0 in PTLOAD, which checks for supervisor mode before, and in CMODE. -/
theorem test_decode_refuses : (decodesTo [(0x0700000000000000, 0, .illegalOpcode 0x0700000000000000 none)] &&
    refusedFor
    [(0x01D0000000001FFF, 0, .rsvnz, .q), (bits [(56, 0x01), (46, 27)], 0, .illfn, .q), (bits [(63, 1), (56, 0x01)], 0, .illfn, .q),
     (0xC130081100200000, bits [(40, 2), (33, 4), (21, 16)], .illfn, .cell), (bits [(63, 1), (56, 0x41), (20, 1)], bits [(40, 1)], .rsvnz, .cell),
     (bits [(56, 0x30), (25, 1)], 0, .illfn, .q), (bits [(56, 0x78), (46, 5), (8, 2)], 0, .illfn, .q),
     (bits [(56, 0x68), (52, 1), (46, 1)], 0, .rsvnz, .whole), (bits [(56, 0x48), (46, 2)], 0, .privIllfn, .whole),
     (bits [(56, 0x48), (46, 5)], 0, .illfn, .whole)]) = true := by decide +kernel

/-! ## A state for the witnesses

The task of `placedTask` runs on a machine that is ready, with a translation of the first 32 GiB of HBM, of POOL and of HOST space, and a
handle for each space. -/

/-- A leaf that allows everything. -/
def wLeaf : LeafBits := ⟨true, true, true, false, 0⟩

/-- A handle of 16 MiB that allows everything. -/
def wHandle (b : Nat) (sp : Space) : Handle := ⟨b, 2 ^ 24, sp, true, true, true, true, 0, false⟩

/-- Some scalar registers hold small numbers: s1 to s9 hold 8, 0x40, 3, 1, 2, 64, 0x1000, 32, 0; s10 holds 128. -/
def wTask : Task := { placedTask with
  s := Vector.ofFn fun k : Fin 64 => BitVec.ofNat 64 (([0, 8, 0x40, 3, 1, 2, 64, 0x1000, 32, 0, 128] : List Nat).getD k.val 0)
  tvec := 0x2000, avl := 64 }

/-- The partition of the task. -/
def wPart : Partition := Partition.create 1 0 64 0 1

/-- Handles h1 to h6: HBM, HONEY, COMBLIN, POOL, HOST, and a barrier area in HBM. -/
def wHandles : List HandleCopy :=
  [⟨0, 1, 1, wHandle 0x100000 .hbm⟩, ⟨0, 1, 2, wHandle 0 .honey⟩, ⟨0, 1, 3, wHandle 0 .comblin⟩, ⟨0, 1, 4, wHandle (2 ^ 50) .pool⟩,
   ⟨0, 1, 5, wHandle (2 ^ 51) .host⟩, ⟨0, 1, 6, { wHandle 0x100000 .hbm with policy := 2, bar := true }⟩]

/-- The state of the witnesses. -/
def wState : State := { State.reset with
  parts := [wPart], tasks := [wTask], cur := some 0, ready := BitVec.allOnes 28, everReady := BitVec.allOnes 28, refreshing := none
  tlb := [⟨true, 0, 0, 2 ^ 35, 0, wLeaf⟩, ⟨true, 0, 2 ^ 50, 2 ^ 35, Config.poolBase, wLeaf⟩, ⟨true, 0, 2 ^ 51, 2 ^ 35, Config.hostBase, wLeaf⟩]
  handles := wHandles }

/-- The state with another record of its task. -/
def wWith (t : Task) : State := { wState with tasks := [t] }

/-- A chain of hypotheses, each on the state that the one before leaves: all of them hold. -/
def ends (s : State) (m : M Unit) : Bool := match m s with | .ok _ => true | .error _ => false

/-- A hypothesis without an effect. -/
def need (c : Prop) [Decidable c] : M Unit := check (decide c) 0 0

/-- An access of the device as a link of a chain. -/
def link {α : Type} (f : State → Except XErr (α × State)) : M α := fun s => match f s with | .ok r => .ok r | .error _ => .error (.engine none)

/-- A write of the device as a link of a chain. -/
def link' (f : State → Except XErr State) : M Unit := fun s => match f s with | .ok r => .ok ((), r) | .error _ => .error (.engine none)

/-- The state with every link up. -/
def wLive : State := { wState with ports := wState.ports.map fun _ => { Port.reset with up := true, version := 0x0101 } }

theorem w_curTask : wState.curTask = some wTask := rfl
theorem w_runsQ : wState.runsQ yes wTask := ⟨rfl, by decide +kernel⟩

/-! ## Witnesses: scalar instructions, control, memory -/

theorem witness_ScalarAndPredicateResults :
    (∃ v, scalarResult (.ins yes 5 1 2 3) = some (yes, 5, v)) ∧ (∃ v, predicateResult (.qxor yes 7 1 2) = some (yes, 7, v)) ∧
    wState.runsQ yes wTask := ⟨⟨_, rfl⟩, ⟨_, rfl⟩, w_runsQ⟩

/-- A task inside the last word of an iteration of lc1, nested in lc0. -/
def wLoops : Task := { wTask with loops := [⟨1, 0x10000, 0x10020⟩, ⟨0, 0x10000, 0x10020⟩], lc := (Vector.replicate 3 0).set 1 5 }

/-- Targets inside the loop body, at its start, outside it, and misaligned inside it. -/
theorem witness_TransfersComplete :
    let t : Task := { wLoops with s := wTask.s.set 1 0x10000 |>.set 2 0x10004 |>.set 3 0x10020 }
    (wWith t).runsQ yes t ∧ t.leavesBody (t.pc + ((1 : BitVec 24).signExtend 56 <<< 3)) = false ∧
    ((t.rs 1).setWidth 56 : BitVec 56).toNat % 8 = 0 ∧ t.leavesBody ((t.rs 1).setWidth 56) = false ∧
    t.leavesBody ((t.rs 3).setWidth 56) = true ∧ t.leavesBody ((t.rs 2).setWidth 56) = false ∧
    ((t.rs 2).setWidth 56 : BitVec 56).toNat % 8 ≠ 0 ∧ ({ t with tin := true } : Task).tin = true := by
  exact ⟨⟨rfl, by decide +kernel⟩, by decide +kernel⟩

/-- LOOP with a body of 1 and of 256 words, with counts zero and not, beside an enclosing loop with the same end; LBRK; each end of an
iteration. -/
theorem witness_HardwareLoopsComplete :
    let t : Task := { wTask with loops := [⟨0, 0x10000, 0x10000 + 8 * 257⟩] }
    (wWith t).runsQ yes t ∧ (2 ≤ (2 : BitVec 24).toInt ∧ (257 : BitVec 24).toInt ≤ 257) ∧ t.loops.length < 3 ∧
    (∀ r ∈ t.loops, r.lc ≠ 1) ∧ (∀ r, t.loops.head? = some r → (t.pc + ((257 : BitVec 24).signExtend 56 <<< 3)).toNat ≤ r.stop.toNat) ∧
    t.rs 9 = 0 ∧ t.rs 1 ≠ 0 ∧ (∃ inner r outer, wLoops.loops = inner ++ r :: outer ∧ (∀ x ∈ inner, x.lc ≠ 0) ∧ r.lc = 0) ∧
    wLoops.tin = false ∧ wLoops.loops = ⟨1, 0x10000, 0x10020⟩ :: [⟨0, 0x10000, 0x10020⟩] ∧ (0x10020 : BitVec 56) ≠ 0x10018 ∧
    wLoops.rlc 1 ≠ 0 ∧ wLoops.rlc 0 = 0 := by
  refine ⟨⟨rfl, by decide +kernel⟩, by decide, by decide, by decide, fun r h => ?_, by decide +kernel, by decide +kernel,
    ⟨[⟨1, 0x10000, 0x10020⟩], ⟨0, 0x10000, 0x10020⟩, [], by decide⟩, rfl, rfl, by decide, by decide +kernel, by decide +kernel⟩
  injection h with h; subst h; decide +kernel

/-- Ends that are too near and too far, a counter that is taken, three loops, an end past the innermost loop's; a handler, and no loop. -/
theorem witness_HardwareLoopsComplete_traps :
    let t : Task := { wTask with loops := [⟨0, 0x10000, 0x10000 + 8 * 257⟩] }
    let u : Task := { wTask with loops := [⟨0, 0x10000, 0x10010⟩, ⟨1, 0x10000, 0x10010⟩, ⟨2, 0x10000, 0x10010⟩] }
    let v : Task := { wTask with loops := [⟨0, 0x10000, 0x10018⟩] }
    (1 : BitVec 24).toInt < 2 ∧ 257 < (258 : BitVec 24).toInt ∧ (∃ r ∈ t.loops, r.lc = 0) ∧ 3 ≤ u.loops.length ∧ (wWith u).runsQ yes u ∧
    (wWith v).runsQ yes v ∧ (∃ r, v.loops.head? = some r ∧ r.stop.toNat < (v.pc + ((4 : BitVec 24).signExtend 56 <<< 3)).toNat) ∧
    ({ v with tin := true } : Task).tin = true ∧ wTask.loops = [] := by
  exact ⟨by decide, by decide, ⟨_, List.mem_singleton.mpr rfl, rfl⟩, by decide, ⟨rfl, by decide +kernel⟩, ⟨rfl, by decide +kernel⟩,
    ⟨_, rfl, by decide +kernel⟩, rfl, rfl⟩

/-- A handler is there or not, the task is inside it or not, quiet or not. -/
theorem witness_TrapsAndReturnComplete :
    let t : Task := { wTask with tin := true, tepc := 0x10008 }
    wState.runsQ yes wTask ∧ (wWith t).runsQ yes t ∧ t.tepc.toNat % 8 = 0 ∧ wTask.tin = false ∧ wTask.tvec ≠ 0 ∧ cSWTRAP < 0x380 ∧
    ({ wTask with tvec := 0, ocld := 1 } : Task).quiet = false ∧ ({ wTask with tvec := 0 } : Task).quiet = true ∧ ({ wTask with tvec := 0, dues := [(cFOOT, 9), (cLPF, 8)] } : Task).quiet = true ∧ wState.part? wTask.vf = some wPart := by
  exact ⟨w_runsQ, ⟨rfl, by decide +kernel⟩, by decide +kernel⟩

theorem witness_AddressPrefetchAndYieldComplete :
    wState.badMem = [] ∧ wState.runsQ yes wTask ∧ wState.part? wTask.vf = some wPart ∧ (wState.handle? (wTask.ctx wPart) wPart 1).1 = some (wHandle 0x100000 .hbm) ∧
    (wState.handle? (wTask.ctx wPart) wPart 1).2.curTask.isSome ∧
    ({ wState with tlb := [] }.handle? (wTask.ctx wPart) wPart 99).1 = none := by
  exact ⟨rfl, w_runsQ, by decide +kernel⟩

/-- A load answers: from HBM, strong, from COMBLIN and from HONEY. -/
theorem witness_LoadsComplete_now : [(1, some Scope.pkg), (1, none), (2, none), (3, some Scope.hive)].all (fun c => ends wState do
    let hd ← useHandle c.1
    let a ← checkAccess hd (memOffset wTask 2 (.short 0 : Imm 19)) 4 .read 4
    if hd.space = .comblin then sidePort (combByteCols a 4) []
    let s₂ ← getS
    need (hd.remote = false ∧ (hd.space = .honey → s₂.honeyHeld wTask.hive a = false))
    if c.2.isSome then drainAll
    let l ← readBytes hd (strongPoint c.2) false .read a 4
    need (anyBad l = false)
    let _ ← getT) = true := by decide +kernel

/-- A load waits: from POOL, from HOST, and from a bank that refreshes. -/
theorem witness_LoadsComplete_later : [4, 5, 2].all (fun h => ends { wState with refreshing := some 0 } do
    let hd ← useHandle h
    let a ← checkAccess hd 0x40 4 .read 4
    let s₂ ← getS
    need (hd.remote = true ∨ hd.space = .honey ∧ s₂.honeyHeld wTask.hive a = true)
    drainAll
    let _ ← getT) = true := by decide +kernel

/-- A held request: a load, and an AADD, from HOST space. -/
def wPend (atomic : Option (Nat × Word × Word)) : PendLoad :=
  { instr := .ldI32 yes none 5 5 0 (.short 0), sd := 5, size := 4, signed := true, handle := wHandle (2 ^ 51) .host, addr := 2 ^ 51,
    strong := none, atomic := atomic }

theorem witness_LoadsComplete_return : [none, some (0, 1, 0)].all (fun a =>
    let t : Task := { wTask with pend := some (wPend a) }
    let s := { wWith t with cur := none }
    (s.task? 0).isSome && ends { s with cur := some 0 } do
      let u ← getT
      setT { u with pend := none }
      let q := wPend a
      need (¬(q.handle.space = .honey))
      match q.atomic with
      | none =>
        let l ← readBytes q.handle (strongPoint q.strong) false .read q.addr q.size
        need (anyBad l = false)
      | some (op, b, cmp) =>
        let p ← getP
        need (atomicCode op = some 0)
        let _ ← link fun s => s.remoteAtomic (u.ctx p) q.handle.space 0 (q.size == 4) q.addr b cmp fun x => atomicNew op q.size x b.toNat cmp.toNat
      let _ ← getT) = true := by decide +kernel

/-- An AtomicOp on a port that is down, on one whose partner answers nothing, and on one that answers, which stores and does not. -/
theorem witness_LoadsComplete_remote :
    let mute : State := { wLive with ports := wLive.ports.map fun q => { q with mute := true } }
    ([wState, mute, wLive].all fun s => match s.translate (wTask.ctx wPart) (2 ^ 51) (some .host) with
      | .ok (e, s₁) => e.leaf.r && e.leaf.w && s₁.portLive (portOf (e.phys (2 ^ 51))) == (s != wState) &&
          s₁.portMute (portOf (e.phys (2 ^ 51))) == (s == mute)
      | .error _ => false) = true ∧
    atomicNew 7 8 5 1 5 ≠ none ∧ atomicNew 7 8 5 1 6 = none := by decide +kernel

/-- A request to a bank that still refreshes. -/
theorem witness_LoadsComplete_refresh :
    let q : PendLoad := { wPend none with handle := wHandle 0 .honey, addr := 0x1000 }
    let s := { wWith { wTask with pend := some q } with refreshing := some 1 }
    (s.task? 0).bind (·.pend) = some q ∧ q.handle.space = .honey ∧ s.refreshing = some (fld q.addr 12 4) := by decide +kernel

theorem witness_StoresComplete : [1, 3].all (fun h => ends wState do
    let hd ← useHandle h
    let a ← checkAccess hd 0x48 8 .write 8
    if hd.space = .comblin then
      sidePort [] (combByteCols a 8)
      writeBytes hd false false .write a (leBytes 8 7)
    else
      let u ← getT
      need (wTask.ocst < 65535 ∧ u.id = 0)) = true := by decide +kernel

/-- A queued store of two bytes. -/
def wStore (a : Nat) : StoreEntry :=
  { agent := 0, space := .hbm, addr := a, bytes := [1, 2], counts := true, strong := none, policy := 0 }

/-- A store performs, and one to the same slice waits behind it. -/
theorem witness_StoresComplete_perform :
    let t : Task := { wTask with stores := [wStore 0x100000, wStore 0x100002], ocst := 2 }
    let s := wWith t
    (s.task? 0).isSome ∧ t.stores[1]? = some (wStore 0x100002) ∧ s.part? t.vf = some wPart ∧
    (∃ o ∈ t.stores.take 1, o.agent = (wStore 0x100002).agent ∧ sliceOf o.addr = sliceOf (wStore 0x100002).addr) ∧
    (t.stores.take 0 = []) ∧ ((s.performEntry t wPart (wStore 0x100000)).bind (·.task? 0)).isSome := by decide +kernel

/-- Atomics in HBM that store and do not, and one over a port. -/
theorem witness_AtomicsComplete : ([(0, 1), (7, 6)].all (fun c => ends wState do
    let hd ← useHandle 1
    need (hd.a = true)
    let a ← checkAccess hd 0x40 8 .atomic 8
    drainAll
    let l ← readBytes hd true (decide (c.2 = 1)) .atomic a 8
    need (anyBad l = false ∧ atomicNew c.1 8 (leNat (bytesOf l)) 5 9 = if c.1 = 0 then some 5 else none)
    if c.1 = 0 then writeBytes hd true false .atomic a (leBytes 8 5)
    let _ ← getT) && (ends wState do
    let hd ← useHandle 4
    let _ ← checkAccess hd 0x40 4 .atomic 4
    drainAll
    need (hd.a = true ∧ hd.remote = true)
    let _ ← getT)) = true := by decide +kernel

/-- Atomics that stop: the honey store, COMBLIN, and one that PCIe does not carry, over a port. -/
theorem witness_AtomicsComplete_stops : [2, 3, 4].all (fun h => ends wState do
    let hd ← useHandle h
    checkBound hd (memOffset wTask 2 (.short 0 : Imm 19)) 8
    need (hd.space = .honey ∨ hd.space = .comblin ∨ (hd.remote = true ∧ atomicCode 1 = none))) = true := by decide +kernel

/-! ## Witnesses: synchronisation, control registers, queues, waggle -/

/-- WAIT with every counter at its limit, with and without a fault due; HALT of a task with a store to perform. -/
theorem witness_WaitHaltAndSleepComplete_wait :
    let t : Task := { wTask with ocld := 3, ocst := 65535, occp := 2, ocmx := 1, dueFlags := 5 }
    let u : Task := { t with dues := [(cHBMUE, 7), (cLPF, 8)] }
    let h : Task := { wTask with stores := [wStore 0x100000] }
    (wWith t).runsQ yes t ∧ (∀ c, t.counter c ≤ waitLimit (some 0x00010002FFFF0003) c) ∧ t.dues = [] ∧
    takeDue u.dues = some ((cLPF, 8), [(cHBMUE, 7)]) ∧ (∀ c, h.counter c = 0) ∧ h.dues = [] ∧
    ((wWith h).drainStores h.id h.stores.length).curTask.isSome ∧
    (((wWith h).drainStores h.id h.stores.length).curTask.map fun u => (u.stores, u.vld, u.vst)) = some ([], [], []) ∧
    (((wWith h).drainStores h.id h.stores.length).releaseTask (h.ctx wPart)).unreleased (h.ctx wPart) = false ∧
    (((wWith h).drainStores h.id h.stores.length).releaseTask (h.ctx wPart)).curTask.isSome := by
  exact ⟨⟨rfl, by decide +kernel⟩, fun c => by cases c <;> decide +kernel, rfl, by decide +kernel, fun c => by cases c <;> decide +kernel,
    rfl, by decide +kernel⟩

/-- A copy job of task 0 whose promise is the given cycle. -/
def wCopy (promise : Nat) : Job :=
  { id := 0, task := 0, vf := 1, launch := 0, stack := 0, hive := 0,
    kind := .copy (wHandle 0x100000 .hbm) (wHandle 0x100000 .hbm) 0 64 8 1 0 0, cls := .cp, input := some 1, armed := none, regions := [],
    promise := some promise, rebased := none, paused := none, pausedAt := 0, progress := 0, dues := [], flags := 0, arrival := none }

/-- SLEEPTIL at, after and before its target, and with a promise that is broken; a sleeping task is woken, or not yet. -/
theorem witness_WaitHaltAndSleepComplete_sleep :
    let s := { wState with cycle := 8 }
    s.runsQ yes wTask ∧ (wTask.rs 1).toNat ≤ s.cycle.toNat ∧ s.promisesDue 0 8 = [] ∧ s.cycle.toNat < (wTask.rs 2).toNat ∧
    ({ s with jobs := [wCopy 8] }.promisesDue 0 8).find? { s with jobs := [wCopy 8] }.broken = some (wCopy 8) ∧
    (let t : Task := { wTask with wait := some (.sleep 8) }; ((wWith t).task? 0).bind (·.wait) = some (.sleep 8)) := by
  exact ⟨⟨rfl, by decide +kernel⟩, by decide +kernel⟩

/-- Barrier objects: open at generation 1 with one arrival expected of two, and of one; opened; killed; corrupt. -/
theorem witness_BarriersComplete_objects :
    let b (arr st : Nat) : List Byte := Barrier.bytes ⟨1, 2, arr, st, 0⟩
    barrierOk (b 0 0) = true ∧ (Barrier.of (b 0 0)).st = 0 ∧ ((Barrier.of (b 0 0)).arr + 1) % 2 ^ 32 ≠ (Barrier.of (b 0 0)).exp ∧
    ((Barrier.of (b 1 0)).arr + 1) % 2 ^ 32 = (Barrier.of (b 1 0)).exp ∧ barrierOk (b 2 1) = true ∧ (Barrier.of (b 2 1)).st = 1 ∧
    barrierOk (b 0 2) = true ∧ (Barrier.of (b 0 2)).st = 2 ∧ barrierOk ((b 0 0).set 63 0xFF) = false ∧
    (⟨2 ^ 64 - 1, 2 ^ 32 - 1, 2 ^ 32 - 1, 255, 2 ^ 32 - 1⟩ : Barrier).gen < 2 ^ 64 := by decide +kernel

/-- HBM with a barrier object of generation `g`, state `st`, at offset 0 of h6; h7 is a barrier area in POOL. -/
def wBarrier (g st : Nat) : State := { wState with
  mem := memWriteN [] 0x100000 (Barrier.bytes ⟨g, 2, 0, st, 0⟩)
  handles := ⟨0, 1, 7, { wHandle (2 ^ 50) .pool with policy := 2, bar := true }⟩ :: wHandles }

/-- The chain of an event on an object, in HBM and over a port. -/
theorem witness_BarriersComplete_events : [(6, BarEvent.init 1), (6, .init (2 ^ 32 - 1)), (6, .arrive 1), (6, .kill), (7, .kill)].all (fun c =>
    ends (wBarrier 1 0) do
    let hd ← useHandle c.1
    let a ← barrierAccess hd (wTask.rs 9 + ((0 : BitVec 12).setWidth 64 <<< 6)).toNat true
    let ph ← physOf hd a
    if hd.space = .pool then
      fenceRel .pkg
      let s₄ ← getS
      need (ph.isSome ∧ (s₄.sendBarevt (ph.getD 0) (s₄.launchGen wTask) c.2.code wTask.id).curTask.isSome)
    else
      fenceRel .pkg
      let l ← readBytes hd true false .atomic a 64
      need (anyBad l = false ∧ (barrierApply (bytesOf l) c.2).isSome)
      writeBytes hd true false .atomic a ((barrierApply (bytesOf l) c.2).map (·.1) |>.getD [])
      let _ ← getT) = true := by decide +kernel

/-- A port that a BAREVT leaves on. -/
theorem witness_BarriersComplete_port : wLive.portLive (portOf Config.poolBase) = true ∧ wLive.portLive 8 = true := by decide +kernel

/-- An arrival at an object of zeros, whose check fails. -/
theorem witness_BarriersComplete_corrupt : ends wState (do
    let hd ← useHandle 6
    let a ← barrierAccess hd 0 true
    let _ ← physOf hd a
    fenceRel .pkg
    let l ← readBytes hd true false .atomic a 64
    need (barrierApply (bytesOf l) (.arrive 1) = none)) = true := by decide +kernel

/-- BARWAIT on an object that is opened, re-armed, killed, and still open for arrivals. -/
theorem witness_BarriersComplete_wait : [(1, 1, some 0), (2, 0, some 1), (1, 2, some 2), (1, 0, none)].all (fun c => ends (wBarrier c.1 c.2.1) do
    let hd ← useHandle 6
    let a ← barrierAccess hd 0 false
    let ph ← physOf hd a
    drainAll
    let l ← readWhole hd true a 64
    let s ← getS
    need (anyBad l = false ∧ barrierOk (bytesOf l) = true ∧ barrierStatus (bytesOf l) (wTask.rs 4) = c.2.2 ∧ s.arrivalHeld wTask ph = false)
    if c.2.2 = some 0 then fenceAcq .pkg
    let _ ← getT) = true := by decide +kernel

/-- The task in supervisor mode. -/
def wSup : Task := { wTask with sup := true }

/-- Registers on both sides of 0x800, in both modes; the first and the last of unassigned ranges; vstart written with zero and not. -/
theorem witness_ControlRegistersComplete :
    wState.runsQ yes wTask ∧ (0x7FF : Nat) < 0x800 ∧ (wTask.readReg 0 0x010).isSome ∧ (wWith wSup).runsQ yes wSup ∧ wSup.sup = true ∧
    (wWith wSup).part? 1 = some wPart ∧ ((wWith wSup).readPart wPart 0x800).isSome ∧ ((wWith wSup).readPart wPart 0x88F).isSome ∧
    wTask.rs 9 = 0 ∧ wTask.rs 1 ≠ 0 ∧ wTask.sup = false ∧
    (∀ n ∈ [(0x001 : BitVec 12), 0x00F, 0x015, 0x018, 0x074, 0x7FF], n.toNat < 0x800 ∧ wTask.readReg wState.cycle n.toNat = none) ∧
    (∀ n ∈ [(0x804 : BitVec 12), 0x807, 0x80B, 0x80F, 0x813, 0x83F, 0x890, 0xFFF],
      0x800 ≤ n.toNat ∧ (wWith wSup).readPart wPart n.toNat = none) := by
  exact ⟨w_runsQ, by decide +kernel, by decide +kernel, ⟨rfl, by decide +kernel⟩, by decide +kernel⟩

/-- The state with its host port up. -/
def wHost : State := { wState with ports := wState.ports.set 8 { Port.reset with up := true, version := 0x0100 } }

theorem witness_SupervisorWritesComplete :
    (wWith wSup).runsQ yes wSup ∧ (wWith wSup).part? wSup.vf = some wPart ∧ wState.part? 2 = none ∧ wHost.portLive 8 = true ∧
    wHost.part? 1 = some wPart ∧ wState.portLive 8 = false ∧
    (0x850 : BitVec 12).toNat / 16 = 0x85 ∧ (0x86F : BitVec 12).toNat / 16 = 0x86 ∧ (0x840 : BitVec 12).toNat / 16 = 0x84 ∧
    (0x870 : BitVec 12).toNat ≥ 0x870 ∧ 0x804 ≤ (0x804 : BitVec 12).toNat ∧ (0x808 : BitVec 12).toNat ≤ 0x808 ∧
    0x813 ≤ (0x813 : BitVec 12).toNat ∧ (0x83F : BitVec 12).toNat ≤ 0x83F ∧ (0x7FF : BitVec 12).toNat < 0x800 := by
  exact ⟨⟨rfl, by decide +kernel⟩, by decide +kernel⟩

/-- TLBINV of an entry and of none, with a paused job; a seed; a partition with a task and one without; PFDONE of a frame that stands, of
one that is being saved, and of none; a queue that runs on, and one that its write stops. -/
theorem witness_SupervisorWritesComplete_effects :
    let f : Task := { wTask with place := .frame (.fault cLPF 7) 0 false, slot := 3 }
    let g : Task := { wTask with stop := some (.fault cLPF 7), slot := 3 }
    let c : LaunchQueue := ⟨0, false, false, false, 4, 0, 0, 0, 0⟩
    (∃ e ∈ wState.tlb, e.glob = true) ∧ wPart.asid.toNat = ((0x0001000000000000 : Word) >>> 48).toNat ∧
    (((0x0001000000000000 : Word)).setWidth 32 : BitVec 32) = 0 ∧ ((5 : Word).setWidth 32 : BitVec 32) ≠ 0 ∧
    (∃ t ∈ wState.tasks, t.vf = wPart.vf) ∧ (∀ t ∈ State.reset.tasks, t.vf ≠ wPart.vf) ∧ wPart.psState = 0 ∧
    (∃ t ∈ (wWith f).tasks, t.faultedIn wPart.vf 3 = true) ∧ (∃ t ∈ (wWith g).tasks, t.vf = wPart.vf ∧ t.slot = 3) ∧
    (∀ t ∈ wState.tasks, t.faultedIn wPart.vf 3 = false) ∧ ({ wPart with psState := 1 } : Partition).psState ≠ 0 ∧
    wState.part? wPart.vf = some wPart ∧ wPart.queue 15 = c ∧
    (let k : LaunchQueue := { c with en := true, log := 3 }; k.err = false ∧ k.en = true ∧ k.log.toNat < 4) ∧
    (let k : LaunchQueue := { c with prod := 17 }; 2 ^ k.log.toNat < (k.prod - k.cons).toNat) := by decide +kernel

/-- A launch of two stages whose first sends items to its second; `n` items wait there. -/
def wLaunch (n : Nat) (killed : Bool) : Launch :=
  let g : Stage := { entry := 0x10000, combs := 16, mx := false, stream := false, out := 1, live := 1, qdepth := 0, maxt := 0, inq := 0,
                     head := 0, count := 0 }
  { id := 0, queue := 0, serial := 0, irq := false, arg := 0, levels := [⟨1, false, 4⟩],
    stages := [g, { g with out := 0, qdepth := 4, inq := 0x200000, head := 3, count := n }], fptab := 0, fpcnt := 0, compl := 0x300000,
    nexts := [1], created := 1, start := some 0, dropped := 0, rank := 0, ranks := 1, gen := none, killed := killed }

/-- The state with that launch, whose task is of the first stage or the second. -/
def wQueued (n stage : Nat) (killed : Bool) : State :=
  { wWith { wTask with stage := stage, out := 1 - stage } with parts := [{ wPart with launches := [wLaunch n killed] }] }

/-- ENQ with room for one item; DEQ of the last item; DEQ from an empty queue whose producer has ended. -/
theorem witness_QueueInstructionsComplete : (ends (wQueued 3 0 false) (do
      let t ← getT
      let q ← getP
      let l := wLaunch 3 false
      let s ← getS
      need (t.out ≠ 0 ∧ (q.launch? t.launch).isSome ∧ (l.stage t.out).count < (l.stage t.out).qdepth ∧
        s.itemHeld t.vf l.id ((l.stage t.out).itemAddr ((l.stage t.out).head + (l.stage t.out).count)) = false)
      fenceRel .pkg
      link' (State.devWrite q ((l.stage 1).itemAddr ((l.stage 1).head + (l.stage 1).count)) (t.itemWords 56))
      let _ ← getT
      let _ ← getP) && ends (wQueued 1 1 false) (do
      let t ← getT
      let q ← getP
      let l := wLaunch 1 false
      need (t.stage ≠ 0 ∧ (q.launch? t.launch).isSome ∧ 0 < (l.stage t.stage).count)
      let b ← link (State.devRead q ((l.stage 1).itemAddr (l.stage 1).head) 64)
      need (anyBad b = false)
      let _ ← getP
      fenceAcq .pkg
      let _ ← getT) && ends (wQueued 0 1 true) (do
      let t ← getT
      let s ← getS
      need (((wLaunch 0 true).stage t.stage).count = 0 ∧ s.queueClosed t.vf (wLaunch 0 true) t.stage = true))) = true := by decide +kernel

/-- The state whose queue 0 is as given. -/
def wWithQueue (t : Task) (c : LaunchQueue) : State := { wWith t with parts := [wPart.setQueue 0 c] }

/-- LAUNCH to a queue that is disabled, for supervisors alone, full, and able to take the card. -/
theorem witness_QueueInstructionsComplete_launch :
    [(⟨0x1000, false, false, false, 4, 0, 0, 0, 0⟩ : LaunchQueue), ⟨0x1000, false, true, true, 4, 0, 0, 0, 0⟩,
     ⟨0x1000, false, false, true, 4, 0, 16, 0, 0⟩, ⟨0x1000, false, false, true, 4, 0, 15, 0, 0⟩].all (fun c => ends (wWithQueue wTask c) do
      let hd ← useHandle 1
      let a ← checkAccess hd (wTask.rs 10).toNat 128 .read 128
      let b ← readWhole hd false a 128
      need (anyBad b = false)
      let _ ← getT
      let q ← getP
      if c.prod = 15 then
        need (c.en = true ∧ c.err = false ∧ c.sup = false ∧ (c.prod - c.cons).toNat ≠ 2 ^ c.log.toNat)
        fenceRel .sys
        link' (State.devWrite q (c.base.toNat * 128 + 128 * (c.prod.toNat % 2 ^ c.log.toNat)) (bytesOf b))
        let s ← getS
        need ((writeLqprod 0 q ((c.prod + 1).setWidth 64) s).curTask.isSome)
      else need (c.en = false ∨ (c.sup = true ∧ wTask.sup = false) ∨ (c.prod - c.cons).toNat = 2 ^ c.log.toNat)) = true := by decide +kernel

/-- The state whose hive has counter 0 owned by task `k`, and the given term 0. -/
def wHive (k : Nat) (e : Term) : State := { wState with
  hives := [{ Hive.initial 0 with counters := (List.replicate 16 Counter.free).set 0 ⟨some k, 2, 16, 1⟩
                                  terms := (List.replicate 16 Term.free).set 0 e }] }

/-- The statuses 0 to 3 of WGCFG.wr and .free, and the owners that .rd and WGWAIT meet. -/
theorem witness_WaggleInstructionsComplete_config :
    let s := wHive 0 ⟨some 0, 0, 1, 3, 1, 0⟩
    let f := wHive 1 ⟨some 1, 0, 1, 3, 0, 0⟩
    let j := { s with jobs := [{ wCopy 8 with armed := some 0 }] }
    s.runsQ yes wTask ∧ wgWrStatus s (s.hive 0) wTask true 0 0x100000000 = 0 ∧ wgWrStatus f (f.hive 0) wTask true 0 0 = 1 ∧
    wgWrStatus s (s.hive 0) wTask true 15 0x8000000000000000 = 2 ∧ wgWrStatus j (j.hive 0) wTask true 0 0x100000000 = 3 ∧
    wgWrStatus s (s.hive 0) wTask false 0 0 = 0 ∧ wgWrStatus f (f.hive 0) wTask false 0 0 = 1 ∧
    wgFreeStatus s (s.hive 0) wTask true 0 = 0 ∧ wgFreeStatus f (f.hive 0) wTask true 0 = 1 ∧ wgFreeStatus s (s.hive 0) wTask false 0 = 2 ∧
    wgFreeStatus j (j.hive 0) wTask true 0 = 3 ∧ wgFreeStatus s (s.hive 0) wTask false 15 = 0 ∧ wgFreeStatus f (f.hive 0) wTask false 0 = 1 ∧ 0 < ((s.hive 0).term 0).pend ∧
    ((f.hive 0).term 0).owner ≠ some wTask.id ∧
    (let e := wHive 0 ⟨some 0, 0, 1, 3, 0, 0⟩; ((e.hive 0).term 0).pend = 0 ∧ e.waggleNeedsPaused wTask ((e.hive 0).term 0) = false) ∧
    (s.setHive (s.hive 0)).curTask.isSome := by
  exact ⟨⟨rfl, by decide +kernel⟩, by decide +kernel⟩

/-- A counter that counts and one at its threshold; terms that are ready and not, with each kind of receiver. -/
theorem witness_WaggleInstructionsComplete_fire :
    let h := (wHive 0 ⟨some 0, 0, 1, 3, 0, 1⟩).hive 0
    let g : Hive := { h with counters := h.counters.set 0 ⟨some 0, 2, 16, 0⟩ }
    h.counter 0 = ⟨some 0, 2, 16, 1⟩ ∧ (h.counter 0).count + 1 = (h.counter 0).thresh ∧ (g.counter 0).count + 1 ≠ (g.counter 0).thresh ∧
    (h.counter 15).owner = none ∧ (h.term 0).ready = true ∧ (h.term 1).ready = false ∧
    ((wHive 9 ⟨some 9, 0, 1, 3, 0, 1⟩).hive 0 |>.term 0).owner.bind wState.task? = none ∧ (h.term 0).owner.bind wState.task? = some wTask ∧
    wTask.place = .vlc ∧ (h.term 0).tgt = 3 ∧ ((wHive 0 ⟨some 0, 0, 1, 0, 0, 1⟩).hive 0 |>.term 0).tgt ≠ 3 ∧
    (([{ wCopy 8 with armed := some 0 }] : List Job).find? fun j => j.task == wTask.id && j.armed == some 0).isSome ∧
    (wState.jobs.find? fun j => j.task == wTask.id && j.armed == some 0) = none ∧ startMx 0 wTask.mx.queue = none ∧
    (h.term 0).pend < 255 ∧ ((wHive 0 ⟨some 0, 0, 1, 0, 255, 1⟩).hive 0 |>.term 0).pend = 255 ∧ 0 < h.terms.length ∧
    wTask.wait = none ∧ (startMx 0 [{ kind := .zero 0, armed := some 0, tag := none, step := 0, paused := none, flags := 0, dues := [], since := 0, rows := [] }]).isSome := by
  decide +kernel

/-- A word of an opcode of each class, with a lane and without; 0x00 and 0x7F. -/
theorem witness_UnassignedOpcodes :
    wState.curTask = some wTask ∧ laneActive .q yes wTask = true ∧ laneActive .q ⟨true, 0⟩ wTask = false ∧ laneActive .cell yes wTask = true ∧
    laneActive .cell ⟨true, 0⟩ wTask = false ∧ ((0x7F00000000000000 : Word).extractLsb' 56 7).toNat = 0x7F := by decide +kernel

/-! ## Witnesses: no active lane, handles, the scalar rules, a step -/

theorem witness_NoActiveLaneIsNoOperation :
    (∃ r, rowOf (wordOpc 0x0180000000000000) (wordPred 0x0180000000000000) none 0x0180000000000000 = some r ∧ r.illfn = false ∧
      r.rsvnz = false ∧ r.own = false ∧ laneActive r.lanes (wordPred 0x0180000000000000) wTask = false ∧ wTask.held r.instr = none) ∧
    (∃ r, decode 0x01D0000000001FFF 0 = .error r ∧ laneActive r.lanes r.pred { wTask with q := wTask.q.set 5 true } = false) ∧
    wTask.loops = [] := ⟨⟨_, rfl, by decide +kernel⟩, ⟨_, rfl, by decide +kernel⟩, rfl⟩

/-- The bound, the last bytes inside it, and each check after it, at its boundary. -/
theorem witness_HandleChecksInOrder :
    let h := wHandle 0 .honey
    let c := wHandle 0 .comblin
    wState.curTask = some wTask ∧ wState.everReady.getLsbD 25 = true ∧ State.reset.everReady.getLsbD 25 = false ∧ h.bound < 2 ^ 24 - 7 + 8 ∧ ¬(h.bound < 2 ^ 24 - 8 + 8) ∧
    ¬(c.bound < 16 * 4096 * 32 - 8 + 8) ∧ wTask.vlmax * 32 < 16 * 4096 * 32 - 7 + 8 ∧ h.r = true ∧ ({ h with r := false } : Handle).r = false ∧
    ((h.base + 9) % 2 ^ 56) % 8 ≠ 0 ∧ ((h.base + 8) % 2 ^ 56) % 8 = 0 ∧ h.w = true ∧
    (∃ i < 8, (24 + i) % 32 = 0 ∨ 27 ≤ (24 + i) % 32) ∧ ¬(∃ i < 8, (8 + i) % 32 = 0 ∨ 27 ≤ (8 + i) % 32) ∧
    wState.part? wTask.vf = some wPart := by decide +kernel

/-- A byte of HBM and of POOL space: on no page, on a page that denies, or does not allow, a write, and on one that is the access's own. -/
theorem witness_HandleChecksInOrder_leaves :
    let c := wTask.ctx wPart
    let s (r w : Bool) : State := { wState with tlb := [⟨true, 0, 0, 2 ^ 35, 0, { wLeaf with r := r, w := w }⟩] }
    (match wState.leafFor c true (2 ^ 40) with | .error .unmapped => true | _ => false) = true ∧
    (match (s true false).leafFor c true 0x100000 with | .ok (l, _) => !l.allows .write && l.allows .read | .error _ => false) = true ∧
    (match (s true true).leafFor c true 0x100000 with | .ok (l, _) => l.allows .write | .error _ => false) = true ∧
    (match wState.translate c (2 ^ 50) (some .pool) with | .ok (e, _) => e.leaf.allows .atomic | .error _ => false) = true ∧
    (match wState.translate c (2 ^ 40) (some .pool) with | .error .unmapped => true | _ => false) = true ∧
    (match wState.translate c (2 ^ 51) (some .pool) with | .error .denied => true | _ => false) = true ∧
    0x100000 / 65536 = (0x100000 + 8 - 1) / 65536 := by decide +kernel

theorem witness_DivisionRule :
    let t : Task := { wTask with s := wTask.s.set 1 (BitVec.ofInt 64 (-2 ^ 63)) |>.set 2 (-1) }
    (wWith t).curTask = some t ∧ activeQ yes t = true ∧ t.rs 9 = 0 ∧ t.rs 2 ≠ 0 ∧ (t.rs 1).toInt = -2 ^ 63 ∧ (t.rs 2).toInt = -1 ∧
    (t.rs 3).toInt ≠ -1 ∧ (∃ v, scalarResult (.rem yes 63 1 2) = some (yes, 63, v)) := by
  exact ⟨rfl, by decide +kernel, by decide +kernel, by decide +kernel, by decide +kernel, by decide +kernel, by decide +kernel, _, rfl⟩

theorem witness_FieldInstructionsRule : wState.runsQ yes wTask ∧ (1 : Nat) ≠ 0 ∧ 63 < 64 := ⟨w_runsQ, by decide⟩

/-- Two records with one end, outside a handler and inside one; an enclosing record with another end; its counter at zero and above. -/
theorem witness_LoopBreakRule : (wWith wLoops).runsQ yes wLoops ∧ wLoops.tin = false ∧
    (wWith { wLoops with tin := true }).runsQ yes { wLoops with tin := true } ∧
    (∃ inner r e, wLoops.loops = inner ++ r :: [e] ∧ (∀ x ∈ inner, x.lc ≠ 1) ∧ r.lc = 1 ∧ e.stop = r.stop ∧ e.lc ≠ 1) ∧
    (∀ r ∈ wLoops.loops, r.lc ≠ 2) ∧ (wLoops.wlc 0 5).rlc 0 ≠ 0 ∧ (wLoops.wlc 0 0).rlc 0 = 0 ∧
    (∀ e rest, ([⟨0, 0x10000, 0x10028⟩] : List LoopRec) = e :: rest → e.stop ≠ 0x10020) := by
  refine ⟨⟨rfl, by decide +kernel⟩, rfl, ⟨rfl, by decide +kernel⟩,
    ⟨[], ⟨1, 0x10000, 0x10020⟩, ⟨0, 0x10000, 0x10020⟩, by decide⟩, by decide, by decide +kernel, by decide +kernel, fun e rest h => ?_⟩
  injection h with h; subst h; decide

/-- A word of one and of two words stands at the pc of the task that is served next. -/
theorem witness_StepRunsTheDecodedInstruction : [(0x0100021030000000, 0), (0x8200100800000000, 5)].all (fun w : Nat × Nat =>
    let s := State.reset.withFetchWord 128 (w.1 + w.2 * 2 ^ 64)
    decide (s.agenda = []) && !s.phase && match s.pickTask with
    | none => false
    | some t =>
      t.combpar.isEmpty && t.itemAt.isNone && t.restored.isNone &&
      (let s₁ := { s with phase := true }.serve t
       match s₁.part? t.vf, s₁.task? t.id with
       | some q, some u =>
         match s₁.fetchWord u q u.pc with
         | (.word x, s₂) => x == BitVec.ofNat 64 w.1 && !u.lastBodyWord && (s₂.task? u.id).isSome && wordExt x == (w.2 != 0) &&
           (match s₂.fetchWord ((s₂.task? u.id).getD u) q (u.pc + 8) with | (.word y, _) => y == BitVec.ofNat 64 w.2 | _ => false)
         | _ => false
       | _, _ => false)) = true := by decide +kernel

/-- A task that was restored comes to its turn. -/
theorem witness_StepRunsTheDecodedInstruction_restored :
    let t : Task := { wTask with restored := some (cPREEMPTED, none) }
    let s : State := { wWith t with cur := none }
    s.agenda = [] ∧ s.phase = false ∧ s.pickTask = some t ∧ t.combpar = [] ∧ t.itemAt = none ∧ t.restored ≠ none ∧
    (({ s with phase := !s.phase }.firstAgain t).task? t.id).isSome := by decide +kernel

/-! ## Witnesses: the combs -/

/-- A vector register of UINT8 elements, 64 of them, from a column. -/
def wReg (base width : Nat) (f : Fmt) : Option VReg := some ⟨base, width, { Cap.blank with fmt := f.code, d0 := 63 }.bits, false⟩

/-- A task with v1, v2 and v3 of UINT8 and v4, v5 of 32 columns, UINT32 and SINT32. -/
def wVec : Task := { wTask with
  regs := Vector.ofFn fun k : Fin 32 =>
    ([none, wReg 8 8 (.uint 8), wReg 16 8 (.uint 8), wReg 24 8 (.uint 8), wReg 32 32 (.uint 32), wReg 64 32 (.sint 32)] :
      List (Option VReg)).getD k.val none }

theorem w_vec : (wWith wVec).curTask = some wVec := rfl

/-- VCFG that frees a register and one that places it at the last 8 columns; VSETCAP and VGETCAP of an even pair. -/
theorem witness_RegisterDescriptorsComplete :
    let k : BitVec 128 := ({ Cap.blank with fmt := 0x87 } : Cap).bits
    let t : Task := { wVec with
      s := wVec.s.set 1 0x4000 |>.set 2 (208 + 7 * 256) |>.set 6 (k.extractLsb' 0 64) |>.set 7 (k.extractLsb' 64 64) }
    let x := t.rs 2
    let c : BitVec 128 := t.rs 7 ++ t.rs 6
    (wWith t).curTask = some t ∧ yes.pn = false ∧ (t.rs 1).toNat < 2 ^ 15 ∧ (t.rs 1).getLsbD 14 = true ∧
    (wWith t).columnsBusy t [] (t.regCols 1) = false ∧ x.toNat < 2 ^ 14 ∧ (x.extractLsb' 0 8).toNat = 208 ∧ (x.extractLsb' 8 6).toNat + 1 = 8 ∧
    (∀ k < 8, t.live.getLsbD ((208 + k) / 8) = true) ∧ (∀ n < 32, n ≠ 1 → ∀ r, t.vreg n = some r → 208 + 8 ≤ r.base ∨ r.base + r.width ≤ 208) ∧
    (wWith t).columnsBusy t [] (t.regCols 1 ++ (List.range 8).map (208 + ·)) = false ∧ x.toNat < 2 ^ 40 ∧ (t.vreg 1).isSome ∧
    capPasses c = true ∧ (Cap.of c).scl = 0 ∧ (Cap.of c).spr = 0 ∧ (Cap.of c).f.width ≤ 8 := by
  refine ⟨rfl, rfl, by decide +kernel, by decide +kernel, by decide +kernel, by decide +kernel, by decide +kernel, by decide +kernel,
    by decide +kernel, fun n hn _ r hr => ?_, by decide +kernel⟩
  have h : ∀ n : Fin 32, (wVec.vreg n.val).all (fun r => decide (208 + 8 ≤ r.base ∨ r.base + r.width ≤ 208)) = true := by decide +kernel
  have := h ⟨n, hn⟩
  rw [show (wVec.vreg n) = some r from hr] at this
  simpa using this

/-- The checks of a comb instruction pass: one of each kind of operands. -/
theorem witness_CombInstructionsComplete : ([.vadd yes .rne .wide 4 1 (.vec 2) none, .vmul yes .rne .plain 3 1 (.scal 1) none,
    .vcmp yes .lt true 1 1 (.vec 2) none, .vsel yes 3 1 2 1 none, .vmov yes 3 1 (some ⟨.sh 1, .none, .none⟩),
    .vbcast yes 3 1 0x87 none, .vcvt yes .rne 4 1 0x9F none, .vshift yes 3 1 1 none, .vrand yes 3 1 0x87 none, .vrsumT yes .rne true 0 1 (some 5) none,
    .vrank yes 4 1 none, .vdrain yes 4 1 9 3 none, .mfirst yes 1 2 none, .pass yes 3 1 2 none 0 0x20301000FCC0C33C,
    .search yes 3 0 0 4 0 0x5005290AC0000000, .vmwrite yes 1 1, .vtopk yes false 3 4 1 5 1 none, .vargmax yes false false 3 4 1 5 none,
    .vsort yes false 3 4 1 5 none, .vperm yes 3 1 4 none, .vuniq yes 3 4 1 5 none, .vmac yes .rne false 4 1 (.vec 2) none] : List Instr).all (fun i =>
    ends (wWith wVec) do
      let t ← getT
      match combOf i with
      | none => need False
      | some (p, c) =>
        need (laneActive c.lanes p t = true ∧ t.combsTaken = false ∧ t.held i = none)
        let r ← c.prep t
        let s ← getS
        need (s.columnsBusy t ((c.reads r t).map (·.1)) (c.writes t) = false)
        let (r, x) ← c.load r t
        need (x = none ∧ c.parityError r 0 { t with linear := false } = none)) = true := by
  decide +kernel

/-- A held instruction at its second pass. -/
theorem witness_CombInstructionsComplete_held : (ends (wWith wVec) do
    match combOf (.vand yes 3 1 (.vec 2) none) with
    | none => need False
    | some (_, c) =>
      let r ← c.prep wVec
      let t : Task := { wVec with vstart := 1, resume := some r }
      need (t.held (.vand yes 3 1 (.vec 2) none) = some r ∧ t.combsTaken = false)
      let (r, x) ← c.load r t
      need (x = none ∧ r.loading = false ∧ c.parityError r 1 { t.takeSum with linear := false } = none)) = true := by decide +kernel

/-- A parity error in what the instruction reads: in the first group, at its issue, and at its second pass. -/
theorem witness_CombInstructionsComplete_parity : [0, 1].all (fun k => ends (wWith { wVec with par := wVec.par.set 0 1 }) do
    let t ← getT
    match combOf (.vand yes 3 1 (.vec 2) none) with
    | none => need False
    | some (_, c) =>
      let r ← c.prep t
      need ((c.parityError r k { t with linear := false }).isSome ∧ t.combsTaken = false)) = true := by decide +kernel

theorem witness_MaskAndColumnResults :
    (wWith wVec).curTask = some wVec ∧ laneActive .cell yes wVec = true ∧ wVec.combsTaken = false ∧ wVec.cols.length = 256 ∧ wVec.par.length = 8 ∧
    (wWith wVec).pendingReads wVec = [] ∧ (wWith wVec).pendingWrites wVec = [] ∧ (∀ g < 8, wVec.groupFail g = none) ∧
    wVec.held (.mnot yes 7 7 none) = none ∧ (∃ r, wVec.vreg 1 = some r ∧ 1 ≤ r.base ∧ r.base + r.width ≤ 256 ∧ (Fmt.uint 8).width ≤ r.width) ∧
    (([(0, 5), (63, 300)] : List (Nat × Nat)).map (·.1)).Nodup ∧
    (∀ c, bitOf (2 ^ 63 + 1) c = true ↔ c ∈ ([(0, 5), (63, 300)] : List (Nat × Nat)).map (·.1)) := by
  refine ⟨rfl, by decide +kernel, rfl, by decide +kernel, by decide +kernel, by decide +kernel, by decide +kernel, by decide +kernel,
    by decide +kernel, ⟨_, rfl, by decide +kernel⟩, by decide, fun c => ?_⟩
  by_cases h : c < 64
  · have := (by decide +kernel : ∀ c : Fin 64, bitOf (2 ^ 63 + 1) c.val = true ↔ c.val ∈ ([(0, 5), (63, 300)] : List (Nat × Nat)).map (·.1))
    exact this ⟨c, h⟩
  · have h1 : ¬(c ∈ ([(0, 5), (63, 300)] : List (Nat × Nat)).map (·.1)) := by simp; omega
    have h2 : bitOf (2 ^ 63 + 1) c = false := by
      unfold bitOf
      rw [Nat.div_eq_of_lt (Nat.lt_of_lt_of_le (by decide : 2 ^ 63 + 1 < 2 ^ 64) (Nat.pow_le_pow_right (by decide) (by omega)))]
      rfl
    exact iff_of_false (by rw [h2]; exact Bool.false_ne_true) h1

/-- HBM with a dense tile of `n` UINT8 elements at `a`, whose first elements are 1, 2, 3. -/
def wTileMem (a n : Nat) : List Host.Cell :=
  memWriteN (memWriteN [] a (preambleBytes { Cap.blank with fmt := 0x87, d0 := n - 1 } 64 0 0 n)) (a + 64) [1, 2, 3]

/-- Two pages of 2 MiB, the second of them with NS set; h1 covers both; a tile of 128 elements has its second half on the second page. -/
def wTwoPages : State := { wWith { wVec with avl := 66, s := wVec.s.set 1 (2 ^ 21 - 128) } with
  mem := wTileMem (2 ^ 21 - 128) 128
  tlb := [⟨true, 0, 0, 2 ^ 21, 0, wLeaf⟩, ⟨true, 0, 2 ^ 21, 2 ^ 21, 2 ^ 21, { wLeaf with ns := true }⟩]
  handles := [⟨0, 1, 1, wHandle 0 .hbm⟩] }

/-- VLD, and VLDFF that stops at cell 64. -/
theorem witness_VectorMemoryComplete_load : [false, true].all (fun ff => ends wTwoPages do
    let t ← getT
    let i : Instr := if ff then .vldff yes 3 1 1 none else .vld yes 3 1 1 none
    need (laneActive .cell yes t = true ∧ t.held i = none ∧ t.ocld < 65535)
    let hd ← useHandle 1
    let o := vecOffset t 1 none
    let (m, b, _, _) ← readPreamble hd o
    need (m.headOk b = true ∧ m.cap.scl = 0 ∧ m.cap.spr = 0 ∧ m.cap.f.width ≤ 8 ∧ (t.reg! 3).c.ro = false ∧ (t.tptrap && m.cap.poison) = false)
    sidePort [] (t.regCols 3)
    let r := capture i yes t
    let short ← if ff then firstShort (fun e => elemShort hd (o + m.poff) m.cap.f.align
      (pieces m.cap.f m.cap.planes m.cap.count (r.flat t e))) (r.tileCells t m.cap.count 0) else pure none
    need (short = if ff then some 64 else none)
    let u ← getT
    let (_, x) ← untilFails (fun e => m.readElem (pieces m.cap.f m.cap.planes m.cap.count (r.flat u e)))
      ((r.tileCells u m.cap.count 0).filter fun e => match short with | some k => k == 0 || decide (e < k) | none => true)
    need (x = none)
    let _ ← getT) = true := by decide +kernel

/-- The task with two active cells. -/
def wTwo : Task := { wVec with avl := 2 }

/-- VST of a register to memory without a tile. -/
theorem witness_VectorMemoryComplete_store : (ends (wWith wTwo) do
    let t ← getT
    let v := t.reg! 1
    let c := v.c
    need (laneActive .cell yes t = true ∧ t.held (.vst yes 1 1 9 none) = none ∧ capPasses v.cap = true ∧ c.discard = false ∧ c.f ≠ .none ∧
      (t.tptrap && c.poison) = false ∧ t.ocst < 65535)
    let hd ← useHandle 1
    let o := vecOffset t 9 none
    let a ← checkAccess hd o 64 .write 64
    let l ← readBytes hd false false .write a 64
    let b ← freeBytes l
    need ((capPasses (MemTile.of hd o b).bits && (MemTile.of hd o b).cap.ro) = false)
    sidePort v.readCols (if hd.space = .comblin then combByteCols 0 32 else [])
    let u ← getT
    let r := capture (.vst yes 1 1 9 none) yes t
    let (_, x) ← untilFails (fun e => checkPieces hd (o + 64) c.f.align (storePieces c (r.flat u e))) (r.tileCells u c.count 0)
    need (x = none)
    let (_, y) ← untilFails (fun e => writePieces hd (o + 64) c.f.align c.f (u.elem (u.reg! 1).base c e) (storePieces c (r.flat u e)))
      (r.tileCells u c.count 0)
    need (y = none)
    writeBytes hd false false .write (hd.addr o) (preambleBytes c 64 0 0 (denseSize c.f c.count))
    let _ ← getT) = true := by decide +kernel

theorem witness_VectorMemoryComplete_done :
    let t : Task := { wTask with vld := [⟨some (cHBMUE, 7), 8⟩, ⟨none, 0⟩], vst := [16], ocld := 2, ocst := 1 }
    ((wWith t).task? 0).map (·.vld) = some (⟨some (cHBMUE, 7), 8⟩ :: [⟨none, 0⟩]) ∧ t.vst = 16 :: [] ∧ wTask.vld = [] ∧ wTask.vst = [] := by decide +kernel

/-- HBM with a pass-table image of two entries from `first`. -/
def wImage (first : Nat) : State := { wWith wSup with
  mem := memWriteN [] 0x100000 (leBytes 16 (first + 65536 * 2) ++ leBytes 8 0x20301000FCC0C33C ++ leBytes 8 (2 ^ 58) ++
    leBytes 8 0x20301000FCC0C33C ++ leBytes 8 (2 ^ 58)) }

/-- PTLOAD of two entries, from the first that may be written and up to the last. -/
theorem witness_PassTableAndModesComplete_ptload : [2048, 4094].all (fun f => ends (wImage f) (do
    let t ← getT
    need (yes.pn = false ∧ t.sup = true)
    let hd ← useHandle 1
    let a ← checkAccess hd (t.rs 9).toNat 16 .read 16
    let l ← readTileBytes hd a 16
    let u ← getT
    let b := u.overlay 0 hd.space a (bytesOf l)
    need (anyBad l = false ∧ leNat (b.take 2) = f ∧ leNat ((b.drop 2).take 2) = 2 ∧ 2048 ≤ f ∧ f + 2 ≤ 4096 ∧ (b.drop 4).all (· == 0) = true)
    let a ← checkAccess hd ((t.rs 9).toNat + 16) 32 .read 16
    let l ← readTileBytes hd a 32
    let s ← getS
    let u ← getT
    need (anyBad l = false ∧ (imageEntries 2 (u.overlay 0 hd.space a (bytesOf l))).all (fun e => entryOk e.1 e.2) = true ∧ s.sequenceRuns t.hive f 2 = false))) =
    true := by decide +kernel

/-- A lease of the longest length; a task whose columns are sound and one with a wrong parity bit; leases that hold and that end. -/
theorem witness_PassTableAndModesComplete_modes :
    let t : Task := { wVec with s := wVec.s.set 1 65535 }
    let bad : Task := { wVec with par := wVec.par.set 2 (2 ^ 7) }
    let held : Task := { wVec with lease := some 8, linear := true }
    t.rs 9 = 0 ∧ 0 < (t.rs 1).toNat ∧ (t.rs 1).toNat < 65536 ∧ (wWith wVec).columnsBusy wVec wVec.liveCols [] = false ∧
    wVec.parityFails wVec.liveCols = [] ∧ (wWith bad).columnsBusy bad bad.liveCols [] = false ∧
    ((bad.parityFails bad.liveCols).map (·.2)).min? = some (8 * 7 + 2) ∧ ((wWith held).task? 0).isSome ∧ wVec.lease = none ∧
    held.place = .vlc ∧ held.restored = none ∧ (8 : Nat) ≤ (8 : Word).toNat ∧ (7 : Word).toNat < 8 := by decide +kernel

/-! ## Witnesses: results of comb instructions, and frames -/

/-- Arithmetic of UINT8 in each form, of UINT32 with SINT32, in place and with a scalar; comparisons into a register and a mask; a
selection; reductions and counts; the first and the last of some elements. -/
theorem witness_CombResultValues : ([.vadd yes .rne .plain 3 1 (.vec 2) none, .vsub yes .rne .sat 1 1 (.vec 2) none,
    .vmul yes .rne .wide 4 1 (.scal 1) none, .vmin yes .rne false 3 1 (.vec 2) none, .vmax yes .rne true 4 1 (.vec 2) none,
    .vcmp yes .lt false 3 4 (.vec 5) none, .vcmp yes .ne true 7 1 (.vec 2) none, .vsel yes 3 1 2 7 none, .vrsumO yes .rne false 6 1 (some 5) none,
    .vrsumT yes .rne false 6 1 (some 63) none, .vrmax yes false 3 1 none none, .vrmin yes false 3 1 none none, .vcount yes false 4 (some 5) none,
    .vtopk yes false 3 4 1 5 1 none, .vbotk yes true 3 4 1 5 10 none] : List Instr).all (fun i =>
    let v : Task := { wVec with regs := wVec.regs.set 6 (some ⟨96, 64, Cap.blank.bits, false⟩) }
    ends (wWith v) do
      let t ← getT
      match combOf i with
      | none => need False
      | some (p, c) =>
        need (laneActive .cell p t = true ∧ t.combsTaken = false ∧ t.held i = none ∧ t.cols.length = 256)
        let r ← c.prep t
        let s ← getS
        need (s.columnsBusy t ((c.reads r t).map (·.1)) (c.writes t) = false ∧ c.parityError r 0 { t with linear := false } = none)
        need ((c.writes t).all (fun k => decide (k = 7 ∨ (8 ≤ k ∧ k < 216))) = true)) = true := by decide +kernel

/-- The registers of that task share no column, and hold their elements; a NaN and an infinity of FP16. -/
theorem witness_CombResultValues_registers :
    let v : Task := { wVec with regs := wVec.regs.set 6 (some ⟨96, 64, Cap.blank.bits, false⟩) }
    ((List.range 32).all fun n => (List.range 32).all fun k => match v.vreg n, v.vreg k with
      | some a, some b => decide (b.c.f.width ≤ b.width ∧ (k = n ∨ b.base + b.width ≤ a.base ∨ a.base + a.width ≤ b.base))
      | _, _ => true) = true ∧
    (fp16.val 0x7E00).isNan = true ∧ (fp16.val 0x7C00).isNan = false ∧ (fp16.val 0x8000).isZero = true ∧
    (activeList yes v).length = 64 := by decide +kernel



theorem witness_RegisterInstructionsFrame : wState.curTask = some wTask ∧
    (∃ v, scalarResult (.addi yes 0 1 (.short 5)) = some (yes, 0, v)) ∧ (∃ v, predicateResult (.qnot yes 7 1) = some (yes, 7, v)) :=
  ⟨rfl, ⟨_, rfl⟩, ⟨_, rfl⟩⟩

/-- Whether an instruction answers a next state. -/
def nexts (i : Instr) (s : State) : Bool := match exec i s with | .next _ => true | _ => false

theorem witness_LoadsStoresAndByteAccessesFrame :
    wState.curTask = some wTask ∧ wTask.stores = [] ∧ wState.cachesClean ∧ nexts (.ld yes (some .pkg) 5 1 0 (.short 64)) wState = true ∧
    nexts (.st yes none 5 1 0 (.short 64)) wState = true ∧
    (match wState.hbmWrite (wTask.ctx wPart) 0 false false .write 0x100000 1 with
      | .ok s => decide (s.mem = []) | .error _ => false) = true ∧
    (match wState.hbmWrite (wTask.ctx wPart) 3 false false .write 0x100000 1 with
      | .ok s => decide (s.mem = [(0x100000, 1)]) | .error _ => false) = true ∧
    (match wState.leafFor (wTask.ctx wPart) true 0x100000 with | .ok (l, _) => decide (effPolicy 0 l.cp < 3) | .error _ => false) = true ∧
    (match { wState with ports := wState.ports.set 0 { Port.reset with up := true, version := 0x0100 } }.remoteWrite (wTask.ctx wPart) .pool .write
      (2 ^ 50) 1 with | .ok s => decide (s.mem = [(Config.poolBase, 1)]) | .error _ => false) = true ∧
    (match wState.hbmRead (wTask.ctx wPart) 2 true false .read 0x100000 with | .ok _ => true | .error _ => false) = true := by
  refine ⟨rfl, rfl, ⟨fun l h => by simp [wState, State.reset] at h, fun k h => by simp [wState, State.reset] at h⟩, ?_⟩
  decide +kernel

theorem witness_CombArithmeticFrame : (ends (wWith wVec) do
    let t ← getT
    match combOf (.vadd ⟨false, 1⟩ .rne .plain 3 1 (.vec 2) none) with
    | none => need False
    | some (_, c) =>
      let v := t.reg! 3
      need (laneActive .cell yes t = true ∧ t.combsTaken = false ∧ t.held (.vadd yes .rne .plain 3 1 (.vec 2) none) = none ∧ 8 ≤ v.base ∧
        v.base + v.width ≤ 216)
      let r ← c.prep t
      let s ← getS
      need (s.columnsBusy t ((c.reads r t).map (·.1)) (c.writes t) = false ∧ c.parityError r 0 { t with linear := false } = none)) = true := by
  decide +kernel

/-! ## Witnesses: the matrix unit -/

/-- The task with 32 rows and a tile 1 of format FP32. -/
def wMx : Task := { wVec with mx := (wVec.mx.attach [0] []).setTile 1 { words := [], cap := (tileCap (.fp fp32) 32 false false).bits, bad := [] } }

/-- The state of that task, with a tile of bytes `b` at 0x1000 of HBM and of the honey store. -/
def wMxS (b : List Byte) : State := { wWith wMx with mem := memWriteN [] 0x101000 b, honey := memWriteN [] 0x1000 b }

/-- A trigger without a term. -/
def wTrig : Trig := ⟨none, 7⟩

/-- MXATT of 32 rows and of 128, chained and not, with a grant and without; MXDET with an empty queue; MXZERO. -/
theorem witness_MatrixGrantsComplete :
    (wWith wVec).curTask = some wVec ∧ yes.pn = false ∧ (wVec.rs 8).toNat = 32 * 1 ∧ (wVec.rs 10).toNat = 32 * 4 ∧ (wVec.rs 4).toNat ≤ 1 ∧
    wVec.rs 4 = 1 ∧ (wVec.rs 9).toNat ≤ 1 ∧ wVec.rs 9 ≠ 1 ∧ wVec.mx.rows = [] ∧ wVec.mx.prows = [] ∧ wVec.mx.queue = [] ∧
    wMx.mx.rows ≠ [] ∧ (wWith wMx).curTask = some wMx ∧ (wMx.rs 8).toNat = 32 * 1 := by decide +kernel

/-- MXMAC with B in the combs. -/
theorem witness_MatrixMultiplyCompletes_comb : ends (wWith wMx) (do
    let t ← getT
    let i : Instr := .mxmac yes .rne false wTrig 0 1 (.comb 2) 9 31 0 0
    need (laneActive .cell yes t = true ∧ (t.rs 9).toNat < 65536 ∧ t.mx.rows ≠ [] ∧ t.ocmx < 65535)
    let _ ← armTrigger i 2 wTrig.armed
    let a := t.reg! 1
    let b := t.reg! 2
    capChecks 0 [a.operand 1 1, b.operand 2 2] (mxInfer a.c b.c true false) none
    let la ← depthOperands i 1 1 2
    let lb ← depthOperands i 2 2 2
    depthChecks (la ++ lb) fun k => if k = 1 then a.c else b.c
    let _ ← getT
    need (t.vreg 1 = some a ∧ t.vreg 2 = some b ∧ mxDepth a.c.f b.c.f = some 2 ∧ 31 + 1 ≤ t.mxRows ∧ 1 ≤ 16 * t.combs ∧ (t.mx.tile 0).fmt = .none)) =
    true := by decide +kernel

/-- A tile of 4 columns and 2 rows in the honey store. -/
def wHoneyB : List Byte := preambleBytes { Cap.blank with fmt := 0x87, rank := 1, d0 := 3, d1 := 1 } 64 0 0 8 ++ [1, 2, 3, 4, 5, 6, 7, 8]

/-- MXMAC with B in the honey store, up to the last elements of its tile. -/
theorem witness_MatrixMultiplyCompletes_honey : ends (wMxS wHoneyB) (do
    let t ← getT
    let i : Instr := .mxmac yes .rne false wTrig 0 1 (.honey 2 7) 4 31 1 0
    need (laneActive .cell yes t = true ∧ (t.rs 4).toNat = 1 ∧ t.mx.rows ≠ [] ∧ t.ocmx < 65535)
    let _ ← armTrigger i 2 wTrig.armed
    let _ ← getT
    let hd ← useHandle 2
    let pre ← honeyAccess hd 0x1000 64 64
    let l ← readTileBytes hd pre 64
    let b ← freeBytes l
    let m := MemTile.of hd 0x1000 b
    let a := t.reg! 1
    need (t.rs 7 = 0x1000 ∧ m.headOk b = true ∧ capPasses a.cap = true ∧ a.c.discard = false ∧ (mxInfer a.c m.cap false false).mismatch = none ∧
      m.cap.rank = 1 ∧ (mxInfer a.c m.cap false false).unsupported = none ∧ m.cap.spr = 0 ∧ m.cap.zp = 0 ∧
      (t.tptrap && (a.c.poison || m.cap.poison)) = false)
    let (md, _) ← readMeta m pre
    checkEach (honeyElem m md) (List.range m.cap.count)
    if m.plen ≠ 0 then onOwnDie hd (0x1000 + m.poff) m.plen
    let la ← depthOperands i 1 1 2
    depthChecks la fun _ => a.c
    let _ ← getT
    need (mxDepth a.c.f m.cap.f = some 2 ∧ 31 + 1 ≤ t.mxRows ∧ 2 * (1 + (0 + 1)) = m.cap.ext 0 ∧ 1 + 1 = m.cap.ext 1 ∧ 1 + 1 ≤ 16 * t.combs ∧
      (t.mx.tile 0).fmt = .none)) = true := by decide +kernel

/-- An accumulator tile of one row and 4 columns in memory. -/
def wAccTile : List Byte := preambleBytes { Cap.blank with fmt := (Fmt.fp fp32).code, d0 := 3 } 64 0 0 16 ++ List.replicate 16 1

theorem witness_MatrixTransfersComplete_load : ends (wMxS wAccTile) (do
    let t ← getT
    need (t.mx.rows ≠ [] ∧ t.ocmx < 65535 ∧ yes.pn = false)
    let _ ← armTrigger (.mxld yes wTrig 0 7 1) 2 none
    let hd ← useHandle 1
    let (m, b, _, _) ← readPreamble hd (t.rs 7).toNat
    need (m.headOk b = true ∧ m.cap.f = .fp fp32 ∧ m.cap.scl = 0 ∧ m.cap.spr = 0 ∧ m.cap.rank ≤ 1 ∧ m.cap.ext 0 ≤ 128 ∧ m.cap.ext 1 ≤ t.mxRows ∧
      (t.tptrap && m.cap.poison) = false)
    let _ ← checkStatic hd ((t.rs 7).toNat + m.poff) (4 * m.cap.count) .read 4
    let u ← getT
    need (u.ocmx < 65535)) = true := by decide +kernel

/-- MXRD of tile 1 and MXSCL. -/
theorem witness_MatrixTransfersComplete_read : ends (wWith wMx) (do
    let t ← getT
    need (t.mx.rows ≠ [] ∧ t.ocmx < 65535 ∧ yes.pn = false ∧ (t.mx.tile 1).fmt ≠ .none)
    let _ ← armTrigger (.mxrd yes wTrig 1 6 1 1) 2 none
    let hd ← useHandle 1
    let a ← checkStatic hd (t.rs 6).toNat (64 + 512 * t.mxRows) .write 64
    targetRo hd a
    checkLeaves hd .write (pageStarts a (64 + 512 * t.mxRows))
    let b ← checkStatic hd (t.rs 1).toNat 8 .write 8
    checkLeaves hd .write [b]
    let _ ← checkStatic hd (t.rs 6).toNat 1024 .read 64
    let u ← getT
    need (u.ocmx < 65535)) = true := by decide +kernel

/-- MXDRAIN to UINT32, with a row term and without. -/
theorem witness_MatrixTransfersComplete_drain : [true, false].all (fun rowt => ends (wWith wMx) (do
    let t ← getT
    let v := t.reg! 4
    let row : Option VReg := if rowt then t.vreg 5 else none
    let tc := (t.mx.tile 1).cap
    need (laneActive .cell yes t = true ∧ t.vreg 4 = some v ∧ (rowt = true → row ≠ none) ∧ 31 + 1 ≤ t.mxRows ∧
      (t.rs 9).toNat + 127 + (127 + 1) * 31 < t.vlmax ∧ (t.mx.tile 1).fmt ≠ .none ∧ Fmt.of 0x9F = some (.uint 32) ∧ drainTarget (.uint 32) = true)
    capChecks 4 ((⟨1, 1, Cap.of tc, tc⟩ : Operand) :: (match row with | some r => [r.operand 2 5] | none => []))
      { mismatch := none, shapes := [], unsupported := (match row with | some r => if rowTermOk r.c then none else some 2 | none => none),
        fmt := .uint 32 } (some (v, 32))
    let _ ← getT)) = true := by decide +kernel


/-! ## Witnesses: engine jobs -/

/-- The launch whose footprint set 0 is empty. -/
def wFoot : Launch := { wLaunch 0 false with fptab := 0x400000, fpcnt := 1 }

/-- The state of a task of that launch. -/
def wEng (t : Task) : State := { wWith t with parts := [{ wPart with launches := [wFoot] }] }

/-- The barrier area of h6. -/
def wBarrierHandle : Handle := { wHandle 0x100000 .hbm with policy := 2, bar := true }

/-- Terms: one that the task does not own, one for another engine, one without a firing and one with; a task with room in its counter and
one without. -/
theorem witness_ArmingAndIssueOfJobs :
    let s := wHive 0 ⟨some 0, 0, 1, 2, 0, 0⟩
    let f := wHive 0 ⟨some 0, 0, 1, 2, 1, 0⟩
    s.curTask = some wTask ∧ ((s.hive 0).term 15).owner ≠ some wTask.id ∧ ((s.hive 0).term 0).tgt ≠ 1 ∧ ((s.hive 0).term 0).owner = some wTask.id ∧
    ((s.hive 0).term 0).tgt = 2 ∧ ((s.hive 0).term 0).pend = 0 ∧ 0 < ((f.hive 0).term 0).pend ∧ (s.jobs.filter fun k => k.tracked).length = 0 ∧
    1024 ≤ ((List.replicate 1024 (wCopy 8)).filter fun k => k.tracked && k.stack == (wCopy 8).stack).length ∧
    wTask.counter .cp < 65535 ∧ 65535 ≤ ({ wTask with occp := 65535 } : Task).counter .cp := by decide +kernel

/-- A barrier object that a job of the task is to arrive at, its generation captured. -/
theorem witness_ArmingAndIssueOfJobs_arrival : (match captureArrival (some (wBarrierHandle, 0)) (wBarrier 5 0) with
    | .ok (some x, s) => decide (x.gen = 5 ∧ x.addr = 0x100000 ∧ s.curTask = some wTask) | _ => false) = true := by decide +kernel

/-- FGATH, FSCAT of UINT8 and FSCATA of UINT32, with two active elements. -/
theorem witness_GathersAndScattersComplete : (ends (wEng wTwo) (do
    let t ← getT
    let d := t.reg! 3
    let x := t.reg! 4
    let i : Instr := .fgath yes wTrig 3 4 1 0 0x87 0 9
    need (laneActive .cell yes t = true ∧ t.vreg 3 = some d ∧ t.vreg 4 = some x)
    armCheck i 1 none
    capChecks 3 [x.operand 1 4] { mismatch := none, shapes := [], unsupported := if indexOk x.c then none else some 1, fmt := .uint 8,
                                  word := if foragerFmt (.uint 8) then none else some (iext i) } (some (d, 8))
    let hd ← useHandle 1
    let elems := (t.activeList yes).map fun e => (⟨e, indexOffset t x 0 9 e, 0⟩ : Elem)
    checkEach (fun e => do let _ ← checkStatic hd e.off 1 .read 1; pure ()) elems
    let rs ← footprintSet 0
    sidePort x.readCols (t.regCols 3)
    let armed ← armTake none
    let _ ← issueJob (.gather 3 0x87 hd elems) .ld (some 15) armed rs none [] none
    let _ ← getT) && [(false, 1, 4), (true, 4, 1)].all (fun c => ends (wEng wTwo) (do
    let t ← getT
    let (add, va, vi) := c
    let i : Instr := if add then .fscata yes .rne wTrig va vi 1 0 0 9 else .fscat yes wTrig va vi 1 0 0 9
    armCheck i 1 none
    let (a, x) ← scatterChecks i va vi (if add then scataFmt else foragerFmt)
    let hd ← useHandle 1
    let elems := scatterElems t yes a x 0 9
    checkEach (fun e => if add then scataAccess hd a.c.f.bytes e else (do let _ ← checkStatic hd e.off a.c.f.bytes .write a.c.f.bytes; pure ())) elems
    let rs ← footprintSet 0
    sidePort (a.readCols ++ x.readCols) []
    let armed ← armTake none
    let _ ← issueJob (.scatter 0x87 hd (lastWriters elems)) .st (some 15) armed rs none [] none
    need (elems.length = 2 ∧ (lastWriters elems).length = 1)))) = true := by decide +kernel

/-- FSTRM of no elements, inbound and outbound; its queue is idle or in use. -/
theorem witness_StreamsComplete_start : [(9, false), (5, false), (5, true)].all (fun c => ends (wEng wTwo) (do
    let t ← getT
    let (sb, dir) := c
    let count := (t.rs sb).toNat
    armCheck (.fstrm yes wTrig 11 9 sb 1 0 0x87 dir 0 1) 1 none
    need (yes.pn = false ∧ count < 2 ^ 40 ∧ foragerFmt (.uint 8) = true)
    let hd ← useHandle 1
    streamChecks hd (t.rs 9).toNat 1 count 1 (if dir then .write else .read)
    let rs ← footprintSet 0
    let u ← getT
    need (u = t ∧ (t.queue 0).st = .idle ∧ (t.setQueue 1 { t.queue 1 with st := .inbound }).queue 1 ≠ t.queue 0)
    let armed ← armTake none
    let s ← getS
    if count = 0 then need (armed = none ∧ (s.pulse t.hive t.id 15).curTask.isSome)
    else
      let _ ← issueJob (.stream (!dir) 0 0x87 hd 0 1 count) (if dir then .st else .ld) (some 15) armed rs none [] none
      let _ ← getT)) = true := by decide +kernel

/-- A queue of UINT8 with some elements. -/
def wFQ (st : QState) (l : List (Nat × Option (Nat × Word))) : FQueue :=
  { st := st, fmt := 0x87, elems := l, count := 3, moved := 0, written := 0, job := 5 }

/-- The task with queue 0 as given. -/
def wStream (q : FQueue) : Task := wTwo.setQueue 0 q

/-- VPOP from a queue of an ended stream with one element and from one that is idle; VPUSH of two elements; FGSYNC of an inbound queue. -/
theorem witness_StreamsComplete_move :
    [wFQ .inbound [(7, none)], wFQ .inbound [(7, some (cHBMUE, 9))], wFQ .idle []].all (fun q => ends (wWith (wStream q)) (do
      let t ← getT
      let d := t.reg! 3
      let f := if (t.queue 0).st = .idle then d.c.f else (t.queue 0).f
      let i : Instr := .vpop yes 11 3 0
      need (laneActive .cell yes t = true ∧ t.held i = none ∧ t.vreg 3 = some d ∧ (t.queue 0).st ≠ .outbound ∧ f ≠ .none ∧ f.width ≤ d.width ∧
        d.c.ro = false)
      sidePort [] (t.regCols 3)
      let _ ← getT
      let s ← getS
      let r := capture i yes t
      need ((s.job? 5).isSome = false ∧ (popFrom r.active (r.sfill.toNat % 2 ^ f.width) false (List.range r.vl) (t.queue 0).elems).2.2.2.2 = none))) &&
    ends (wWith (wStream (wFQ .outbound []))) (do
      let t ← getT
      let d := t.reg! 1
      let i : Instr := .vpush yes 11 1 0
      need (laneActive .cell yes t = true ∧ t.held i = none ∧ t.vreg 1 = some d ∧ (t.queue 0).st = .outbound ∧ capPasses d.cap = true ∧
        d.c.discard = false ∧ d.c.fmt = (t.queue 0).fmt.toNat ∧ (t.tptrap && d.c.poison) = false)
      sidePort d.readCols []
      let u ← getT
      need ((pushFrom (u.elem (u.reg! 1).base d.c) ((capture i yes t).cells.filter fun e => decide (0 ≤ e)) (u.queue 0)).2 = none)) &&
    ends (wWith (wStream (wFQ .inbound [(7, none)]))) (do
      let t ← getT
      let s ← getS
      need (yes.pn = false ∧ t.outboundLeft (maskQueues 0xFF) = false)
      need (((maskQueues 0xFF).foldl (fun s q => s.syncQueue t.id q) (s.setTask (t.endOutbound (maskQueues 0xFF)))).curTask.isSome)) = true := by
  decide +kernel

/-- COPY and COPY2D, of some bytes and of none. -/
theorem witness_CopiesAndHoneyAccessesComplete_copy : [(64, 1), (3, 2), (0, 1)].all (fun c => ends (wEng wTask) (do
    let t ← getT
    let (len, rows) := c
    armCheck (.copy yes wTrig 11 9 6 1 0 1 7) 0 none
    need (yes.pn = false ∧ len ≤ 2 ^ 40 ∧ rows ≤ 2 ^ 32)
    let hd ← useHandle 1
    let hs ← useHandle 1
    copyRowChecks hd hs (t.rs 9).toNat (t.rs 7).toNat 8 8 len 0 (if len = 0 then 0 else rows)
    let rs ← footprintSet 0
    let armed ← armTake none
    let u ← getT
    let s ← getS
    need (armed = none ∧ (s.pulse u.hive u.id 7).curTask.isSome)
    if len = 0 then pure ()
    else
      let pr ← promiseFor rs 3 0
      let _ ← issueJob (.copy hd hs 0 0x1000 len rows 8 8) .cp (some 7) armed rs (some pr) [] none
      let _ ← getT)) = true := by decide +kernel

/-- HSRD of the tile in the honey store. -/
theorem witness_CopiesAndHoneyAccessesComplete_read : ends (wMxS wHoneyB) (do
    let t ← getT
    let v := t.reg! 3
    armCheck (.hsrd yes wTrig 7 3 2) 1 none
    need (laneActive .cell yes t = true ∧ t.vreg 3 = some v)
    let hd ← useHandle 2
    let o := (t.rs 7).toNat
    let a ← hsrdAccess hd o 64 64
    let l ← engineBytes hd a 64
    let b ← freeBytes l
    let m := MemTile.of hd o b
    need (m.headOk b = true ∧ m.cap.scl = 0 ∧ m.cap.spr = 0 ∧ m.cap.f.width ≤ v.width ∧ v.c.ro = false ∧ (t.tptrap && m.cap.poison) = false)
    let r := capture (.hsrd yes wTrig 7 3 2) yes t
    let cells := (r.tileCells t m.cap.count 0).map fun e => (e, r.flat t e)
    need (cells.length = 8)
    checkEach (fun c => checkEach (fun (x : Piece) => do
      let _ ← hsrdAccess hd (o + m.poff + x.off) x.bytes m.cap.f.align
      pure ()) (pieces m.cap.f m.cap.planes m.cap.count c.2)) cells
    sidePort [] (t.regCols 3)
    let armed ← armTake none
    let _ ← issueJob (.hsrd 3 (m.ref ⟨[], []⟩) cells) .ld (some 31) armed [] none (badDue hd a l).toList none
    let _ ← getT) = true := by decide +kernel

/-- A user task, which HSWR stops. -/
theorem witness_CopiesAndHoneyAccessesComplete_user : wState.curTask = some wTask ∧ yes.pn = false ∧ wTask.sup = false := by decide +kernel

/-- HSWR of 64 bytes and of none, alone in the partition. -/
theorem witness_CopiesAndHoneyAccessesComplete_write : [6, 9].all (fun sb => ends (wWith wSup) (do
    let t ← getT
    let p ← getP
    let n := (t.rs sb).toNat
    need (t.sup = true ∧ n ≤ 2 ^ 34 ∧ n % 64 = 0)
    let hd ← useHandle 2
    let hs ← useHandle 1
    let a := hd.addr (t.rs 7).toNat
    let b := hs.addr (t.rs 6).toNat
    checkBound hs (t.rs 6).toNat n
    checkBound hd (t.rs 7).toNat n
    let s ← getS
    need (s.everReady.getLsbD 25 = true ∧ hs.space = .hbm ∧ hd.space = .honey ∧ hs.r = true ∧ hd.w = true ∧ a % 64 = 0 ∧ p.ownsDie (fld a 31 3) ∧
      p.ownsDie (fld (a + n - 1) 31 3) ∧ s.otherTasks t = false)
    probeAll hs .read (pageStarts b n)
    let l ← readBytes hs false false .read b n
    need (anyBad l = false)
    let bs ← freeBytes l
    let u ← getT
    let s ← getS
    need ((s.honeyWrite a (u.overlay 0 hs.space b bs)).curTask.isSome))) = true := by decide +kernel

/-- The task with v1 of four UINT8 elements and `vl` four. -/
def wFour : Task := { wVec with avl := 4, regs := wVec.regs.set 1 (some ⟨8, 8, { Cap.blank with fmt := 0x87, d0 := 3 }.bits, false⟩) }

/-- The task with v1 of 200 UINT8 elements, for two records, and `vl` 200. -/
def wTwoRecs : Task := { wVec with avl := 200, regs := wVec.regs.set 1 (some ⟨8, 8, { Cap.blank with fmt := 0x87, d0 := 199 }.bits, false⟩) }

/-- HBM with an earlier sparse tile that leaves room for 256 bytes. -/
def wRoom : List Host.Cell := memWriteN [] 0x101000 (preambleBytes { Cap.blank with fmt := 0x87, spr := 1, d0 := 3 } 128 0 64 256)

/-- SPST over a tile with room for it: of one record, and of two. -/
theorem witness_SparseTransfersComplete_store : [(wFour, 1), (wTwoRecs, 2)].all (fun w => ends { wWith w.1 with mem := wRoom } (do
    let t ← getT
    let v := t.reg! 1
    let c := v.c
    need (laneActive .cell yes t = true ∧ t.vreg 1 = some v ∧ t.held (.spst yes 7 1 1) = none ∧ capPasses v.cap = true ∧ c.discard = false ∧
      c.f.isInt = true ∧ c.count ≤ t.vl ∧
      (t.tptrap && c.poison) = false ∧ t.ocst < 65535)
    let hd ← useHandle 1
    let o := (t.rs 7).toNat
    let a ← checkAccess hd o 64 .write 64
    let l ← readBytes hd false false .write a 64
    let old ← freeBytes l
    let k := ceilDiv c.count 128
    let records := (List.range k).map (sparseRecord c c.count (t.elem v.base c) (bitOf (activeCells yes t)))
    let poff := 64 + 64 * ceilDiv (4 * (k + 1)) 64
    let plen := (records.map List.length).sum
    need ((capPasses (MemTile.of hd o old).bits && (MemTile.of hd o old).cap.ro) = false ∧ plen ≤ (MemTile.of hd o old).plen)
    let _ ← checkAccess hd o (poff + plen) .write 64
    sidePort v.readCols []
    need (k = w.2)
    writeBytes hd false false .write (hd.addr (o + poff)) (if k ≤ 1 then records.flatten else records.headD [])
    if k ≤ 1 then
      writeBytes hd false false .write (hd.addr (o + 64)) (recordTable 0 (records.map List.length))
      writeBytes hd false false .write (hd.addr o) (preambleBytes { c with spr := 1 } poff 0 64 plen)
    let _ ← getT)) = true := by decide +kernel

/-- The task with an SPST held at the second of two records, or at the second of three, of 16 bytes each. -/
def wHeldSpst (k : Nat) : Task := { wTwoRecs with
  vstart := 1
  resume := some { capture (.spst yes 7 1 1) yes wTwoRecs with
    key := 0x1000, total := 128, caps := [0x87], order := k :: List.replicate k 16 ++ List.replicate (16 * k) 0 } }

theorem witness_SparseTransfersComplete_held : [2, 3].all (fun k => ends (wWith (wHeldSpst k)) (do
    let t ← getT
    let r := t.resume.getD (capture (.spst yes 7 1 1) yes t)
    need (t.held (.spst yes 7 1 1) = some r ∧ laneActive .cell yes t = true ∧ r.lengths.length = k)
    let hd ← useHandle 1
    sidePort [] []
    spstWrite hd r t.vstart.toNat
    let _ ← getT)) = true := by decide +kernel

/-- A sparse tile of four UINT8 elements of which none is present, as SPST writes it. -/
def wSparse : List Byte :=
  let c : Cap := { Cap.blank with fmt := 0x87, d0 := 3 }
  let r := sparseRecord c 4 (fun _ => 0) (fun _ => true) 0
  preambleBytes { c with spr := 1 } 128 0 64 r.length ++ recordTable 0 [r.length] ++ List.replicate (64 - (recordTable 0 [r.length]).length) 0 ++ r

theorem witness_SparseTransfersComplete_load : ends { wWith wFour with mem := memWriteN [] 0x101000 wSparse } (do
    let t ← getT
    let v := t.reg! 1
    need (laneActive .cell yes t = true ∧ t.vreg 1 = some v ∧ t.held (.spld yes 7 1 1) = none ∧ t.ocld < 65535)
    let hd ← useHandle 1
    let (m, b, a, _) ← readPreamble hd (t.rs 7).toNat
    need (m.headOk b = true ∧ m.cap.scl = 0 ∧ m.cap.spr = 1 ∧ m.cap.f.width ≤ v.width ∧ v.c.ro = false ∧ (t.tptrap && m.cap.poison) = false)
    let (md, _) ← readMeta m a
    sidePort [] (t.regCols 1)
    let u ← getT
    let r := capture (.spld yes 7 1 1) yes t
    let (_, x) ← untilFails (fun e => spldElem m md (r.flat u e)) (r.tileCells u m.cap.count 0)
    need (x = none)
    let _ ← getT) = true := by decide +kernel

/-! ## Witnesses: KV pools -/

/-- The header of a pool of 8 blocks of 16 positions and 1024 bytes a token, at offset 0 of h1, with h7 as its pooled memory; blocks 5, 6
and 7 are free. -/
def wHeader : List Byte :=
  leBytes 2 0x0100 ++ leBytes 1 4 ++ leBytes 1 7 ++ leBytes 4 8 ++ leBytes 4 1024 ++ leBytes 1 3 ++ leBytes 1 1 ++ leBytes 1 3 ++ leBytes 1 0 ++
    leBytes 8 0x1000 ++ leBytes 8 0x1100 ++ leBytes 8 0x2000 ++ leBytes 8 0x1200 ++ leBytes 8 0x1300 ++ leBytes 4 5 ++ leBytes 4 3 ++
    leBytes 16 0xa61000000000000f0007007f02000087 ++ leBytes 4 noBlock

/-- The pool that this header gives. -/
def wK : KvPool :=
  { h := wHandle 0x100000 .hbm, addr := 0x100000, lp := 4, phnd := 7, nblk := 8, tokb := 1024, lbk := 3, lpb := 1, ldir := 3, ibto := 0x1000,
    bkto := 0x1100, datao := 0x2000, pfxo := 0x1200, diro := 0x1300, bcap := 0xa61000000000000f0007007f02000087 }

/-- A block of a sequence. -/
def wBlock (seq l fill : Nat) : Block :=
  { seq := seq, lblk := l, bslot := 16 * l, bpos := 16 * l, pfx := 0, next := 0, ref := 1, pin := 0, fill := fill, tag := 2,
    st := .live, ro := false, sh := false, ovf := false, pfxb := false }

/-- A free block with the next one. -/
def wFree (next : Nat) : Block := { wBlock 0 0 0 with st := .free, next := next }

/-- A descriptor. -/
def wDesc (sqid len nlb : Nat) : Desc :=
  { sqid := sqid, ctag := 2, live := true, beam := false, busy := false, isSealed := false, len := len, pbias := 0, nlb := nlb, nlive := len,
    pend := 0, nret := 0, bmap := 0, brow := 0, bmaxl := 0, pfxq := 0, pfxn := 0, rets := List.replicate 8 ⟨0, 0, 0, 0, 0, 0⟩ }

/-- A beam of the map at 0x800, whose rows have 2 entries. -/
def wBeam (sqid row : Nat) : Desc := { wDesc sqid 16 1 with beam := true, bmap := 0x800, brow := row, bmaxl := 2 }

/-- The block of a prefix, and a prefix entry. -/
def wShared : Block := { wBlock (2 ^ 31 + 4) 0 16 with pfxb := true, sh := true }
def wPfx (key nb : Nat) : Prefix := ⟨key, 16, 4, nb, 2 ^ 31 + 4, 2, true⟩

/-- The cells that bytes at some offsets make. -/
def wCells (l : List (Nat × List Byte)) : List Host.Cell :=
  l.flatMap fun x => ((x.2.zipIdx (0x100000 + x.1)).map fun y => (y.2, y.1)).filter fun y => decide (y.2 ≠ 0)

/-- The pool in memory. Sequence 5 (at 256) has blocks 0 and 1, the first full; at 512 stands an ended sequence 6, whose block 0 is in the
directory; sequence 6 is empty at 768; at 1536 stands nothing. Block 4 is a prefix under key s15; the other bucket of prefixes is full. -/
def wPool : List Host.Cell := wCells
  [(0, wHeader), (256, (wDesc 5 19 2).bytes), (512, { wDesc 6 0 0 with live := false }.bytes), (768, (wDesc 6 0 0).bytes),
   (0x1000, (wBlock 5 0 16).bytes), (0x1020, (wBlock 5 1 3).bytes), (0x1080, wShared.bytes), (0x10A0, (wFree 6).bytes),
   (0x1184, leBytes 4 1), (0x1194, leBytes 4 noBlock), (0x11B8, leBytes 4 noBlock), (0x11E8, leBytes 4 4),
   (0x1219, leBytes 1 1), (0x1239, leBytes 1 1), (0x1259, leBytes 1 1), (0x1279, leBytes 1 1),
   (0x1280, (wPfx 0xC000000000000005 1).bytes), (0x12C0, (wPfx 0xC000000000000006 3).bytes), (0x13A0, (wBlock 6 0 16).bytes)]

theorem wPool_wf : Memory.wf wPool = true := by decide +kernel

/-- The task of the KV witnesses: s12 = 256, s16 = 512, s18 = 768 and s19 = 1536 are descriptors, s13 = 5 a sequence, s14 = 0x800 a map,
s15, s20 and s21 keys, s17 = 0x900 a list of parents. -/
def wKvTask : Task := { wTwo with
  s := wTwo.s.set 12 256 |>.set 13 5 |>.set 14 0x800 |>.set 15 0xC000000000000005 |>.set 16 512 |>.set 17 0x900 |>.set 18 768
    |>.set 19 1536 |>.set 20 0xC000000000000006 |>.set 21 0xC000000000000007 }

/-- The state of that task with a memory. -/
def wKv (m : List Host.Cell) : State := { wWith wKvTask with
  parts := [{ wPart with launches := [wFoot] }], handles := ⟨0, 1, 7, wHandle 0x800000 .hbm⟩ :: wHandles, mem := m }

/-- A number that is worked out before it is used. -/
def forcedNat {α : Type} : Nat → (Nat → α) → α
  | 0, f => f 0
  | n + 1, f => f (n + 1)

/-- A list of cells that is worked out before it is used. -/
def forced {α : Type} : List Host.Cell → (List Host.Cell → α) → α
  | [], f => f []
  | (a, b) :: r, f => forcedNat a fun a => forcedNat b.toNat fun n => forced r fun m => f ((a, BitVec.ofNat 8 n) :: m)

theorem forcedNat_eq {α : Type} (n : Nat) (f : Nat → α) : forcedNat n f = f n := by cases n <;> rfl

theorem forced_eq {α : Type} (m : List Host.Cell) (f : List Host.Cell → α) : forced m f = f m := by
  induction m generalizing f with
  | nil => rfl
  | cons c r ih => simp [forced, forcedNat_eq, ih]

/-- Hypotheses that hold from the state with the pool on. -/
def kvEnds (f : M Unit) : Bool := forced wPool fun m => ends (wKv m) f

theorem kvEnds_eq (f : M Unit) : kvEnds f = ends (wKv wPool) f := forced_eq _ _

/-- Nothing happens; the memory is worked out. -/
def settle : M Unit := fun s => forced s.mem fun m => .ok ((), { s with mem := m })

theorem settle_eq : settle = pure () := by funext s; exact forced_eq _ _

/-- An operation answers `x` and changes nothing. -/
def reads {α : Type} [DecidableEq α] (f : M α) (x : α) : Bool := forced wPool fun m =>
  match f (wKv m) with
  | .ok (y, s) => decide (y = x) && decide (s = wKv m)
  | .error _ => false

/-- The pool opens, to read and to write, and its descriptors are those given; the state stays as it is. The witnesses below start after
this. -/
theorem w_open : reads (openPool 1 [256, 512, 768, 1536] true) wK = true := by decide +kernel
theorem w_open_row : reads (openPool 1 [1536] true [⟨0x808, 8, .write⟩]) wK = true := by decide +kernel
theorem w_open_read : reads (openPool 1 [256, 512, 768] false) wK = true := by decide +kernel
theorem w_open_header : reads (openPool 1 [] false) wK = true := by decide +kernel
theorem w_open_evict : reads (openPool 1 [] false [⟨84, 4, .write⟩]) wK = true := by decide +kernel
theorem w_desc5 : reads (readDesc wK 256) (wDesc 5 19 2) = true := by decide +kernel
theorem w_ended : reads (readDesc wK 512) { wDesc 6 0 0 with live := false } = true := by decide +kernel
theorem w_desc6 : reads (readDesc wK 768) (wDesc 6 0 0) = true := by decide +kernel

/-- KVSEQ.new of a sequence and of a beam. -/
theorem witness_KvSequencesComplete_new : [0, 2].all (fun bmaxl => kvEnds (do
    let t ← getT
    let b ← poolBytes wK.h 1536 256
    need (activeQ yes t = true ∧ (t.rs 19).toNat = 1536 ∧ (Desc.of b).live = false ∧ (t.rs 13).toNat < 2 ^ 31)
    let d : Desc := { wDesc 5 0 0 with beam := bmaxl != 0, bmap := if bmaxl != 0 then 0x800 else 0, brow := if bmaxl != 0 then 1 else 0, bmaxl := bmaxl }
    putDesc wK 1536 d
    if bmaxl != 0 then poolPutBytes wK.h (d.rowOff 0) (noBlocks bmaxl)
    let _ ← getT)) = true := by decide +kernel

/-- The two blocks of sequence 5 as they resolve. -/
def wBlocks : List (Nat × Nat × Block) := [(0, 0, wBlock 5 0 16), (1, 1, wBlock 5 1 3)]

/-- KVSEQ.end, KVSEQ.seal and SPTAG. -/
theorem witness_KvSequencesComplete_live : kvEnds (do
    let d := wDesc 5 19 2
    need (d.busy = false ∧ d.live = true)
    let s ← getS
    putDesc wK 256 { d with ctag := 3 }
    setS s
    let l ← resolveAll wK d (List.range d.nlb)
    need (l = wBlocks)
    let s ← getS
    sealBlocks wK wBlocks
    putDesc wK 256 { d with isSealed := true }
    let _ ← getT
    setS s
    let z ← unmapAll wK d wBlocks
    need (z = [0, 1])
    settle
    freeBlocks wK [0, 1]
    settle
    dropDirWhere wK fun e => e.seq == d.sqid
    putDesc wK 256 { d with live := false }
    let _ ← getT) = true := by decide +kernel

/-- KVLOOK and KVLOOK.pf of a block that is there, and of an ended sequence. -/
theorem witness_KvSequencesComplete_look : kvEnds (do
    let (_, b) ← kvFind wK { wDesc 6 0 0 with live := false } 1
    need (b = none)
    let _ ← getT
    let (_, b) ← kvFind wK (wDesc 5 19 2) 1
    need (b = some 1 ∧ wK.h.space = .hbm)
    let u ← getT
    let p ← getP
    let s ← getS
    need (((List.range (wK.stride / 128 + 1)).foldl
      (fun (s : State) m => s.fillDie (u.ctx p) ((wK.h.addr (wK.blockOff 1) + 128 * m) % 2 ^ 56)) s).curTask.isSome = true)) = true := by decide +kernel

/-- KVLOOK.ld of a block that is there: its tile. -/
theorem witness_KvSequencesComplete_loadBlock : ends (wKv (wCells [(0x1020, (wBlock 5 1 3).bytes), (0x1184, leBytes 4 1),
    (0x2000 + 16448, preambleBytes (Cap.of wK.bcap) 64 0 0 16384)])) (do
    let t ← getT
    let v := t.reg! 3
    need (t.held (.kvlookLd yes 3 11 12 4 1) = none ∧ t.vreg 3 = some v)
    let (_, b) ← kvFind wK (wDesc 5 19 2) (t.rs 4).toNat
    need (b = some 1 ∧ t.ocld < 65535)
    fenceAcq .pkg
    let (m, bs, _, _) ← readPreamble wK.h (wK.blockOff 1)
    need (m.headOk bs = true ∧ m.cap.scl = 0 ∧ m.cap.spr = 0 ∧ m.cap.f.width ≤ v.width ∧ v.c.ro = false ∧ (t.tptrap && m.cap.poison) = false)
    sidePort [] (t.regCols 3)
    let u ← getT
    let r := capture (.kvlookLd yes 3 11 12 4 1) allActive t
    let (_, x) ← untilFails (fun e => m.readElem (pieces m.cap.f m.cap.planes m.cap.count (r.flat u e))) (r.tileCells u m.cap.count 0)
    need (x = none)
    let _ ← getT) = true := by decide +kernel

/-- KVAPP of one token, to the current block and to a new one. -/
theorem witness_KvTokensComplete_append : [(256, wDesc 5 19 2), (768, wDesc 6 0 0)].all (fun c => kvEnds (do
    let t ← getT
    let (off, d) := c
    performOwn
    let n := (t.rs 4).toNat
    need (activeQ yes t = true ∧ n = 1 ∧ d.busy = false ∧ d.live = true ∧ d.isSealed = false)
    let hs ← useHandle 6
    let _ ← checkAccess hs (t.rs 9).toNat (n * wK.tokb) .read 1
    let cur ← if d.nlb = 0 then pure none else resolve wK d (d.nlb - 1)
    let r ← appTokens wK d off d.len d.len n ⟨cur.map fun c => (c.1, c.2, c.2.fill), d.nlb, [], [], []⟩
    need (r.writes.length = 1 ∧ r.nlb = if off = 256 then 2 else 1)
    checkRecords wK r.writes
    let due ← copyBlocks wK r.copies
    let _ ← issueJob (.kvapp wK off hs 0 r.writes.reverse r.fills) .st none none [] none due.toList none
    putDesc wK off { d with len := d.len + n, nlb := r.nlb, nlive := d.nlive + n, pend := n, busy := true }
    let _ ← getT)) = true := by decide +kernel

/-- A job at its last byte. -/
def wKvJob (kind : JobKind) (n : Nat) : Job :=
  { wCopy 8 with kind := kind, progress := n - 1, regions := [⟨.hbm, 0, 0, 2 ^ 24, true⟩] }

/-- The data phase of KVAPP ends, or pauses where its source is not mapped. -/
theorem witness_KvTokensComplete_commit : [(0, true), (2 ^ 40, false)].all (fun c =>
    let src := wHandle c.1 .hbm
    let j := wKvJob (.kvapp wK 256 src 0 [0x2000 + 64] [(0, 1)]) 1024
    let s := { wKv [] with jobs := [j] }
    decide (s.workJob? 0 = some j ∧ s.task? j.task = some wKvTask ∧ j.paused = none ∧ s.jobColumnsFree wKvTask j = true) &&
    (match engineRun s wKvTask (moveBytes j wK.h src (fun x => wK.h.addr (([0x2000 + 64] : List Nat).getD (x / wK.tokb) 0 + x % wK.tokb))
        (fun x => src.addr (0 + x)) j.progress (1 * wK.tokb - j.progress)) with
      | .ok ((_, e, _), _) => (match e with | .done => c.2 | .paused _ _ => !c.2 | _ => false)
      | .error _ => false)) = true := by decide +kernel

/-- KVFREE of two blocks; SPRET of a tag that blocks have and of one that none has. -/
theorem witness_KvTokensComplete_free : kvEnds (do
    let t ← getT
    let d := wDesc 5 19 2
    need (d.busy = false ∧ d.beam = false ∧ d.pfxn = 0 ∧ d.nret ≠ 8 ∧ (t.rs 5).toNat = 2 ∧ (t.rs 9).toNat = 0)
    let l ← resolveAll wK d [0, 1]
    need (l = wBlocks ∧ fillSum (wBlocks.filter fun x => x.2.2.tag == 2) = 19 ∧ wBlocks.filter (fun x => x.2.2.tag == 3) = [])
    let s ← getS
    dropDirWhere wK fun e => e.seq == d.sqid && e.tag == 3
    let _ ← getT
    setS s
    let z ← unmapAll wK d wBlocks
    need (z = [0, 1])
    settle
    freeBlocks wK [0, 1]
    settle
    let s ← getS
    putDesc wK 256 { d with nlive := (d.nlive + 2 ^ 32 - fillSum wBlocks % 2 ^ 32) % 2 ^ 32 }
    let _ ← getT
    setS s
    dropDirWhere wK fun e => e.seq == d.sqid && e.tag == 2
    putDesc wK 256 { d.retire ⟨0, 19, 19, 2, 1, d.pbias⟩ with nlive := 0, pbias := 19 }
    let _ ← getT) = true := by decide +kernel

/-- Two beams of one map, which hold blocks 0 and 1; their descriptors. -/
def wBeamPool : List Host.Cell :=
  wCells [(0, wHeader), (256, (wBeam 7 0).bytes), (512, (wBeam 8 1).bytes), (0x804, leBytes 4 noBlock), (0x808, leBytes 4 1 ++ leBytes 4 noBlock),
    (0x1000, { wBlock 7 0 16 with sh := true }.bytes), (0x1020, { wBlock 8 0 16 with sh := true }.bytes)]

/-- BMREORD: both beams take the first as their parent, and block 1 is freed. -/
theorem witness_KvSharingCompletes_beams : ends (wKv wBeamPool) (do
    let t ← getT
    let k ← openPool 1 [256, 512] true [⟨(t.rs 17).toNat, 8, .read⟩]
    need (k = wK)
    let ds ← readDescs wK [256, 512]
    need ((t.rs 5).toNat = 2 ∧ ds = [(256, wBeam 7 0), (512, wBeam 8 1)])
    need (∀ x ∈ [wBeam 7 0, wBeam 8 1], x.busy = false ∧ x.live = true ∧ x.beam = true ∧ x.bmap = 0x800 ∧ x.bmaxl = 2)
    let parents ← readNats wK.h (t.rs 17).toNat 2
    need (([wBeam 7 0, wBeam 8 1].map (·.brow)).Nodup ∧ parents = [0, 0])
    let old ← readBeams wK [((256, wBeam 7 0), 0), ((512, wBeam 8 1), 0)]
    need (old = [⟨256, wBeam 7 0, [0, noBlock], 0⟩, ⟨512, wBeam 8 1, [1, noBlock], 0⟩])
    let old : List Beam := [⟨256, wBeam 7 0, [0, noBlock], 0⟩, ⟨512, wBeam 8 1, [1, noBlock], 0⟩]
    let before := (old.flatMap (·.row)).filter (· < wK.nblk)
    let after := (old.flatMap (newRow old)).filter (· < wK.nblk)
    need (before = [0, 1] ∧ after = [0, 0] ∧ (before ++ after).eraseDups = [0, 1])
    putBeams wK old old
    settle
    let z ← adjustRefs wK [0, 1] [0, 0] [0, 1]
    need (z = [1])
    settle
    freeBlocks wK [1]
    let _ ← getT) = true := by decide +kernel

/-- PFXFIND and PFXFIND.drop of a prefix that is there, and of one that is not. -/
theorem witness_KvSharingCompletes_find : kvEnds (do
    let t ← getT
    let d := wDesc 6 0 0
    let no ← lookupPrefix wK (t.rs 1).toNat
    need (no = none ∧ d.busy = false ∧ d.live = true ∧ d.beam = false ∧ d.len = 0 ∧ d.pfxn = 0)
    let _ ← getT
    let r ← lookupPrefix wK (t.rs 15).toNat
    need (r = some (0, wPfx 0xC000000000000005 1))
    let e := wPfx 0xC000000000000005 1
    let bs ← chain wK (wK.h.addr (prefixOff wK (t.rs 15).toNat 0)) e.head e.nb
    need (bs = [4])
    let s ← getS
    checkEach (raiseRef wK) [4]
    putDesc wK 768 { d with pfxq := e.pid, pfxn := e.nb, nlb := e.nb, len := e.ntok, nlive := e.ntok, ctag := fld e.tagl 0 4 }
    let _ ← getT
    setS s
    poolPutBytes wK.h (prefixOff wK (t.rs 15).toNat 0) { e with v := false }.bytes
    settle
    let z ← lowerRefs wK [4]
    need (z = [4])
    settle
    freeBlocks wK [4]
    let _ ← getT) = true := by decide +kernel

/-- PFXINS that joins an entry, that meets one of another length, that finds its bucket full, and that inserts. -/
theorem witness_KvSharingCompletes_insert : kvEnds (do
    let t ← getT
    let d := wDesc 5 19 2
    need (d.busy = false ∧ (t.rs 4).toNat = 1 ∧ 1 ≤ d.nlb ∧ d.live = true ∧ d.beam = false ∧ d.pfxn = 0 ∧ wK.lpb ≠ 0)
    let own ← offered wK d 256 [0]
    need (own = [(0, wBlock 5 0 16)])
    let s ← getS
    let r ← lookupPrefix wK (t.rs 20).toNat
    need (r = some (2, wPfx 0xC000000000000006 3) ∧ (wPfx 0xC000000000000006 3).nb ≠ 1)
    let _ ← getT
    setS s
    let r ← lookupPrefix wK (t.rs 1).toNat
    let e ← findPrefix wK (t.rs 1).toNat (fun (e : Prefix) => !e.v) [0, 1, 2, 3]
    need (r = none ∧ e = none)
    let _ ← getT
    setS s
    let r ← lookupPrefix wK (t.rs 15).toNat
    need (r = some (0, wPfx 0xC000000000000005 1) ∧ (wPfx 0xC000000000000005 1).nb = 1)
    let bs ← chain wK (wK.h.addr (prefixOff wK (t.rs 15).toNat 0)) 4 1
    need (bs = [4])
    unkeyAll wK [0]
    settle
    let z ← lowerRefs wK [0]
    need (z = [0])
    settle
    freeBlocks wK [0]
    settle
    checkEach (raiseRef wK) [4]
    putDesc wK 256 { d with pfxq := 2 ^ 31 + 4, pfxn := 1 }
    let _ ← getT
    setS s
    let r ← lookupPrefix wK (t.rs 21).toNat
    let e ← findPrefix wK (t.rs 21).toNat (fun (e : Prefix) => !e.v) [0, 1, 2, 3]
    need (r = none ∧ e.map (·.1) = some 1)
    let pid := 2 ^ 31 + 4 * ((t.rs 21).toNat / 2 ^ (64 - wK.lpb)) + 1
    poolPutBytes wK.h (prefixOff wK (t.rs 21).toNat 1) (Prefix.mk (t.rs 21).toNat 16 0 1 pid 2 true).bytes
    settle
    rekey wK pid 0 [(0, wBlock 5 0 16)]
    putDesc wK 256 { d with pfxq := pid, pfxn := 1 }
    let _ ← getT) = true := by decide +kernel

/-- Pins: of a LIVE block with a pin count of 0 and 255, of one that is EVICTING and one that is FREE; an unpin at 1 and at 0. -/
theorem witness_KvMovesComplete_pins : [(wBlock 5 0 16, 0), ({ wBlock 5 0 16 with pin := 255 }, 1), ({ wBlock 5 0 16 with st := .evicting, pin := 1 }, 2),
    ({ wBlock 5 0 16 with st := .free }, 3)].all (fun c => ends (wKv (wCells [(0, wHeader), (0x1000, c.1.bytes)])) (do
    let t ← getT
    let (k, e) ← pinned 1 (t.rs 9).toNat
    need (k = wK ∧ e = c.1 ∧ (c.1.st = .live ∧ c.1.pin < 255 ∧ c.2 = 0 ∨ c.1.st = .live ∧ 255 ≤ c.1.pin ∧ c.2 = 1 ∨ c.1.st = .evicting ∧ c.2 = 2 ∨
      c.1.st = .free ∧ c.2 = 3))
    putBlock wK 0 { c.1 with pin := if c.1.pin = 1 then 0 else 1 }
    let _ ← getT)) = true := by decide +kernel

/-- KVEVICT of one block, and of none where nothing may be evicted. -/
theorem witness_KvMovesComplete_evict : [(wCells [(0x1000, (wBlock 5 0 16).bytes)], [(0, 4)]), ([], [])].all (fun c => ends (wKv c.1) (do
    let t ← getT
    armCheck (.kvevict yes wTrig 18 4 1 0) 0 none
    let start ← poolNat wK.h 84 4
    let (vs, last) ← selectVictims wK wK.nblk start (t.rs 4).toNat
    need ((18 : Nat) ≤ 62 ∧ (t.rs 4).toNat = 1 ∧ wK.ldir ≠ 0 ∧ vs.map (·.1) = c.2.map (·.1))
    poolPut wK.h 84 4 last
    let _ ← getT
    if vs.isEmpty then pure ()
    else
      let hr ← useHandle wK.phnd
      checkEach (fun (v : Nat × Nat) => frameChecks hr wK.h (v.2 * wK.stride) (wK.blockOff v.1) wK.stride) vs
      let rs ← footprintSet 0
      let armed ← armTake none
      let pr ← promiseFor rs (ceilDiv (vs.length * wK.stride) 32) 0
      let _ ← issueJob (.kvevict wK hr vs) .cp (some 7) armed rs (some pr) [] none
      let _ ← getT)) = true := by decide +kernel

/-- KVPULL of a block that resolves, and of one that the directory holds. -/
theorem witness_KvMovesComplete_pull : kvEnds (do
    let t ← getT
    armCheck (.kvpull yes wTrig 18 12 9 1 0) 0 none
    let r ← resolve wK (wDesc 5 19 2) (t.rs 9).toNat
    need (r.isSome)
    let _ ← getT
    let r ← resolve wK { wDesc 6 0 0 with live := false } (t.rs 9).toNat
    let x ← lookupDir wK 6 0
    need (r = none ∧ x = some (5, wBlock 6 0 16))
    let b ← allocBlock wK
    need (b = 5)
    settle
    insertBlock wK 5 { wBlock 6 0 16 with st := .remote }
    settle
    let hr ← useHandle wK.phnd
    frameChecks wK.h hr (wK.blockOff 5) (5 * wK.stride) wK.stride
    let rs ← footprintSet 0
    let armed ← armTake none
    let pr ← promiseFor rs (ceilDiv wK.stride 32) 0
    let _ ← issueJob (.kvpull wK hr 5 5) .cp (some 7) armed rs (some pr) [] none
    let _ ← getT) = true := by decide +kernel

/-- An eviction and a pull at their last bytes. -/
theorem witness_KvMovesComplete_done :
    let hr := wHandle 0x800000 .hbm
    let ev := wKvJob (.kvevict wK hr [(0, 1)]) wK.stride
    let pl := wKvJob (.kvpull wK hr 2 1) wK.stride
    let s := wKv []
    (∀ j ∈ [ev, pl], let s := { s with jobs := [j] }
      s.workJob? 0 = some j ∧ s.task? j.task = some wKvTask ∧ s.copyReady wKvTask j = true ∧ s.evictHeld j wK [(0, 1)] = false) ∧
    (match engineRun s wKvTask (moveBytes ev hr wK.h (fun x => hr.addr (1 * wK.stride + x % wK.stride))
        (fun x => wK.h.addr (wK.blockOff 0 + x % wK.stride)) ev.progress 1) with
      | .ok ((_, e, _), _) => (match e with | .done => true | _ => false) | .error _ => false) = true ∧
    (match engineRun s wKvTask (moveBytes pl wK.h hr (fun y => wK.h.addr (wK.blockOff 2 + y)) (fun y => hr.addr (1 * wK.stride + y))
        pl.progress 1) with
      | .ok ((_, e, _), _) => (match e with | .done => true | _ => false) | .error _ => false) = true := by decide +kernel

/-! ## Witnesses: CONTRACT and ATTN -/

/-- A dense tile in memory. -/
def wDense (f : Fmt) (rank d0 n : Nat) : List Byte :=
  preambleBytes { Cap.blank with fmt := f.code, rank := rank, d0 := d0 } 64 0 0 (denseSize f n)

/-- A parameter block of C[i] = A[i] * B[i], i below 2, with an accumulation, and its tiles; in h1 from 0x1000 on. -/
def wContract : List Host.Cell := wCells
  [(0x1000, leBytes 2 0x0100 ++ leBytes 1 1 ++ leBytes 1 1 ++ leBytes 4 0 ++ leBytes 2 1 ++ List.replicate 54 0 ++
      [0x2000, 0x2100, 0x2200].flatMap fun o => leBytes 8 o ++ leBytes 1 1 ++ leBytes 1 1 ++ leBytes 6 0),
   (0x2000, wDense (.uint 8) 0 1 2), (0x2100, wDense (.uint 8) 0 1 2), (0x2200, wDense (.sint 32) 0 1 2)]

theorem witness_ContractAndAttentionComplete_contract :
    ends { wWith wMx with parts := [{ wPart with launches := [wFoot] }], mem := wContract } (do
    let t ← getT
    armCheck (.contract yes wTrig 7 1 0) 2 none
    let hd ← useHandle 1
    need (t.mx.rows ≠ [] ∧ yes.pn = false)
    let a ← checkAccess hd (t.rs 7).toNat 128 .read 64
    let l ← readTileBytes hd a 128
    match ContractBlock.of (zeroBad l) with
    | none => need False
    | some k =>
      let x ← contractTile true k.a
      let y ← contractTile true k.b
      let z ← contractTile false k.c
      need ((mxInfer x.m.cap y.m.cap false k.sat).mismatch = none)
      contractShape k.exts k.a x
      contractShape k.exts k.b y
      contractShape k.exts k.c z
      contractSource x
      contractSource y
      need (mxRefused x.m.cap.f = false ∧ mxRefused y.m.cap.f = false ∧ contractTarget z.m.cap = true ∧ z.m.cap.ro = false ∧ t.tptrap = false ∧
        k.sat = false ∧ k.acc = true)
      let (mx, _) ← contractMeta x k.a k.c.letters
      let (my, _) ← contractMeta y k.b k.c.letters
      contractSourceElems x mx
      contractSourceElems y my
      checkEach (contractElem z.m ⟨[], []⟩ .read) [0, 1]
      checkEach (contractElem z.m ⟨[], []⟩ .write) [0, 1]
      need (x.m.cap.count = 2 ∧ y.m.cap.count = 2 ∧ z.m.cap.count = 2)
      let _ ← checkStatic z.m.h z.m.o 64 .write 64
      let rs ← footprintSet 0
      let armed ← armTake none
      let _ ← issueJob .contract .mx (some 23) none rs none [] none
      need (armed = none)
      let _ ← getT) = true := by decide +kernel

/-- The task of the KV witnesses with rows on its unit and on the partner. -/
def wAttnTask : Task := { wKvTask with mx := wKvTask.mx.attach [0] [0] }

/-- A pool with sequence 5, and in h7 a parameter block at 0, a query of one row at 0x1000 and an output at 0x2000. -/
def wAttn : List Host.Cell := wCells
  [(0, wHeader), (256, (wDesc 5 19 2).bytes), (0x1000, (wBlock 5 0 16).bytes), (0x1020, (wBlock 5 1 3).bytes), (0x1184, leBytes 4 1),
   (0x700000, leBytes 2 0x0100 ++ leBytes 14 0 ++ leBytes 8 256 ++ [1, 7, 7] ++ leBytes 5 0 ++ leBytes 8 0x1000 ++ leBytes 8 0x2000),
   (0x701000, wDense (.uint 8) 1 127 128), (0x702000, wDense (.fp fp32) 1 127 128)]

theorem witness_ContractAndAttentionComplete_attn : forced wAttn (fun m => ends { wKv m with tasks := [wAttnTask] } (do
    let t ← getT
    armCheck (.attn yes ⟨none, 3⟩ 18 9 7) 2 none
    let hd ← useHandle 7
    need (activeQ yes t = true ∧ t.mx.rows ≠ [] ∧ t.mx.prows ≠ [])
    let a ← checkAccess hd (t.rs 9).toNat 64 .read 64
    let l ← readTileBytes hd a 64
    let b := AttnBlockParams.of (zeroBad l)
    need (b = ⟨false, none, 0, 0, 0, 256, 1, 7, 7, 0x1000, 0x2000⟩)
    let k ← openPool 1 [256] false []
    need (k = wK)
    let d ← readDesc wK 256
    need (attnBlockOk (zeroBad l) = true ∧ (⟨none, 3⟩ : Trig).tag ≤ 3)
    need (d = wDesc 5 19 2 ∧ 0 < (Cap.of wK.bcap).ext 1 / 2)
    let q ← attnTileOf 7 0x1000
    let o ← attnTileOf 7 0x2000
    attnCaps t (Cap.of wK.bcap) q o
    need (q.m.cap.ext 1 ≤ t.mxRows ∧ q.m.cap.ext 1 ≤ t.mxProws ∧ q.m.cap = { Cap.blank with fmt := 0x87, rank := 1, d0 := 127 } ∧ q.m.o = 0x1000 ∧
      q.m.poff = 64 ∧ o.m.cap = { Cap.blank with fmt := (Fmt.fp fp32).code, rank := 1, d0 := 127 } ∧ o.m.o = 0x2000 ∧ o.m.poff = 64)
    checkEach (contractElem q.m ⟨[], []⟩ .read) (List.range 128)
    checkEach (contractElem o.m ⟨[], []⟩ .write) (List.range 128)
    need (q.m.cap.count = 128 ∧ o.m.cap.count = 128)
    let _ ← checkStatic o.m.h o.m.o 64 .write 64
    let all ← resolveAll wK (wDesc 5 19 2) [0, 1]
    need (all = wBlocks)
    checkEach (fun (x : AttnBlock) => do let _ ← checkStatic wK.h x.off (64 + x.fill * wK.tokb) .read 1; pure ()) (attnBlocks wK wBlocks)
    let armed ← armTake none
    let u ← getT
    need (armed = none ∧ u.ocmx < 65535))) = true := by decide +kernel

/-! ## Witnesses: engines, the matrix queue, the sequencer -/

/-- A gather of v3 that has one access to make, or none. -/
def wGather (h : Handle) (l : List Elem) : Job :=
  { wCopy 8 with kind := .gather 3 0x87 h l, cls := .ld, promise := none, regions := [⟨.hbm, 0, 0, 2 ^ 24, false⟩] }

/-- The state with a job of the task. -/
def wJob (t : Task) (j : Job) : State := { wWith t with jobs := [j] }

/-- The accesses that a forager makes and that pauses it; a job with all its accesses made; a paused job, and its retry. -/
theorem witness_EngineStepsComplete_forager :
    let g := wGather (wHandle 0x100000 .hbm) [⟨0, 64, 0⟩]
    let f := wGather (wHandle (2 ^ 40) .hbm) [⟨0, 64, 0⟩]
    let p : Job := { g with paused := some (cLPF, 64) }
    let f := { f with regions := [⟨.hbm, 0, 2 ^ 40, 2 ^ 24, false⟩] }
    let d := wGather (wHandle 0 .hbm) []
    (wJob wVec g).job? 0 = some g ∧ (wJob wVec g).task? g.task = some wVec ∧ (wJob wVec g).foragerReady wVec g = true ∧
    (match engineRun (wJob wVec g) wVec (foragerStep g) with | .ok _ => true | .error _ => false) = true ∧
    (wJob wVec f).foragerReady wVec f = true ∧
    (match engineRun (wJob wVec f) wVec (foragerStep f) with | .error (.page _ _) => true | _ => false) = true ∧
    d.progress = 0 ∧ wVec.place = .vlc ∧ d.paused = none ∧ d.arriving = false ∧ g.arriving = false ∧ (wJob wVec d).jobFree d = true ∧ ({ d with input := none } : Job).input = none ∧
    (let s := (wJob wVec p).endPause p
     (s.job? 0).any (fun j => decide (j.kind = g.kind ∧ s.task? j.task = some wVec ∧ s.foragerReady wVec j = true) &&
        (match engineRun s wVec (foragerStep j) with | .ok _ => true | .error _ => false)) = true) := by decide +kernel

/-- A scatter, a scatter-add and streams whose accesses are done, and a task that is swapped out. -/
theorem witness_EngineStepsComplete_done :
    let h := wHandle 0 .hbm
    let job (k : JobKind) : Job := { wCopy 8 with kind := k, cls := .st, promise := none }
    let q (st : QState) : Task := wVec.setQueue 0 { st := st, fmt := 0x87, elems := [], count := 1, moved := 1, written := 1, job := 0 }
    (∀ k ∈ ([.scatter 0x87 h [], .scata 0x87 .rne h []] : List JobKind), (wJob wVec (job k)).jobFree (job k) = true ∧ (job k).paused = none ∧
      (job k).progress = 0) ∧
    (∀ x ∈ [(true, QState.inbound), (false, .outbound)], let j := job (.stream x.1 0 0x87 h 0 1 1)
      let s := wJob (q x.2) j
      s.job? 0 = some j ∧ j.arriving = false ∧ s.task? j.task = some (q x.2) ∧ s.jobFree j = true ∧ ((s.finishJob j).task? j.task).isSome = true) ∧
    (let t : Task := { wVec with place := .shadow 0 }
     let j := job (.scatter 0x87 h [])
     (wJob t j).task? j.task = some t ∧ t.isEnding = false ∧ j.arrival = none ∧ wVec.place = .vlc) := by decide +kernel

/-- Jobs that arrive: at an object in HBM, sound and corrupt, at one in POOL, and one whose BAREVT is sent. -/
theorem witness_EngineStepsComplete_arrival :
    let x : Arrival := { handle := wBarrierHandle, addr := 0x100000, phys := 0x100000, gen := 1 }
    let j : Job := { wCopy 8 with arrival := some x }
    let p : Arrival := { x with handle := { wHandle (2 ^ 50) .pool with policy := 2, bar := true }, addr := 2 ^ 50, phys := Config.poolBase }
    x.stage ≠ .sent ∧ x.handle.space ≠ .pool ∧ p.handle.space = .pool ∧ ({ p with stage := .sent } : Arrival).stage = .sent ∧
    ({ wBarrier 1 0 with jobs := [j] }.job? 0) = some j ∧ { wBarrier 1 0 with jobs := [j] }.task? j.task = some wTask ∧
    (match engineRun (wBarrier 1 0) wTask (arriveFor x) with | .ok (d, s) => d.isEmpty && (s.job? 0).isNone | _ => false) = true ∧
    (match engineRun wState wTask (arriveFor x) with | .ok (d, _) => d == [(cBARCORRUPT, w64 0x100000)] | _ => false) = true := by
  decide +kernel

/-- A copy and an HSRD that are ready. -/
theorem witness_EngineStepsComplete_moves :
    let c : Job := { wCopy 8 with regions := [⟨.hbm, 0, 0, 2 ^ 24, true⟩], kind := .copy (wHandle 0x100000 .hbm) (wHandle 0x100000 .hbm) 0 64 8 1 0 0 }
    let r : TileRef := { h := wHandle 0 .honey, o := 0x1000, cap := { Cap.blank with fmt := 0x87, d0 := 1 }.bits, poff := 64, soff := 0, moff := 0,
                         md := [], maps := [] }
    let h : Job := { wCopy 8 with kind := .hsrd 3 r [(0, 0), (1, 1)], cls := .ld, promise := none }
    let s := wJob wVec h
    (wJob wVec c).copyReady wVec c = true ∧
    (match engineRun (wJob wVec c) wVec (moveBytes c (wHandle 0x100000 .hbm) (wHandle 0x100000 .hbm) (stridedAddr (wHandle 0x100000 .hbm) 0 0 8)
        (stridedAddr (wHandle 0x100000 .hbm) 64 0 8) 0 8) with
      | .ok ((_, e, _), _) => (match e with | .done => true | _ => false) | .error _ => false) = true ∧
    { s with refreshing := none }.canComplete wVec h = true ∧
    (match engineRun s wVec (hsrdElems r [(0, 0), (1, 1)]) with
      | .ok ((_, none), s₁) => (s₁.task? wVec.id).isSome | _ => false) = true := by decide +kernel

/-- An operation of the matrix queue, free or armed. -/
def wOp (kind : MxKind) (armed : Option Nat) : MxOp :=
  { kind := kind, armed := armed, tag := some 7, step := 0, paused := none, flags := 0, dues := [], since := 0, rows := [] }

/-- An MXMAC of one row, one column and one step. -/
def wMac : MacOp :=
  { t := 0, va := 1, capsA := [wVec.reg! 1 |>.cap, wVec.reg! 2 |>.cap], b := .comb 2 [wVec.reg! 2 |>.cap, wVec.reg! 3 |>.cap], rm := .rne, sat := false,
    m := 1, n := 1, koff := 0, kcnt := 2, d := 2, fp := false, active := 1, vl := 64 }

/-- An MXSCL that has begun, of a task that is to stop; MXZERO at the head; an MXMAC of two steps and at its last; an MXRD that does not translate. -/
theorem witness_MatrixStepsComplete :
    let q (o : MxOp) : Task := { wMx with mx := { wMx.mx with queue := [o] } }
    let z := wOp (.zero 0) none
    let m := wOp (.mac wMac) none
    let l : MxOp := { m with step := 1 }
    let r := wOp (.rd 1 (wHandle (2 ^ 40) .hbm) 0 0) none
    let b : MxOp := { wOp (.scl (wHandle 0x100000 .hbm) 0) none with elem := 1 }
    let w : Task := { q b with stop := some .preempt }
    b.midway = true ∧ w.present = true ∧ w.working = false ∧ w.stopped = false ∧ nextQueueOp w.mx.queue = some (0, b) ∧
    (wWith w).mxReady w b = true ∧
    wMx.working = true ∧ nextQueueOp (q z).mx.queue = some (0, z) ∧ (wWith (q z)).mxReady (q z) z = true ∧ nextMac (q m).mx.queue = some m ∧
    (wWith (q m)).mxReady (q m) m = true ∧ nextQueueOp (q r).mx.queue = some (0, r) ∧
    (match engineRun (wWith (q z)) (q z) (mxStepIn z) with
      | .ok (.done o, s) => o.tag == some 7 && (s.task? 0).isSome | _ => false) = true ∧
    (match engineRun (wWith (q m)) (q m) (mxStepIn m) with
      | .ok (.more o, s) => o.step == 1 && (s.task? 0).isSome | _ => false) = true ∧
    (match engineRun (wWith (q l)) (q l) (mxStepIn l) with | .ok (.done _, _) => true | _ => false) = true ∧
    (match engineRun (wWith (q r)) (q r) (mxStepIn r) with | .ok (.paused .., _) => true | _ => false) = true ∧
    (match engineRun (wWith (q z)) (q z) (mxStep z) with
      | .ok (.done o, s) => decide (o = z ∧ s.curTask = some { q z with mx := (q z).mx.clearTile 0 }) | _ => false) = true := by decide +kernel

/-- A CONTRACT whose points are all written: its job is there to finish. -/
theorem witness_MatrixStepsComplete_contract :
    let r (o : Nat) (f : Fmt) : TileRef := { h := wHandle 0x100000 .hbm, o := o, cap := { Cap.blank with fmt := f.code, d0 := 1 }.bits, poff := 64,
                                              soff := 0, moff := 0, md := [], maps := [] }
    let c : ContractOp := { job := 0, acc := false, sat := false, rm := .rne, t := 0, exts := [2], a := r 0x2000 (.uint 8), b := r 0x2100 (.uint 8),
                            c := r 0x2200 (.sint 32), la := [0], lb := [0], lc := [0], d := 1, fp := false }
    let o : MxOp := { wOp (.contract c) none with step := 2 }
    let t : Task := { wMx with mx := { wMx.mx with queue := [o] } }
    let j : Job := { wCopy 8 with kind := .contract, cls := .mx, promise := none, regions := [⟨.hbm, 0, 0, 2 ^ 24, true⟩] }
    (match engineRun (wJob t j) t (mxStepIn o) with
    | .ok (.done o', s₁) => (match o'.kind with | .contract c' => c'.job == 0 | _ => false) && (s₁.job? 0).isSome && (s₁.task? t.id).isSome
    | _ => false) = true := by decide +kernel

/-- What an instruction holds at a pass. -/
def wHeld (i : Instr) (total : Nat) (sum : Option (Nat × Word)) : Resume :=
  { capture i yes wVec with total := total, sum := sum }

/-- A VAND word at the pc, held at its second pass and at its last; a lane held while the sequencer serves another; a sum; exchanges. -/
theorem witness_SequencerStepsComplete :
    (match combOf (.vand yes 3 1 (.vec 2) none) with
     | none => false
     | some (p, c) =>
      (match c.prep wVec (wWith wVec) with
       | .error _ => false
       | .ok (r, _) => ([1, r.total - 1] : List Nat).all (fun k =>
          let t : Task := { wVec with vstart := BitVec.ofNat 32 k, resume := some r }
          let s : State := { wWith t with cur := none, mem := memWriteN [] t.pc.toNat ((encode (.vand yes 3 1 (.vec 2) none)).flatMap fun (w : Word) => leBytes 8 w.toNat) }
          decide (s.servesPass t = true ∧ s.part? t.vf = some wPart ∧ laneActive c.lanes p t = true ∧ t.combsTaken = false ∧
            t.held (.vand yes 3 1 (.vec 2) none) = some r ∧ r.sum = none ∧ r.loading = false ∧ 1 < r.total ∧ exchangesOf r = 0 ∧ c.whole = false ∧
            c.parityError r k { t with linear := false } = none) &&
          (match (s.fetch t wPart : Issue × State) with | (.run j, s₁) => decide (j = Instr.vand yes 3 1 (.vec 2) none ∧ s₁.task? 0 = some t) | _ => false) &&
          (match c.load r t s with | .ok ((x, none), s₁) => decide (x = r ∧ s₁ = s) | _ => false)))) = true ∧
    (let t : Task := { wVec with linear := true }; (wWith t).servesPass t = false) ∧
    (let r := wHeld (.vpop yes 1 1 0) 1 (some (63, 9)); ({ wVec with resume := some r } : Task).resume = some r ∧ r.sum = some (63, 9) ∧ (63 : Nat) < 64) ∧
    (let r := wHeld (.vperm yes 3 1 4 none) 1 none; r.exchanges < exchangesOf r ∧ ¬({ r with exchanges := 2 } : Resume).exchanges < exchangesOf r) := by
  decide +kernel

/-! ## Witnesses: launches, draws, swaps, notices -/

/-- A launch queue of 16 cards at 0x20000 of HBM, with one card to fetch; tickets 1. -/
def wLq : LaunchQueue := ⟨0x20000 / 128, false, false, true, 4, 1, 1, 0, 0⟩

/-- The partition of that queue, with some launches. -/
def wLqPart (l : List Launch) : Partition := { wPart.setQueue 0 wLq with launches := l, nextLaunch := 1 }

/-- A card of version `v` with one stage and one level of extent 4: image at 0x30000, stage table at 0x31000, record at `compl`. -/
def wCard (v compl : Nat) : List Byte :=
  leBytes 2 v ++ [1, 1] ++ leBytes 4 0 ++ leBytes 8 0x30000 ++ leBytes 8 9 ++ leBytes 8 4 ++ leBytes 24 0 ++ leBytes 8 0x31000 ++
    leBytes 24 0 ++ leBytes 8 compl ++ leBytes 32 0

/-- Memory with that card, an image header and a stage. -/
def wCardMem (v compl : Nat) : List Host.Cell :=
  memWriteN (memWriteN (memWriteN [] 0x20000 (wCard v compl)) 0x30000 (leBytes 4 0x4C484D45 ++ [0, 1, 0, 0] ++ leBytes 8 0x1000)) 0x31000
    (leBytes 8 0x30080 ++ [0, 0, 0, 0] ++ leBytes 4 1 ++ leBytes 16 0)

/-- CARD_FETCH of a card that starts a launch, of one whose version is unknown, and of one whose record is not aligned. -/
theorem witness_LaunchStepsComplete_fetch : [(0x0100, 0x32000, 0), (0x0200, 0x32000, 1), (0x0100, 0x32001, 2)].all (fun c =>
    let q := wLqPart []
    let p₀ : Partition := { q.setQueue 0 { wLq with cons := 1 } with serials := q.serials.set 0 1 }
    let s : State := { wState with parts := [q], tasks := [], mem := wCardMem c.1 c.2.1 }
    decide (s.part? 1 = some q ∧ s.mayFetch q 0 = true ∧ s.mayFetch q 1 = false) &&
    (match (s.setPart p₀).cardRead p₀ 0x20000 128 with
     | .error _ => false
     | .ok (b, s₁) =>
       ((Card.of b).addrsOk == (c.2.2 != 2)) &&
       (match s₁.checkCard p₀ 0 0 (Card.of b) with
        | .ok (_, s₂) => c.2.2 != 1 && (s₂.part? 1).isSome
        | .error (⟨r, none⟩, _) => c.2.2 == 1 && r == 1
        | .error _ => false))) = true := by decide +kernel

/-- A launch whose points have all been created, and one with points left; COMB_CLEAR of a task that is not cleared. -/
theorem witness_LaunchStepsComplete_end :
    let l : Launch := { wLaunch 0 false with nexts := [4], start := some 5 }
    let q := wLqPart [l]
    let s := { wState with parts := [q], tasks := [] }
    let u : Task := { wTask with cleared := false }
    s.part? 1 = some q ∧ q.launch? 0 = some l ∧ s.launchDone q l = true ∧ l.start ≠ none ∧ s.launchDone q (wLaunch 0 false) = false ∧
    (wWith u).task? 0 = some u ∧ u.cleared = false ∧
    ((State.writeRecord { s.releasePartition q with fresh := s.fresh + 1 } 1 l.queue l.compl l.irq (recordBytes 0 0 1 5 0)).part? 1).isSome := by
  decide +kernel

/-- A draw with one eligible queue, by its ticket and by its age of 4,096; where the task goes. -/
theorem witness_DrawsAndEpochsComplete :
    let l : Launch := { wLaunch 0 false with nexts := [1] }
    let q := wLqPart [l]
    let s := { wState with parts := [q], tasks := [] }
    let old := q.setQueue 0 { wLq with age := 4096 }
    let x : Placing := ⟨l, 0, some 0, 0⟩
    s.part? 1 = some q ∧ s.drawDue q = true ∧ s.eligible q = [(0, x)] ∧ q.winner [0] (lottery q.lseed) = some 0 ∧ (old.queue 0).age = 4096 ∧
    s.freeRun 0 16 = some 0 ∧ s.freeVlc 0 = some 0 ∧ s.freeSlot q = some 0 ∧ (l.stage 0).combs = 16 ∧ x.stage = 0 ∧
    (∀ p ∈ ({ s with parts := [{ q with psState := 2 }] } : State).parts, p.psState ≠ 0) := by decide +kernel

/-- A draw with two eligible queues: the second by its tickets, and by its age where the first has another. -/
theorem witness_DrawPlacesOneTask_second :
    let l : Launch := { wLaunch 0 false with nexts := [1] }
    let q := (wLqPart [l, { l with id := 1, queue := 1 }]).setQueue 1 { wLq with tickets := 0xFFFF }
    let s := { wState with parts := [q], tasks := [] }
    let n := (lottery q.lseed).toNat % 65536
    s.part? 1 = some q ∧ s.drawDue q = true ∧ (s.eligible q).map (·.1) = [0] ++ 1 :: [] ∧ (∀ j ∈ [0, 1], (q.queue j).age ≠ 4096) ∧
    1 ≤ n ∧ n < 1 + 65535 ∧ ((q.setQueue 1 { wLq with age := 4096 }).queue 1).age = 4096 ∧ q.winner [0, 1] (lottery q.lseed) = some 1 := by
  decide +kernel

/-- The first instruction after a restore: of a task that may take the notice, of one that has it off, and of one in a handler. -/
theorem witness_SwapAndRestoreComplete_first :
    (∀ x ∈ [(true, false), (false, false), (true, true)], let t : Task := { wTask with restored := some (cPREEMPTED, none), tnote := x.1, tin := x.2 }
      (wWith t).task? 0 = some t ∧ (wWith t).part? t.vf = some wPart ∧ t.restored = some (cPREEMPTED, none)) := by decide +kernel

/-- A task that is stopped, for a fault and for another cause, while the partition runs and while it saves; one to restore. -/
theorem witness_SwapsAndPartitionSavesComplete_tasks :
    let t (why : StopFor) : Task := { wTask with stop := some why }
    let f (why : StopFor) : Task := { wTask with place := .frame why 0 true }
    (∀ why ∈ [StopFor.preempt, .fault cLPF 64], (t why).stopped = true ∧ ((wWith (t why)).settleStores (t why) wPart).task? 0 ≠ none ∧
      (((wWith (t why)).settleStores (t why) wPart).task? 0).any (fun u => !((wWith (t why)).settleStores (t why) wPart).unsettled u) = true ∧
      (wWith (t why)).part? 1 = some wPart ∧ (wWith (f why)).restorable (f why) = true ∧ (wWith (f why)).freeRun 0 (f why).combs ≠ none ∧
      (wWith (f why)).freeVlc 0 ≠ none) ∧
    wPart.psState = 0 ∧ ({ wPart with psState := 1 } : Partition).psState ≠ 0 ∧ wPart.pfdones.contains wTask.slot = false ∧ wTask.stop = none ∧
    wState.restorable wTask = false := by decide +kernel

/-- A stopped task whose queued store has no translation now. -/
theorem witness_SwapsAndPartitionSavesComplete_unsettled :
    let t : Task := { wTask with stop := some .preempt, stores := [wStore (2 ^ 40)], ocst := 1 }
    let s := (wWith t).settleStores t wPart
    t.stopped = true ∧ (s.task? 0).any (fun u => s.unsettled u) = true := by decide +kernel

/-- A partition in each state of a save, with no task left in a VLC, and with one. -/
theorem witness_SwapsAndPartitionSavesComplete_partitions :
    let q (n : BitVec 2) : Partition := { wPart with psState := n }
    let s (n : BitVec 2) : State := { wState with parts := [q n], tasks := [] }
    (s 0).part? 1 = some (q 0) ∧ (q 0).psState = 0 ∧ (q 1).psState ≠ 0 ∧ (s 1).saveDone (q 1) = true ∧
    { wState with parts := [q 1] }.saveDone (q 1) = false ∧ (q 2).psState = 2 ∧ (q 2).psState ≠ 3 ∧ (q 3).psState = 3 ∧ (q 3).pfdones = [] := by
  decide +kernel

/-- A partition with a notice: room in its ring at the last place, no room, and a ring that is not mapped. -/
theorem witness_NoticesAndFetchFaultsComplete :
    let n : Notice := { cause := cLPF, engine := false, unhandled := false, double := false, frame := 0, ntask := 0, ntval := 0, nhive := 0, task := none,
                        svc := false }
    let q : Partition := { wPart with notices := [n], snqprod := 4095 }
    let far : Partition := { q with snqbase := 2 ^ 30 }
    let full : Partition := { q with snqcons := 0xFFFFFFFF }
    let s := { wState with parts := [q] }
    s.part? 1 = some q ∧ (q.snqprod - q.snqcons).toNat < 4096 ∧ 4096 ≤ (full.snqprod - full.snqcons).toNat ∧ wPart.notices = [] ∧
    (match State.devWrite q (32 * 4095) n.bytes s with | .ok _ => true | .error _ => false) = true ∧
    (match State.devWrite far (2 ^ 47 + 32 * 4095) n.bytes { wState with parts := [far] } with | .ok _ => false | .error _ => true) = true ∧
    s.task? 0 = some wTask ∧ wTask.vf = 1 ∧ ({ wTask with stop := some .preempt } : Task).stop.isSome = true ∧ wTask.stop = none ∧
    (match s.icLine (wTask.ctx q) 0x10000 with | .ok _ => true | .error _ => false) = true ∧
    (match s.icLine (wTask.ctx q) (2 ^ 40) with | .error .unmapped => true | _ => false) = true ∧
    (match { s with tlb := [⟨true, 0, 0, 2 ^ 35, 0, { wLeaf with x := false }⟩] }.icLine (wTask.ctx q) 0x10000 with
      | .error .denied => true | _ => false) = true := by decide +kernel

/-- A notice of the task, of an SVC or of its end. -/
def wNotice (svc : Bool) : Notice :=
  { cause := cSWTRAP, engine := false, unhandled := !svc, double := false, frame := 0, ntask := 0, ntval := 0, nhive := 0, task := some 0, svc := svc }

/-- The task waits as given, and some notices are to be written into a ring at a place. -/
def wNoticed (l : List Notice) (w : WaitFor) (base : BitVec 39) : State :=
  { wWith { wTask with wait := some w } with parts := [{ wPart with notices := l, snqbase := base }] }

/-- The oldest notice is written, or cannot be, and the task still waits as it did. -/
def wWritten (s : State) : Bool :=
  match s.part? 1 with
  | none => false
  | some q =>
    match State.devWrite q (q.snqbase.toNat * 2 ^ 17) (wNotice true).bytes s with
    | .ok s₁ => decide (s₁.part? 1 = some q) && (s₁.task? 0).any fun u => u.wait.isSome && u.vf == 1
    | .error _ => (s.task? 0).any fun u => u.wait.isSome && u.vf == 1

/-- The notice of an SVC, and the last notice of a task that is to end and one that is not its last; written, and not. -/
theorem witness_NoticesAndFetchFaultsComplete_tasks : ([0, 2 ^ 30] : List (BitVec 39)).all (fun base =>
    wWritten (wNoticed [wNotice true] (.notice (.svc yes 5 1) 5) base) && wWritten (wNoticed [wNotice false] .leaving base) &&
    wWritten (wNoticed [wNotice false, wNotice false] .leaving base)) = true := by decide +kernel

/-! ## Witnesses: clocks, keeper, ports, caches -/

/-- A READY bit that may be set, that is set, and that may not; each thermal hold; with an image for the next reset and without. -/
theorem witness_ClocksAndResetsComplete :
    ({ State.reset with ports := State.reset.ports.set 8 { Port.reset with up := true } } : State).mayBeReady 0 = true ∧ State.reset.mayBeReady 0 = false ∧
    (1919 : Word).toNat % 1536 < 384 ∧ 384 ≤ (1920 : Word).toNat % 1536 ∧ State.reset.ready.getLsbD 0 = false ∧ wState.mayBeReady 25 = true ∧ wState.ready.getLsbD 27 = true ∧
    State.reset.mayBeReady 1 = false ∧ State.reset.mayBeReady 28 = false ∧ State.reset.mayBeReady 27 = false ∧ State.reset.thermalHold = false ∧
    ({ State.reset with thermalHold := true } : State).thermalHold = true ∧ State.reset.keeper.nextImage = none ∧ (27 : Nat) < 28 ∧
    ({ State.reset.keeper with nextImage := some [1] } : Keeper).nextImage = some [1] ∧ ({ State.reset with keeper := { Keeper.reset with powerLimit := 410 } } : State).stepFits 13 = false := by decide +kernel

/-- The keeper ready; idle and busy; each status of PCREATE; partitions in each state, with a task and an enabled queue and without. -/
theorem witness_KeeperCommandsComplete_start :
    let k (f : Keeper → Keeper) : State := { wHost with keeper := f { Keeper.reset with cfgstat := 1 }, tasks := [] }
    let b := k fun x => { x with busy := true, mbcmd := 8 }
    let s := k id
    let q (n : BitVec 2) : Partition := { wPart with psState := n }
    let l := wLaunch 0 false
    s.portLive 8 = true ∧ wState.portLive 8 = false ∧ b.keeper.busy = true ∧ b.keeper.mbcmd = 8 ∧ b.portLive 8 = true ∧ b.keeper.later = none ∧
    s.keeper.busy = false ∧ s.ready.getLsbD 27 = true ∧ (k fun x => { x with busy := true }).keeper.busy = true ∧ State.reset.ready.getLsbD 27 = false ∧
    s.createStatus 64 64 2 1 0 = 0 ∧ s.createStatus 1 64 2 1 0 = 1 ∧ s.createStatus 0 64 2 1 0 = 2 ∧ wState.createStatus 64 64 2 1 0 = 3 ∧
    s.part? 1 = some wPart ∧ s.part? 9 = none ∧ (∃ t ∈ wState.tasks, t.vf = wPart.vf) ∧ (∃ n < 16, ((wLqPart []).queue n).en = true) ∧
    s.tasks = [] ∧ (∀ n < 16, (wPart.queue n).en = false) ∧ (q 0).psState = 0 ∧ (q 2).psState = 2 ∧ (q 1).psState ≠ 0 ∧ (q 1).psState ≠ 2 ∧
    ({ wPart with launches := [l] } : Partition).launches.find? (fun l => l.queue == 0 && l.serial == 0 && !l.killed) = some l ∧
    wPart.launches.find? (fun l => l.queue == 0 && l.serial == 0 && !l.killed) = none := by decide +kernel

/-- CFGSTAT 1 and not, with an image longer than the window; a running command with its status known, and of each kind that ends later. What
a verdict on an image is, is free. -/
theorem witness_KeeperCommandsComplete_end :
    let k (n : Word) (r : Option Nat) : Keeper := { Keeper.reset with busy := true, mbcmd := n, result := r, run := Vector.replicate 15 1 }
    let s (q : Partition) (n : Word) (r : Option Nat) : State := { wHost with parts := [q], keeper := k n r, ready := 0, failed := 0 }
    let q (n : BitVec 2) : Partition := { wPart with psState := n }
    let l := { wLaunch 0 false with queue := 1, serial := 1 }
    ({ Keeper.reset with cfgstat := 1 } : Keeper).cfgstat = 1 ∧ Keeper.reset.cfgstat ≠ 1 ∧ 0x80000 < (0x80001 : Word).toNat ∧
    (0x80000 : Word).toNat ≤ 0x80000 ∧ (s wPart 1 (some 3)).keeper.busy = true ∧ (s wPart 1 (some 3)).keeper.result = some 3 ∧
    State.reset.keeper.busy = false ∧ (s wPart 3 none).keeper.result = none ∧ (s (q 2) 3 none).part? ((s (q 2) 3 none).keeper.arg 0) = some (q 2) ∧
    (s wPart 3 none).keeper.mbcmd = 3 ∧ (s wPart 4 none).keeper.mbcmd = 4 ∧ (s wPart 10 none).keeper.mbcmd = 10 ∧ (q 2).psState = 2 ∧
    (q 0).psState = 0 ∧ (q 3).psState ≠ 2 ∧ (q 3).psState ≠ 0 ∧ wPart.launches = [] ∧
    (∃ x ∈ ({ wPart with launches := [l] } : Partition).launches, x.queue = (s wPart 10 none).keeper.arg 1 ∧ x.serial = (s wPart 10 none).keeper.arg 2) ∧
    (s wPart 3 none).portLive 8 = true ∧ wState.portLive 8 = false ∧ (s wPart 3 none).keeper.later = none ∧ (s wPart 8 none).keeper.mbcmd = 8 ∧
    ({ k 8 none with later := some (Vector.replicate 15 1) } : Keeper).later ≠ none ∧ (s wPart 8 none).dieLines = [] ∧
    (s wPart 8 none).portAnswers 8 = true ∧ wState.portAnswers 8 = false ∧ (s wPart 8 none).keeper.arg 1 = 1 ∧
    ({ k 8 none with run := Vector.replicate 15 0 } : Keeper).arg 1 = 0 ∧
    (s wPart 8 none).keeper.arg 0 + (Config.honeyEnd + Config.hbmEnd) ≤ 2 ^ 48 ∧
    ({ wHost with everReady := bit28 25, ready := 0 } : State).honeyDead = true ∧ wHost.honeyDead = false ∧
    ({ wHost with failed := bit28 17 } : State).hbmFailed 0 = true ∧ wHost.hbmFailed 0 = false ∧
    (s wPart 3 none).failed.getLsbD 27 = false ∧ (s wPart 3 none).ready.getLsbD 27 = false := by
  decide +kernel

/-- A port that is up, with a version, and a window of 1 MiB onto HBM in address space 1. -/
def wPort : Port :=
  { Port.reset with up := true, version := 0x0101, windows := [(0, ⟨0, 0x100000, 1, 0x100000, true, true, true⟩)] }

/-- The state with that port 0, whose partition runs a swarm launch of GEN 5. -/
def wPorts : State := { wState with
  ports := (wState.ports.set 0 wPort).set 8 { Port.reset with up := true }
  parts := [{ wPart with launches := [{ wLaunch 0 false with gen := some 5 }] }]
  mem := memWriteN [] 0x100000 (Barrier.bytes ⟨1, 2, 0, 0, 0⟩) }

theorem witness_LinksAndRemoteAccessesComplete_links :
    let s := wPorts
    let a : State := { State.reset with keeper := { Keeper.reset with cfgstat := 1 } }
    a.keeper.cfgstat = 1 ∧ a.ready.getLsbD (1 + 7) = false ∧ State.reset.keeper.cfgstat ≠ 1 ∧ (s.port 0).up = true ∧ (s.port 8).up = true ∧
    (s.port 7).up = false ∧ max 0x0100 0x0100 ≤ min 0x0100 0x0101 ∧ min 0x00FF 0x0101 < max 0x0001 0x0100 ∧ s.takesMessages 0 = true ∧
    0x0101 ≤ (s.port 0).version ∧
    (let t : State := { s with ports := s.ports.set 0 { wPort with version := 0x0100 } }; t.takesMessages 0 = true ∧ (t.port 0).version < 0x0101) ∧
    (s.portLive 8 = true ∧ s.portLive 0 = true ∧ (s.port 0).up = true) ∧ s.portLive 7 = false ∧ (s.port 0).mute = false ∧ (s.port 0).told = false ∧
    (let t := s.setPort 0 { wPort with mute := true, told := true }; (t.port 0).mute = true ∧ (t.port 0).told = true ∧ t.portLive 0 = true) ∧
    ((0x21 : Nat) ≠ 0x01 ∧ (0x21 : Nat) ≠ 0x10 ∧ (0x21 : Nat) ≠ 0x11 ∧ (0x21 : Nat) ≠ 0x20) := by decide +kernel

/-- A barrier event of a launch that runs here, and of another; a task that waits for the answer; a load over a port. -/
theorem witness_LinksAndRemoteAccessesComplete_remote :
    let s := wPorts
    let w : Task := { wTask with wait := some (.remote (.bararr yes 5 6 9 1 0) 5 0 true 0x100000) }
    let x := { wPend none with handle := wHandle (2 ^ 50) .pool, addr := 2 ^ 50 }
    let l : Task := { wTask with pend := some x }
    s.takesMessages 0 = true ∧ s.runsGen 6 = false ∧ s.runsGen 5 = true ∧ barEventOf 0 1 = some (.arrive 1) ∧
    (match s.decodeInbound 0 0 64 (fun w => w.r && w.w) with
     | none => false
     | some (q, va) => (match State.devRead q va 64 s with
       | .error _ => false
       | .ok (b, s₁) => !anyBad b && (match barrierApply (bytesOf b) (.arrive 1) with
         | none => false
         | some (b, _) => (match State.devWrite q va b s₁ with
           | .error _ => false
           | .ok s₂ => (match s₂.translate q.ctx va none with | .ok _ => true | .error _ => false))))) = true ∧
    (let j : Job := { wCopy 8 with arrival := some { handle := wHandle (2 ^ 50) .pool, addr := 2 ^ 50, phys := Config.poolBase, gen := 1, stage := .sent } }
     let s : State := { wPorts with jobs := [j] }
     s.takesMessages 0 = true ∧ s.task? j.tag = none ∧ (∀ k ∈ s.jobs, k.tag = j.tag → k = j) ∧ portOf Config.poolBase = 0) ∧
    ((wWith w).task? 0).bind (·.wait) = w.wait ∧ w.wait ≠ none ∧ (wWith l).task? 0 = some l ∧ l.pend = some x ∧ x.handle.remote = true ∧
    (wWith l).part? l.vf = some wPart ∧
    (match (wWith l).translate (l.ctx wPart) x.addr (some x.handle.space) with
     | .error _ => false
     | .ok (e, s₁) => decide (s₁.tasks = (wWith l).tasks ∧ portOf (e.phys x.addr) < 9)) = true ∧ x.size = 4 := by decide +kernel

/-- Requests over the host port, inside HBM, at its end and past it, and with an uncorrectable byte; over a peer's port, inside the window
and past it, where the address space is mapped and where it is not. -/
theorem witness_InboundRequestsComplete :
    let s := wPorts
    let bad : State := { s with badMem := [0x100003] }
    let far (ok : Bool) : State := { s with ports := s.ports.set 0 { wPort with windows := [(0, ⟨0, 0x100000, 1, 2 ^ 40, ok, ok, ok⟩)] } }
    let at8 (s : State) (f : Partition → Nat → Bool) : Bool := match s.decodeInbound 0 (0x100000 - 8) 8 (fun w => w.r && w.w && w.a) with
      | none => false
      | some (q, va) => f q va
    let at0 (s : State) (f : Partition → Nat → Bool) : Bool := match s.decodeInbound 0 0 8 (fun w => w.r && w.w && w.a) with
      | none => false
      | some (q, va) => f q va
    s.portLive 8 = true ∧ Config.hbmEnd - 8 + 8 ≤ Config.hbmEnd ∧ Config.hbmEnd < Config.hbmEnd - 7 + 8 ∧ wState.portLive 8 = false ∧
    (let l (s : State) := (List.range 8).map fun i => s.homeByte (0x100000 + i)
     anyBad (l s) = false ∧ anyBad (l bad) = true ∧ inboundNew 0 8 (leNat (bytesOf (l s))) 1 0 ≠ none ∧
     inboundNew 2 8 (leNat (bytesOf (l s))) 1 0 = none) ∧
    s.evictFrame (0x100000 / 128 * 128) = s ∧
    s.decodeInbound 0 0x100000 8 (·.r) = none ∧ s.decodeInbound 0 0x100000 8 (·.w) = none ∧ s.decodeInbound 0 0x100000 8 (·.a) = none ∧
    (far false).decodeInbound 0 0 8 (·.r) = none ∧ (far false).decodeInbound 0 0 8 (·.w) = none ∧ (far false).decodeInbound 0 0 8 (·.a) = none ∧
    at8 s (fun q va =>
       (match State.devRead q va 8 s with | .ok (l, _) => !anyBad l | .error _ => false) &&
       (match State.devWrite q va [1, 2, 3, 4, 5, 6, 7, 8] s with | .ok _ => true | .error _ => false) &&
       (match State.ctrlRead q va 8 s with
        | .ok (l, s₁) => !anyBad l && (inboundNew 2 8 (leNat (bytesOf l)) 5 1).isNone && (inboundNew 0 8 (leNat (bytesOf l)) 5 1).isSome &&
          (match State.ctrlWrite q va (leBytes 8 5) s₁ with | .ok _ => true | .error _ => false)
        | .error _ => false)) = true ∧
    at0 bad (fun q va => (match State.devRead q va 8 bad with | .ok (l, _) => anyBad l | .error _ => false) &&
      (match State.ctrlRead q va 8 bad with | .ok (l, _) => anyBad l | .error _ => false)) = true ∧
    at0 (far true) (fun q va => (match State.devRead q va 8 (far true) with | .error _ => true | .ok _ => false) &&
      (match State.devWrite q va (leBytes 8 5) (far true) with | .error _ => true | .ok _ => false) &&
      (match State.ctrlRead q va 8 (far true) with | .error _ => true | .ok _ => false)) = true ∧
    s.part? 9 = none ∧ (s.part? 1).isSome ∧ State.reset.ready.getLsbD 0 = false := by decide +kernel

/-- A line of the 128 bytes at 0x100000, with dirty bytes. -/
def wLine (dirty : Nat) : Line := ⟨.virt false 1 (0x100000 / 128), List.replicate 128 7, dirty, wLeaf, 0x100000, [], false⟩

/-- A task with a queued store, in a machine whose hive cache and die cache hold a dirty line each. -/
def wDirty : State := { wWith { wTask with stores := [wStore 0x200000] } with
  hiveLines := [(0, wLine 3)], dieLines := [{ wLine 4 with key := .virt false 1 (0x100080 / 128), frame := 0x100080 }] }

/-- Every fence, SVC and LSYNC. -/
theorem witness_FencesAndCacheMaintenanceComplete_fences : ends wDirty (do
    let t ← getT
    let q ← getP
    need (activeQ yes t = true)
    let s ← getS
    fenceRel .sys
    let s₁ ← getS
    need ((s₁.raiseNotice t.vf { t.notice cSWTRAP 0xFFFFFFFF (t.rs 1) with task := some t.id, svc := true }).curTask.isSome = true)
    setS s
    performOwn
    let u ← getT
    need (u.stores = [] ∧ u.vld = [] ∧ u.vst = [])
    let s₁ ← getS
    need (((s₁.released .pkg (u.ctx q)).curTask.bind fun v => (s₁.released .pkg (u.ctx q)).part? v.vf).isSome = true)) = true := by decide +kernel

/-- A task with a vector load, a vector store, and a store that is not mapped, that are not performed. -/
theorem witness_FencesAndCacheMaintenanceComplete_held :
    ([{ wTask with vld := [⟨none, 0⟩] }, { wTask with vst := [0] }, { wTask with stores := [wStore (2 ^ 40)] }] : List Task).all (fun t =>
      (((wWith t).drainStores t.id t.stores.length).curTask.any fun u => decide (u.stores ≠ [] ∨ u.vld ≠ [] ∨ u.vst ≠ []))) = true := by
  decide +kernel

/-- CFLUSH and CINV of 8 bytes and of none, at two scopes, and in another space. -/
theorem witness_FencesAndCacheMaintenanceComplete_lines : [(1, 1), (1, 9), (2, 1)].all (fun c => ends wDirty (do
    let t ← getT
    let q ← getP
    let hd ← useHandle c.1
    let n := (t.rs c.2).toNat
    checkBound hd (t.rs 9).toNat n
    need (hd.r = true ∧ hd.w = true ∧ (hd.space ≠ .hbm ∨ n = 0 ∨ n = 8))
    let s ← getS
    cleanLines (t.ctx q) (s.hiveLines.filter fun k => k.2.dirty != 0 && scopeHive .pkg t q k.1 && k.2.inRange q.asid.toNat (hd.addr 0) n)
    let s ← getS
    cleanDieLines (t.ctx q) (s.dieLines.filter fun l => l.dirty != 0 && l.inRange q.asid.toNat (hd.addr 0) 256))) = true := by decide +kernel

/-- A dirty line that is evicted to the die cache's line; a line that is prefetched. -/
theorem witness_CacheStepsComplete :
    let d : State := { wDirty with dieLines := [wLine 4] }
    let s := wState.fillDie (wTask.ctx wPart) 0x100000
    d.hiveLines.find? (fun k => k.1 == 0 && k.2.dirty != 0 && (match k.2.key with | .virt _ _ n => n == 0x100000 / 128 | .honey _ => false)) =
      some (0, wLine 3) ∧
    d.parts.find? (fun p => decide (p.firstHive ≤ 0) && decide (0 < p.firstHive + p.nHives)) = some wPart ∧
    d.dieLines.find? (·.serves 1 (0x100000 / 128 * 128)) = some (wLine 4) ∧ (wLine 3).bytes.length = 128 ∧
    wState.task? 0 = some wTask ∧ wState.part? 1 = some wPart ∧
    (s.dieLines.find? (·.serves (wTask.ctx wPart).asid 0x100000)).any (fun l => !l.leaf.ns && l.leaf.r && decide (l.leaf.cp < 2) &&
      (List.range 128).all (fun i => !s.badMem.contains (l.frame + i))) = true ∧
    s.hiveHit (wTask.ctx wPart) 0x100000 = none ∧ s.hiveVictim (wTask.ctx wPart).hive (0x100000 / 128) = none := by decide +kernel

/-! ## Witnesses: encoding, the invariant, memory -/

/-- An instruction of one word and one of two, with operands at their ends. -/
theorem witness_DecodeOfEncode : [(.add ⟨true, 7⟩ 63 63 63 : Instr), .vmul ⟨false, 3⟩ .rne .wide 31 31 (.vec 31) (some ⟨.none, .grp 4 5, .none⟩)].all
    (fun i => i.wf && !(encode i).isEmpty) = true := by decide +kernel

theorem witness_EncodeOfDecode : decode 0xC130881100200000 0x0000020800A00000 =
    .ok (.vmul ⟨false, 3⟩ .rne .wide 4 1 (.vec 2) (some ⟨.none, .grp 4 5, .none⟩)) := rfl

/-- The machine after reset meets the invariant, and its first step answers a state. -/
theorem witness_EveryStepKeepsTheInvariant : State.reset.Inv ∧ (match step State.reset with | .next _ => true | _ => false) = true :=
  ⟨⟨rfl, rfl⟩, by decide +kernel⟩

theorem witness_MemoryReadsBackWhatIsWritten : Memory.wf [(0, 1), (2 ^ 56 - 1, 255)] = true ∧ Memory.wf [] = true := by decide +kernel

/-! ## Witnesses: the other writers of memory -/

/-- The state with handles whose writes go to memory itself. -/
def wUc (s : State) : State := { s with handles := s.handles.map fun h => if h.entry.space = Space.hbm then { h with entry := { h.entry with policy := 3 } } else h }

/-- No line is dirty, and the instruction answers a next state. -/
def wWrites (i : Instr) (s : State) : Bool :=
  decide (∀ l ∈ s.dieLines, l.dirty = 0) && decide (∀ k ∈ s.hiveLines, k.2.dirty = 0) && nexts i s

/-- An atomic and what a port's returns; VST and SPST, fresh and held; the bytes of a list. -/
theorem witness_MemoryWritersFrame_words :
    ends (wUc wState) (do
      let h ← useHandle 1
      need (h.policy = 3)
      writeBytes h false false .write 0x100000 [1, 2]
      poolPutBytes (wHandle 0x100000 .hbm) 64 [1]) = true ∧
    wTask.stores = [] ∧ wWrites (.aadd yes false .pkg 5 1 9 2 (.short 64)) wState = true ∧
    (∀ a ∈ [none, some (0, 1, 0)], let t : Task := { wTask with pend := some (wPend a) }
      (wPend a).handle.space ≠ .hbm ∧ wWrites (.scalarLoadReturn 0) { wWith t with cur := none } = true) ∧
    wWrites (.vst yes 1 1 9 none) (wUc (wWith wTwo)) = true ∧ (wTwo.vreg 1).isSome ∧ wTwo.held (.vst yes 1 1 9 none) = none ∧
    (let r := { capture (.vst yes 1 1 9 none) yes wTwo with key := 64, caps := [(wTwo.reg! 1).cap] }
     let t : Task := { wTwo with vstart := 1, resume := some r }
     t.held (.vst yes 1 1 9 none) = some r ∧ wWrites (.vst yes 1 1 9 none) (wUc (wWith t)) = true) ∧
    wWrites (.spst yes 7 1 1) (wUc { wWith wTwoRecs with mem := wRoom }) = true ∧ wWrites (.spst yes 7 1 1) (wUc (wWith (wHeldSpst 2))) = true := by
  decide +kernel

/-- A scatter and a scatter-add with an access to make; a copy; MXRD and MXZERO at the head of the queue; a pin and an unpin; HSWR. -/
theorem witness_MemoryWritersFrame_engines :
    let h : Handle := { wHandle 0x100000 .hbm with policy := 3 }
    let job (k : JobKind) : Job := { wCopy 8 with kind := k, cls := .st, promise := none, regions := [⟨.hbm, 0, 0, 2 ^ 24, true⟩] }
    let q (k : MxKind) : Task := { wMx with mx := { wMx.mx with queue := [wOp k none] } }
    (h.space = .hbm → h.policy = 3) ∧
    (∀ k ∈ ([.scatter 0x87 h [⟨0, 64, 9⟩], .scata 0x87 .rne h [⟨0, 64, 9⟩]] : List JobKind),
      (wJob wVec (job k)).foragerReady wVec (job k) = true ∧ wWrites (.foragerAccess 0) (wJob wVec (job k)) = true) ∧
    (let j := job (.copy h (wHandle 0x100000 .hbm) 0 64 8 1 0 0)
     (wJob wVec j).copyReady wVec j = true ∧ j.arrival = none ∧ wWrites (.jobComplete 0) (wJob wVec j) = true) ∧
    (∀ k ∈ ([.rd 1 h 0x2000 64, .zero 0] : List MxKind), (nextQueueOp (q k).mx.queue).isSome ∧ (wWith (q k)).mxReady (q k) (wOp k none) = true ∧
      wWrites (.mxQueueOp 0) (wWith (q k)) = true) ∧
    wWrites (.hswr yes 7 6 2 1 6) (wWith wSup) = true := by decide +kernel

theorem witness_MemoryWritersFrame_pins : forced (wCells [(0, wHeader), (0x1000, { wBlock 5 0 16 with pin := 1 }.bytes)]) (fun m =>
    wWrites (.kvpin yes 5 9 1) (wKv m) && wWrites (.kvunpin yes 5 9 1) (wKv m) &&
    (match pinned 1 (wKvTask.rs 9).toNat (wKv m) with | .ok ((k, _), _) => decide (k = wK) | .error _ => false)) = true := by decide +kernel

/-! ## Values that the spec works out -/

/-- The cap of the notes to R80 and R81: BF16, 4,096 elements; and the check byte of the poisoned one. -/
theorem test_cap_check :
    ({ Cap.blank with fmt := 0x21, d0 := 4095 } : Cap).bits = 0x0210000000000000_00000FFF00000021 ∧
    ({ Cap.blank with fmt := 0x21, d0 := 4095, poison := true } : Cap).bits.toNat / 2 ^ 120 = 0x7D := by decide +kernel

/-- BPS reads −77 at 4 planes as −80, and at 2 as −128 (R91). -/
theorem test_planes : Fmt.intVal .bps 4 0xB3 = -80 ∧ Fmt.intVal .bps 2 0xB3 = -128 := by decide +kernel

/-- R389: the key (5, 2) with LBK 12 is in bucket 558. -/
theorem test_hash : kvHash 5 2 12 = 558 := by decide +kernel

/-- The notes to R104: UINT8 200 times SINT8 −100 is −20,000 in SINT16, −32 wrapped and −256 clamped in SINT9; 280,000 rounds to 0x4889. -/
theorem test_products :
    intOp .mul (.sint 16) false 200 (-100) = (ofInt 16 (-20000), 0, false) ∧ intOp .mul (.sint 9) false 200 (-100) = (ofInt 9 (-32), 0, false) ∧
    intOp .mul (.sint 9) true 200 (-100) = (ofInt 9 (-256), 0, true) ∧ (convert (.sint 20) (.fp bf16) 0 .rne 280000).1 = 0x4889 := by decide +kernel

/-- R344: a clamped and a wrapped sum of the notes. -/
theorem test_saturate :
    accStep false true .rne (BitVec.ofInt 32 2147450000) (.fin false 45760 0 false) = (BitVec.ofInt 32 2147483647, 0, true) ∧
    (accStep false false .rne (BitVec.ofInt 32 2147450000) (.fin false 45760 0 false)).1 = BitVec.ofInt 32 (-2147471536) := by decide +kernel

/-- The promises of the notes to R375. -/
theorem test_promise : 40000 + 300 + ceilDiv 1048576 32 = 73068 ∧ 73068 + 300 + ceilDiv 4096 32 = 73496 ∧
    73068 + 384 * (ceilDiv 32768 1536 + 1) = 81900 := by decide

/-- R236: the most negative number by −1 wraps; a remainder has the sign of the dividend; by zero the quotient has every bit set and the
remainder is the dividend. R235: a shift by 64 or more gives 0, an arithmetic one acts as 63. -/
theorem test_scalar :
    divW (BitVec.ofInt 64 (-2 ^ 63)) (-1) = BitVec.ofInt 64 (-2 ^ 63) ∧ remW (BitVec.ofInt 64 (-2 ^ 63)) (-1) = 0 ∧
    remW (-7) 2 = -1 ∧ divW (-7) 2 = -3 ∧ divW (-7) 0 = -1 ∧ remW (-7) 0 = -7 ∧ divuW 7 0 = -1 ∧
    shlW 2 65 = 0 ∧ shrW (-1) 64 = 0 ∧ sraW (-7) 65 = -1 ∧ mulhW (-1) 1 = -1 ∧ mulhuW (-1) 2 = 1 ∧ clzW 0 = 64 ∧ ctzW 8 = 3 := by
  decide +kernel

end Sys2Proof.Tests
end

/-! # The invariant of `State.Inv` through the whole of the model (O50)

Every function of the model that returns a state is shown to keep the invariant, in the order of the model's files. The predicates
below say it once for each shape of answer; the lemmas after them say how the shapes are put together, and `of_def` walks through
one definition with them. Asynchronous elaboration is off, as in the tests: so many small proofs at once ask for more threads than
the check grants. -/

section
namespace Sys2Proof.Machine

set_option Elab.async false

/-! ## The shapes of answers -/

section
variable {α β ε : Type}

/-- The state beside the value of an answer, if there is one, meets the invariant. -/
def Answers (r : Except ε (α × State)) : Prop := ∀ ⦃v s'⦄, r = .ok (v, s') → s'.Inv
/-- The state of an answer, if there is one, meets the invariant. -/
def Gives (r : Except ε State) : Prop := ∀ ⦃s'⦄, r = .ok s' → s'.Inv
/-- The state, if there is one, meets the invariant. -/
def GivesSome (r : Option State) : Prop := ∀ ⦃s'⦄, r = some s' → s'.Inv
/-- The state after a step, if there is one, meets the invariant. -/
def Ends (r : Host.Outcome State Fault Refusal) : Prop := ∀ ⦃s'⦄, r = .next s' → s'.Inv
/-- The state beside an error, if there is one, meets the invariant. -/
def Rejects (r : Except (β × State) α) : Prop := ∀ ⦃p⦄, r = .error p → p.2.Inv
/-- A computation answers with a state that meets the invariant, from every state that meets it. -/
def Keeps (m : M α) : Prop := ∀ ⦃s⦄, s.Inv → Answers (m s)
/-- What the sequencer calls of a comb instruction keeps the invariant. -/
structure Comb.Sound (c : Comb) : Prop where
  prep : ∀ t, Keeps (c.prep t)
  load : ∀ r t, Keeps (c.load r t)
  outside : ∀ r t {s}, s.Inv → (c.outside r t s).Inv

@[simp] theorem answers_ok {p : α × State} : Answers (.ok p : Except ε _) ↔ p.2.Inv :=
  ⟨fun h => h rfl, by rintro h _ _ ⟨⟩; exact h⟩
@[simp] theorem answers_error {e : ε} : Answers (.error e : Except ε (α × State)) := by rintro _ _ ⟨⟩
@[simp] theorem gives_ok {s : State} : Gives (.ok s : Except ε _) ↔ s.Inv := ⟨fun h => h rfl, by rintro h _ ⟨⟩; exact h⟩
@[simp] theorem gives_error {e : ε} : Gives (.error e : Except ε State) := by rintro _ ⟨⟩
@[simp] theorem givesSome_some {s : State} : GivesSome (some s) ↔ s.Inv := ⟨fun h => h rfl, by rintro h _ ⟨⟩; exact h⟩
@[simp] theorem givesSome_none : GivesSome none := by rintro _ ⟨⟩
@[simp] theorem ends_next {s : State} : Ends (.next s) ↔ s.Inv := ⟨fun h => h rfl, by rintro h _ ⟨⟩; exact h⟩
@[simp] theorem ends_fault {f} : Ends (.fault f) := by rintro _ ⟨⟩
@[simp] theorem ends_refused {r} : Ends (.refused r) := by rintro _ ⟨⟩
@[simp] theorem rejects_ok {v : α} : Rejects (.ok v : Except (β × State) α) := by rintro _ ⟨⟩
@[simp] theorem rejects_error {p} : Rejects (.error p : Except (β × State) α) ↔ p.2.Inv :=
  ⟨fun h => h rfl, by rintro h _ ⟨⟩; exact h⟩

/-! An equation that a `match` leaves behind is used up: its state meets the invariant, because its answer does. -/

theorem Answers.elim {r : Except ε (α × State)} {v s'} {C : Prop} (h : Answers r) (k : s'.Inv → C) (e : r = .ok (v, s')) : C :=
  k (h e)
theorem Gives.elim {r : Except ε State} {s'} {C : Prop} (h : Gives r) (k : s'.Inv → C) (e : r = .ok s') : C := k (h e)
theorem GivesSome.elim {r : Option State} {s'} {C : Prop} (h : GivesSome r) (k : s'.Inv → C) (e : r = some s') : C := k (h e)
theorem Rejects.elim {r : Except (β × State) α} {p} {C : Prop} (h : Rejects r) (k : p.2.Inv → C) (e : r = .error p) : C :=
  k (h e)
theorem State.Inv.elim_pair {r : α × State} {v s'} {C : Prop} (h : r.2.Inv) (k : s'.Inv → C) (e : r = (v, s')) : C :=
  k (by subst e; exact h)

@[simp] theorem State.inv_getD {o : Option State} {s : State} (ho : GivesSome o) (h : s.Inv) : (o.getD s).Inv := by
  cases o with
  | none => exact h
  | some t => exact ho rfl
@[simp] theorem State.inv_mk {a mem honey b c d e f g h i j k l m n o p q r s t u v w x y z a1 a2 a3 a4 a5 a6 a7} :
    State.Inv (State.mk a mem honey b c d e f g h i j k l m n o p q r s t u v w x y z a1 a2 a3 a4 a5 a6 a7) ↔
      Memory.wf mem = true ∧ Memory.wf honey = true := .rfl
@[simp] theorem State.wf_both {s : State} : Memory.wf s.mem = true ∧ Memory.wf s.honey = true ↔ s.Inv := .rfl
@[simp] theorem State.Inv.mem_wf {s : State} (h : s.Inv) : Memory.wf s.mem = true := h.1
@[simp] theorem State.Inv.honey_wf {s : State} (h : s.Inv) : Memory.wf s.honey = true := h.2
theorem foldl_inv {f : State → α → State} {l : List α} {s : State} (hf : ∀ s x, s.Inv → (f s x).Inv) (h : s.Inv) :
    (l.foldl f s).Inv := by
  induction l generalizing s with
  | nil => exact h
  | cons x l ih => exact ih (hf s x h)

/-! ## Computations and their combinators -/

@[simp] theorem Keeps.pure {v : α} : Keeps (pure v : M α) := fun _ h => answers_ok.2 h
theorem Keeps.bind {m : M α} {f : α → M β} (hm : Keeps m) (hf : ∀ v, Keeps (f v)) : Keeps (m >>= f) := fun s h => by
  rw [bind_eq]
  split
  · simp
  · exact hf _ (hm h ‹_›)
theorem Keeps.of_fun {m : State → Except Stop (α × State)} (h : ∀ s, s.Inv → Answers (m s)) : Keeps (fun s => m s) :=
  fun s => h s
@[simp] theorem trap_keeps {c v} : Keeps (trap c v : M α) := fun _ _ => answers_error
@[simp] theorem stopWith_keeps {c} : Keeps (stopWith c : M α) := fun _ _ => answers_error
@[simp] theorem stall_keeps : Keeps (stall : M α) := fun _ _ => answers_error
@[simp] theorem stallFor_keeps {l} : Keeps (stallFor l : M α) := fun _ _ => answers_error
@[simp] theorem check_keeps {c k v} : Keeps (check c k v) := fun s h => by rw [check_eq]; split <;> simp [h]
@[simp] theorem getS_keeps : Keeps getS := fun _ h => answers_ok.2 h
/-- What follows `getS` is given a state that meets the invariant. -/
theorem Keeps.getS_bind {f : State → M β} (hf : ∀ s, s.Inv → Keeps (f s)) : Keeps (getS >>= f) := fun s h => hf s h h
@[simp] theorem setS_keeps {s : State} (h : s.Inv) : Keeps (setS s) := fun _ _ => answers_ok.2 h
theorem modS_keeps {f : State → State} (hf : ∀ s, s.Inv → (f s).Inv) : Keeps (modS f) := fun s h => answers_ok.2 (hf s h)
@[simp] theorem getT_keeps : Keeps getT := fun s h => by unfold getT; split <;> simp [h]
@[simp] theorem setT_keeps {t} : Keeps (setT t) := fun _ h => answers_ok.2 h
@[simp] theorem modT_keeps {f} : Keeps (modT f) := getT_keeps.bind fun _ => setT_keeps
@[simp] theorem getP_keeps : Keeps getP := getT_keeps.bind fun _ => getS_keeps.bind fun _ => by split <;> simp
@[simp] theorem freshWord_keeps : Keeps freshWord := fun _ h => answers_ok.2 h
theorem attempt_keeps {m : M α} (hm : Keeps m) : Keeps (attempt m) := fun s h => by
  unfold attempt
  split
  · simpa
  · exact answers_ok.2 (hm h ‹_›)
theorem asAcc_keeps {acc} {m : M α} (hm : Keeps m) : Keeps (asAcc acc m) := fun s h => by
  unfold asAcc
  split
  · simp
  · rename_i e
    exact fun v s' k => hm h (e.trans k)
theorem liftX_keeps {acc a} {f : State → Except XErr (α × State)} (hf : ∀ s, s.Inv → Answers (f s)) :
    Keeps (liftX acc a f) := by
  unfold liftX
  refine .getS_bind fun s h => ?_
  split
  · unfold raiseX
    split <;> simp
  · exact .bind (setS_keeps (hf s h ‹_›)) fun _ => .pure
theorem engineRun_answers {s : State} {t} {m : M α} (hm : Keeps m) (h : s.Inv) : Answers (engineRun s t m) := by
  unfold engineRun
  split
  · simp
  · rename_i e
    have k : State.Inv _ := hm (s := { s with cur := some t.id }) h e
    exact answers_ok.2 k
theorem forEach_keeps {f : α → M Unit} {l} (hf : ∀ x, Keeps (f x)) : Keeps (forEach f l) := by
  induction l with
  | nil => exact .pure
  | cons x l ih => exact (hf x).bind fun _ => ih
theorem checkEach_keeps {f : α → M Unit} {l} (hf : ∀ x, Keeps (f x)) : Keeps (checkEach f l) := by
  induction l with
  | nil => exact .pure
  | cons x l ih => exact (hf x).bind fun _ => ih
theorem firstShort_keeps {f : Nat → M (Option Bool)} {l} (hf : ∀ x, Keeps (f x)) : Keeps (firstShort f l) := by
  induction l with
  | nil => exact .pure
  | cons x l ih =>
    refine (hf x).bind fun _ => ?_
    split
    · exact .pure
    · exact ih
    · exact .pure
theorem elemVals_keeps {f : Nat → M (Val × Option (Nat × Word))} {x n} (hf : ∀ x, Keeps (f x)) : Keeps (elemVals f x n) := by
  induction n generalizing x with
  | zero => exact .pure
  | succ n ih => exact (hf x).bind fun _ => ih.bind fun _ => .pure
theorem untilFails_keeps {f : Nat → M α} {l} (hf : ∀ x, Keeps (f x)) : Keeps (untilFails f l) := by
  induction l with
  | nil => exact .pure
  | cons x l ih =>
    refine (attempt_keeps (hf x)).bind fun _ => ?_
    split
    · exact .pure
    · exact ih.bind fun _ => .pure
@[simp] theorem Comb.Sound.prep_keeps {c : Comb} {t} (hc : c.Sound) : Keeps (c.prep t) := hc.prep t
@[simp] theorem Comb.Sound.load_keeps {c : Comb} {r t} (hc : c.Sound) : Keeps (c.load r t) := hc.load r t
@[simp] theorem Comb.Sound.outside_inv {c : Comb} {r t} {s : State} (hc : c.Sound) (h : s.Inv) : (c.outside r t s).Inv :=
  hc.outside r t h
end

/-! ## The state's operations that leave both memories alone -/

section
variable {s : State} {t : Nat} {c : Nat} {v : Word}
@[simp] theorem State.setTask_inv {u} : (s.setTask u).Inv ↔ s.Inv := .rfl
@[simp] theorem State.setPart_inv {p} : (s.setPart p).Inv ↔ s.Inv := .rfl
@[simp] theorem State.setJob_inv {j} : (s.setJob j).Inv ↔ s.Inv := .rfl
@[simp] theorem State.send_inv {m} : (s.send m).Inv ↔ s.Inv := .rfl
@[simp] theorem State.logError_inv : (s.logError c v).Inv ↔ s.Inv := .rfl
@[simp] theorem State.hostCause_inv : (s.hostCause c v).Inv ↔ s.Inv := .rfl
@[simp] theorem State.setHive_inv {k} : (s.setHive k).Inv ↔ s.Inv := by unfold State.setHive; split <;> rfl
@[simp] theorem State.raiseNotice_inv {vf n} : (s.raiseNotice vf n).Inv ↔ s.Inv := by unfold State.raiseNotice; split <;> rfl
@[simp] theorem State.logDues_inv {l} : (s.logDues l).Inv ↔ s.Inv := by
  unfold State.logDues
  induction l generalizing s with
  | nil => rfl
  | cons d l ih => rw [List.foldl_cons, ih]; split <;> simp
@[simp] theorem State.tagLast_inv {u} : (s.tagLast u).Inv ↔ s.Inv := by unfold State.tagLast; split <;> simp
@[simp] theorem State.dropReports_inv {u l} : (s.dropReports u l).Inv ↔ s.Inv := by
  unfold State.dropReports
  repeat' split <;> simp
@[simp] theorem State.removeTask_inv {u} : (s.removeTask u).Inv ↔ s.Inv := by simp [State.removeTask]
@[simp] theorem State.endTask_inv {u} : (s.endTask u).Inv ↔ s.Inv := by simp [State.endTask]
@[simp] theorem State.leave_inv {u} : (s.leave u).Inv ↔ s.Inv := by unfold State.leave; split <;> simp
theorem State.foldl_raiseNotice_inv {vf : Nat} {l : List Notice} : (l.foldl (fun s n => s.raiseNotice vf n) s).Inv ↔ s.Inv := by
  induction l generalizing s with
  | nil => rfl
  | cons d l ih => rw [List.foldl_cons, ih]; simp
@[simp] theorem State.finishEnding_inv {u} : (s.finishEnding u).Inv ↔ s.Inv := by
  unfold State.finishEnding
  split
  · dsimp only
    repeat' split
    all_goals simp [State.foldl_raiseNotice_inv]
  · simp
  · rfl
@[simp] theorem State.enterTrap_inv {u r} : (s.enterTrap u c v r).Inv ↔ s.Inv := by unfold State.enterTrap; split <;> simp
@[simp] theorem State.takeTrap_inv {u r} : (s.takeTrap u c v r).Inv ↔ s.Inv := by simp [State.takeTrap]
@[simp] theorem State.deliver_inv {u i x} : (s.deliver u i x).Inv ↔ s.Inv := by unfold State.deliver; split <;> simp
@[simp] theorem State.andRetire_inv {i x} : (s.andRetire i x).Inv ↔ s.Inv := by unfold State.andRetire; split <;> simp
end

/-! ## Running an instruction -/

section
variable {l : Lanes} {p : Pred} {i : Instr} {s : State} {body : Task → M Unit} (h : s.Inv)
include h
theorem runWord_ends (hb : ∀ t, Keeps (body t)) : Ends (runWord l p i s body) := by
  unfold runWord
  repeat' split
  · simp
  · simpa
  · simpa using hb _ h ‹_›
  · simpa
theorem runFlow_ends (hb : ∀ t, Keeps (body t)) : Ends (runFlow l p i s body) := by
  unfold runFlow
  repeat' split
  · simp
  · simpa
  · simpa using hb _ h ‹_›
  · simpa
theorem runHeld_ends (hb : ∀ t, Keeps (body t)) : Ends (runHeld l p i s body) := by
  unfold runHeld
  repeat' split
  · simp
  · simpa
  · simpa using hb _ h ‹_›
  · simpa
theorem runJump_ends (hb : ∀ t, Keeps (body t)) : Ends (runJump p i s body) := runFlow_ends h hb
theorem runFor_ends {id} (hb : ∀ t, Keeps (body t)) : Ends (runFor id i s body) := by
  unfold runFor
  repeat' split
  · simpa
  · simpa
  · simpa using hb _ (s := { s with cur := some id }) h ‹_›
@[simp] theorem runTask_ends {f} : Ends (runTask l p i s f) := by
  unfold runTask
  repeat' split
  · simp
  · simpa
  · simpa
theorem regWrite_ends {rw f} (hf : ∀ p w s, s.Inv → (f p w s).Inv) : Ends (regWrite rw i s f) := by
  unfold regWrite
  repeat' split
  · exact runWord_ends h fun t => check_keeps.bind fun _ => getP_keeps.bind fun p => modS_keeps (hf p _)
  · simpa
  · simpa
  · exact ends_next.2 (hf _ _ _ h)
theorem startCommand_inv {f n} (hf : ∀ s, s.Inv → (f s).1.Inv) : (startCommand n s f).Inv := hf _ h
theorem mailbox_ends {n args f} (hf : ∀ s, s.Inv → (f s).1.Inv) : Ends (mailbox n args s f) := by
  unfold mailbox
  refine ends_next.2 ?_
  split
  · exact h
  · refine startCommand_inv ?_ hf
    exact h
end

/-! ## One definition at a time -/

/-- A property of a function's value is the property of its body, and the body is walked through: an equation that a `match` left
behind gives its state's invariant; a combinator asks for its parts; `split` takes the branches apart; and `simp` closes a branch
with the lemmas about the functions it calls. A default argument holds the walk, since the development defines no tactics; the lemmas
below take it, one for each function of the model, and give it the function's equation. -/
theorem of_def {β : Type} {P : β → Prop} {x y : β} (e : x = y)
    (h : P y := by
      repeat' first
        | (rename _ = Except.ok (_, _) => e; revert e; refine Answers.elim ?_ fun _ => ?_)
        | (rename _ = Except.ok _ => e; revert e; refine Gives.elim ?_ fun _ => ?_)
        | (rename _ = Except.error _ => e; revert e; refine Rejects.elim ?_ fun _ => ?_)
        | (rename _ = some _ => e; revert e; refine GivesSome.elim ?_ fun _ => ?_)
        | (rename _ = (_, _) => e; revert e; refine State.Inv.elim_pair ?_ fun _ => ?_)
        | with_reducible refine Keeps.getS_bind fun _ _ => ?_
        | with_reducible refine Keeps.bind ?_ fun _ => ?_
        | with_reducible refine modS_keeps fun _ _ => ?_
        | with_reducible refine attempt_keeps ?_
        | with_reducible refine asAcc_keeps ?_
        | with_reducible refine liftX_keeps fun _ _ => ?_
        | with_reducible refine forEach_keeps fun _ => ?_
        | with_reducible refine checkEach_keeps fun _ => ?_
        | with_reducible refine firstShort_keeps fun _ => ?_
        | with_reducible refine elemVals_keeps fun _ => ?_
        | with_reducible refine untilFails_keeps fun _ => ?_
        | with_reducible refine engineRun_answers ?_ ?_
        | with_reducible refine runWord_ends ?_ fun _ => ?_
        | with_reducible refine runFlow_ends ?_ fun _ => ?_
        | with_reducible refine runHeld_ends ?_ fun _ => ?_
        | with_reducible refine runJump_ends ?_ fun _ => ?_
        | with_reducible refine runFor_ends ?_ fun _ => ?_
        | with_reducible refine regWrite_ends ?_ fun _ _ _ _ => ?_
        | with_reducible refine startCommand_inv ?_ fun _ _ => ?_
        | with_reducible refine mailbox_ends ?_ fun _ _ => ?_
        | with_reducible refine ends_next.2 ?_
        | with_reducible refine foldl_inv (fun _ _ _ => ?_) ?_
        | dsimp only
        | split
        | (simp [*, State.physWrite_inv, State.foldl_physWrite_inv, State.honeyWrite_inv, State.flushDies_inv,
            State.checkpointSave_inv, State.checkpointRestore_inv, State.checkpointOnes_inv, State.deviceReset_inv,
            State.reset_inv]; done)
        | with_reducible refine Keeps.of_fun fun _ _ => ?_
        | with_reducible refine Comb.Sound.mk (fun _ => ?_) (fun _ _ => ?_) (fun _ _ _ _ => ?_)) : P x := e ▸ h

/-! ## The model's functions, in the order of its files -/

section
variable {s : State} {c : Ctx} {va : Nat}

/-! ### Machine/Ops -/

@[simp] theorem finishWord_keeps {i f} : Keeps (finishWord i f) := of_def (finishWord.eq_def ..)

/-! ### Machine/Access -/

@[simp] theorem State.translate_inv {c va sp} (h : s.Inv) : Answers (s.translate c va sp) := of_def (State.translate.eq_def ..)
@[simp] theorem State.lineToFrame_inv (l : Line) (h : s.Inv) : (s.lineToFrame l).Inv :=
  State.foldl_physWrite_inv l.dirtyBytes (fun p => l.frame + p.1) (fun p => p.2) h
@[simp] theorem State.putDieLine_inv (l : Line) (h : s.Inv) : (s.putDieLine l).Inv := of_def (State.putDieLine.eq_def ..)
@[simp] theorem State.dieLine_inv {c va} (h : s.Inv) : Answers (s.dieLine c va) := of_def (State.dieLine.eq_def ..)
@[simp] theorem State.fillDie_inv {c va} (h : s.Inv) : (s.fillDie c va).Inv := of_def (State.fillDie.eq_def ..)
@[simp] theorem State.setDieLine_inv (l : Line) : (s.setDieLine l).Inv ↔ s.Inv := .rfl
@[simp] theorem State.dieWrite_inv (b) (h : s.Inv) : Gives (s.dieWrite c va b) := of_def (State.dieWrite.eq_def ..)
@[simp] theorem State.writeBackTo_inv (l) (h : s.Inv) : Gives (s.writeBackTo c va l) := by
  induction l generalizing s with
  | nil => simpa [State.writeBackTo]
  | cons p r ih => exact of_def (State.writeBackTo.eq_2 ..)
@[simp] theorem State.cleanHiveLine_inv (l b) (h : s.Inv) : Gives (s.cleanHiveLine c l b) :=
  of_def (State.cleanHiveLine.eq_def ..)
@[simp] theorem State.evictHive_inv (n l) (h : s.Inv) : (s.evictHive n l).Inv := of_def (State.evictHive.eq_def ..)
@[simp] theorem State.putHiveLine_inv (n l) (h : s.Inv) : (s.putHiveLine n l).Inv := of_def (State.putHiveLine.eq_def ..)
@[simp] theorem State.putIcLine_inv (n l) : (s.putIcLine n l).Inv ↔ s.Inv := by
  unfold State.putIcLine; dsimp only; repeat' split <;> simp
@[simp] theorem State.setHiveLine_inv (l : Line) (hv) : (s.setHiveLine hv l).Inv ↔ s.Inv := .rfl
@[simp] theorem State.hiveLine_inv (h : s.Inv) : Answers (s.hiveLine c va) := of_def (State.hiveLine.eq_def ..)
@[simp] theorem State.freshLine_inv (h : s.Inv) : Answers (s.freshLine c va) := of_def (State.freshLine.eq_def ..)
@[simp] theorem State.cleanDieLine_inv (b va) (h : s.Inv) : Gives (s.cleanDieLine c b va) := of_def (State.cleanDieLine.eq_def ..)
@[simp] theorem State.leafFor_inv (b) (h : s.Inv) : Answers (s.leafFor c b va) := of_def (State.leafFor.eq_def ..)
@[simp] theorem State.dropHive_inv (h : s.Inv) : Gives (s.dropHive c va) := of_def (State.dropHive.eq_def ..)
@[simp] theorem State.dropDie_inv (h : s.Inv) : Gives (s.dropDie c va) := of_def (State.dropDie.eq_def ..)
@[simp] theorem State.hbmRead_inv {p q r t} (h : s.Inv) : Answers (s.hbmRead c p q r t va) := of_def (State.hbmRead.eq_def ..)
@[simp] theorem State.hbmWrite_inv {p q r t x} (h : s.Inv) : Gives (s.hbmWrite c p q r t va x) :=
  of_def (State.hbmWrite.eq_def ..)
@[simp] theorem State.honeyRead_inv {hive a cached} (h : s.Inv) : (s.honeyRead hive a cached).2.Inv :=
  of_def (P := (·.2.Inv)) (State.honeyRead.eq_def ..)
@[simp] theorem State.portRefused_inv {port} (h : s.Inv) : (s.portRefused port).Inv := of_def (State.portRefused.eq_def ..)
@[simp] theorem State.sendMemory_inv {c pa data} (h : s.Inv) : (s.sendMemory c pa data).Inv := of_def (State.sendMemory.eq_def ..)
@[simp] theorem State.remoteRead_inv {c sp acc va} (h : s.Inv) : Answers (s.remoteRead c sp acc va) :=
  of_def (State.remoteRead.eq_def ..)
@[simp] theorem State.remoteAtomic_inv {c sp op w4 va b cmp f} (h : s.Inv) : Answers (s.remoteAtomic c sp op w4 va b cmp f) :=
  of_def (State.remoteAtomic.eq_def ..)
@[simp] theorem State.remoteWrite_inv {c sp acc va b} (h : s.Inv) : Gives (s.remoteWrite c sp acc va b) :=
  of_def (State.remoteWrite.eq_def ..)
@[simp] theorem State.hbmReadN_inv {c pol point ctrl acc va n} (h : s.Inv) : Answers (s.hbmReadN c pol point ctrl acc va n) := by
  induction n generalizing s va with
  | zero => exact of_def (State.hbmReadN.eq_1 ..)
  | succ n ih => exact of_def (State.hbmReadN.eq_2 ..)
@[simp] theorem State.handle?_inv {c p k} (h : s.Inv) : (s.handle? c p k).2.Inv :=
  of_def (P := (·.2.Inv)) (State.handle?.eq_def ..)
@[simp] theorem useHandle_keeps {k} : Keeps (useHandle k) := of_def (useHandle.eq_def ..)
@[simp] theorem checkBound_keeps {h' o n} : Keeps (checkBound h' o n) := of_def (checkBound.eq_def ..)
@[simp] theorem honeyUsable_keeps {h' o} : Keeps (honeyUsable h' o) := of_def (honeyUsable.eq_def ..)
@[simp] theorem checkPerm_keeps {h' acc a} : Keeps (checkPerm h' acc a) := of_def (checkPerm.eq_def ..)
@[simp] theorem probe_keeps {h' acc a} : Keeps (probe h' acc a) := of_def (probe.eq_def ..)
@[simp] theorem probeAll_keeps {h' acc l} : Keeps (probeAll h' acc l) := by
  induction l with
  | nil => exact of_def (probeAll.eq_1 ..)
  | cons a l ih => exact of_def (probeAll.eq_2 ..)
@[simp] theorem checkWritable_keeps {h' a n} : Keeps (checkWritable h' a n) := of_def (checkWritable.eq_def ..)
@[simp] theorem checkAccess_keeps {h' o n acc al} : Keeps (checkAccess h' o n acc al) := of_def (checkAccess.eq_def ..)
@[simp] theorem readByte_keeps {h' point ctrl acc a} : Keeps (readByte h' point ctrl acc a) := of_def (readByte.eq_def ..)
@[simp] theorem readBytes_keeps {h' point ctrl acc a n} : Keeps (readBytes h' point ctrl acc a n) := by
  induction n generalizing a with
  | zero => exact of_def (readBytes.eq_1 ..)
  | succ n ih => exact of_def (readBytes.eq_2 ..)
@[simp] theorem raiseBad_keeps {h' a l} : Keeps (raiseBad h' a l) := of_def (raiseBad.eq_def ..)
@[simp] theorem writeByte_keeps {h' point ctrl acc a b} : Keeps (writeByte h' point ctrl acc a b) := of_def (writeByte.eq_def ..)
@[simp] theorem writeBytes_keeps {h' point ctrl acc a l} : Keeps (writeBytes h' point ctrl acc a l) := by
  induction l generalizing a with
  | nil => exact of_def (writeBytes.eq_1 ..)
  | cons b l ih => exact of_def (writeBytes.eq_2 ..)
@[simp] theorem State.performEntry.go_inv {e point c a ls} (h : s.Inv) : GivesSome (State.performEntry.go e point c s a ls) := by
  induction ls generalizing s a with
  | nil => exact of_def (State.performEntry.go.eq_1 ..)
  | cons x l ih => exact of_def (State.performEntry.go.eq_2 ..)
@[simp] theorem State.performEntry_inv {t p e} (h : s.Inv) : GivesSome (s.performEntry t p e) :=
  of_def (State.performEntry.eq_def ..)
@[simp] theorem State.performStore_inv {id n} (h : s.Inv) : GivesSome (s.performStore id n) :=
  of_def (State.performStore.eq_def ..)
@[simp] theorem State.drainStores_inv {id fuel} (h : s.Inv) : (State.drainStores id fuel s).Inv := by
  induction fuel generalizing s with
  | zero => exact of_def (State.drainStores.eq_1 ..)
  | succ n ih => exact of_def (State.drainStores.eq_2 ..)
@[simp] theorem drainAll_keeps : Keeps (drainAll) := of_def (drainAll.eq_def ..)

/-! ### Machine/Hazards -/

@[simp] theorem awaitColumns_keeps {reads writes} : Keeps (awaitColumns reads writes) := of_def (awaitColumns.eq_def ..)
@[simp] theorem sidePort_keeps {reads writes} : Keeps (sidePort reads writes) := of_def (sidePort.eq_def ..)
@[simp] theorem awaitBank_keeps {h' a n} : Keeps (awaitBank h' a n) := of_def (awaitBank.eq_def ..)
@[simp] theorem readWhole_keeps {h' point a n} : Keeps (readWhole h' point a n) := of_def (readWhole.eq_def ..)

/-! ### Machine/Control -/

@[simp] theorem State.icLine_inv {c va} (h : s.Inv) : Answers (s.icLine c va) := of_def (State.icLine.eq_def ..)
@[simp] theorem State.fetchCached_inv {t p a body} (h : s.Inv) : (s.fetchCached t p a body).2.Inv :=
  of_def (P := (·.2.Inv)) (State.fetchCached.eq_def ..)
@[simp] theorem State.fetchWord_inv {t p a} (h : s.Inv) : (s.fetchWord t p a).2.Inv :=
  of_def (P := (·.2.Inv)) (State.fetchWord.eq_def ..)
@[simp] theorem jumpTo_keeps {i t target link} : Keeps (jumpTo i t target link) := of_def (jumpTo.eq_def ..)
@[simp] theorem execBr_ends {p off} (h : s.Inv) : Ends (execBr p off s) := of_def (execBr.eq_def ..)
@[simp] theorem execJmp_ends {p sa link} (h : s.Inv) : Ends (execJmp p sa link s) := of_def (execJmp.eq_def ..)
@[simp] theorem execCall_ends {p sl off} (h : s.Inv) : Ends (execCall p sl off s) := of_def (execCall.eq_def ..)
@[simp] theorem execRet_ends {p sa} (h : s.Inv) : Ends (execRet p sa s) := of_def (execRet.eq_def ..)
@[simp] theorem enterLoop_keeps {i t lc count off} : Keeps (enterLoop i t lc count off) := of_def (enterLoop.eq_def ..)
@[simp] theorem execLoop_ends {p lc sa off} (h : s.Inv) : Ends (execLoop p lc sa off s) := of_def (execLoop.eq_def ..)
@[simp] theorem execLoopi_ends {p lc count off} (h : s.Inv) : Ends (execLoopi p lc count off s) := of_def (execLoopi.eq_def ..)
@[simp] theorem execLbrk_ends {p lc} (h : s.Inv) : Ends (execLbrk p lc s) := of_def (execLbrk.eq_def ..)
@[simp] theorem State.prefetchLine_inv {c va} (h : s.Inv) : (s.prefetchLine c va).Inv := of_def (State.prefetchLine.eq_def ..)
@[simp] theorem State.prefetchLines_inv {c va fuel} (h : s.Inv) : (s.prefetchLines c va fuel).Inv := by
  induction fuel generalizing s va with
  | zero => exact of_def (State.prefetchLines.eq_1 ..)
  | succ n ih => exact of_def (State.prefetchLines.eq_2 ..)
@[simp] theorem execIpref_ends {p n off} (h : s.Inv) : Ends (execIpref p n off s) := of_def (execIpref.eq_def ..)
@[simp] theorem execTrap_ends {p imm} (h : s.Inv) : Ends (execTrap p imm s) := of_def (execTrap.eq_def ..)
@[simp] theorem execTret_ends {p} (h : s.Inv) : Ends (execTret p s) := of_def (execTret.eq_def ..)
@[simp] theorem execYield_ends {p} (h : s.Inv) : Ends (execYield p s) := of_def (execYield.eq_def ..)
@[simp] theorem execInstructionPageFault_ends {t addr} (h : s.Inv) : Ends (execInstructionPageFault t addr s) :=
  of_def (execInstructionPageFault.eq_def ..)

/-! ### Machine/Memory -/

@[simp] theorem execLea_ends {p sd h' sa imm} (h : s.Inv) : Ends (execLea p sd h' sa imm s) := of_def (execLea.eq_def ..)
@[simp] theorem execHchk_ends {p sd h' sa sb imm} (h : s.Inv) : Ends (execHchk p sd h' sa sb imm s) := of_def (execHchk.eq_def ..)
@[simp] theorem loadWord_ends {p i str sd h' sa n signed imm} (h : s.Inv) : Ends (loadWord p i s str sd h' sa n signed imm) :=
  of_def (loadWord.eq_def ..)
@[simp] theorem execLd_ends {p str sd h' sa imm} (h : s.Inv) : Ends (execLd p str sd h' sa imm s) := of_def (execLd.eq_def ..)
@[simp] theorem execLdI8_ends {p str sd h' sa imm} (h : s.Inv) : Ends (execLdI8 p str sd h' sa imm s) :=
  of_def (execLdI8.eq_def ..)
@[simp] theorem execLdI16_ends {p str sd h' sa imm} (h : s.Inv) : Ends (execLdI16 p str sd h' sa imm s) :=
  of_def (execLdI16.eq_def ..)
@[simp] theorem execLdI32_ends {p str sd h' sa imm} (h : s.Inv) : Ends (execLdI32 p str sd h' sa imm s) :=
  of_def (execLdI32.eq_def ..)
@[simp] theorem execLdZ8_ends {p str sd h' sa imm} (h : s.Inv) : Ends (execLdZ8 p str sd h' sa imm s) :=
  of_def (execLdZ8.eq_def ..)
@[simp] theorem execLdZ16_ends {p str sd h' sa imm} (h : s.Inv) : Ends (execLdZ16 p str sd h' sa imm s) :=
  of_def (execLdZ16.eq_def ..)
@[simp] theorem execLdZ32_ends {p str sd h' sa imm} (h : s.Inv) : Ends (execLdZ32 p str sd h' sa imm s) :=
  of_def (execLdZ32.eq_def ..)
@[simp] theorem storeWord_ends {p i str sd h' sa n imm} (h : s.Inv) : Ends (storeWord p i s str sd h' sa n imm) :=
  of_def (storeWord.eq_def ..)
@[simp] theorem execSt_ends {p str sd h' sa imm} (h : s.Inv) : Ends (execSt p str sd h' sa imm s) := of_def (execSt.eq_def ..)
@[simp] theorem execStI8_ends {p str sd h' sa imm} (h : s.Inv) : Ends (execStI8 p str sd h' sa imm s) :=
  of_def (execStI8.eq_def ..)
@[simp] theorem execStI16_ends {p str sd h' sa imm} (h : s.Inv) : Ends (execStI16 p str sd h' sa imm s) :=
  of_def (execStI16.eq_def ..)
@[simp] theorem execStI32_ends {p str sd h' sa imm} (h : s.Inv) : Ends (execStI32 p str sd h' sa imm s) :=
  of_def (execStI32.eq_def ..)
@[simp] theorem execStorePerform_ends {t n} (h : s.Inv) : Ends (execStorePerform t n s) := of_def (execStorePerform.eq_def ..)
@[simp] theorem atomicWord_ends {p i op w4 scope sd h' sa sb imm} (h : s.Inv) :
    Ends (atomicWord p i s op w4 scope sd h' sa sb imm) :=
  of_def (atomicWord.eq_def ..)
@[simp] theorem execAadd_ends {p w4 scope sd h' sa sb imm} (h : s.Inv) : Ends (execAadd p w4 scope sd h' sa sb imm s) :=
  of_def (execAadd.eq_def ..)
@[simp] theorem execAmin_ends {p w4 scope sd h' sa sb imm} (h : s.Inv) : Ends (execAmin p w4 scope sd h' sa sb imm s) :=
  of_def (execAmin.eq_def ..)
@[simp] theorem execAmax_ends {p w4 scope sd h' sa sb imm} (h : s.Inv) : Ends (execAmax p w4 scope sd h' sa sb imm s) :=
  of_def (execAmax.eq_def ..)
@[simp] theorem execAand_ends {p w4 scope sd h' sa sb imm} (h : s.Inv) : Ends (execAand p w4 scope sd h' sa sb imm s) :=
  of_def (execAand.eq_def ..)
@[simp] theorem execAor_ends {p w4 scope sd h' sa sb imm} (h : s.Inv) : Ends (execAor p w4 scope sd h' sa sb imm s) :=
  of_def (execAor.eq_def ..)
@[simp] theorem execAxor_ends {p w4 scope sd h' sa sb imm} (h : s.Inv) : Ends (execAxor p w4 scope sd h' sa sb imm s) :=
  of_def (execAxor.eq_def ..)
@[simp] theorem execAswp_ends {p w4 scope sd h' sa sb imm} (h : s.Inv) : Ends (execAswp p w4 scope sd h' sa sb imm s) :=
  of_def (execAswp.eq_def ..)
@[simp] theorem execAcas_ends {p w4 scope sd h' sa sb imm} (h : s.Inv) : Ends (execAcas p w4 scope sd h' sa sb imm s) :=
  of_def (execAcas.eq_def ..)
@[simp] theorem execScalarLoadReturn_ends {t} (h : s.Inv) : Ends (execScalarLoadReturn t s) :=
  of_def (execScalarLoadReturn.eq_def ..)
@[simp] theorem State.portDown_inv {port} (h : s.Inv) : (s.portDown port).Inv := of_def (State.portDown.eq_def ..)
@[simp] theorem State.timeOutTask_ends {t} (h : s.Inv) : Ends (s.timeOutTask t) := of_def (State.timeOutTask.eq_def ..)
@[simp] theorem State.timeOutPort_inv {port mute} (h : s.Inv) : (s.timeOutPort port mute).Inv :=
  of_def (State.timeOutPort.eq_def ..)
@[simp] theorem execCompletionTimeout_ends {w} (h : s.Inv) : Ends (execCompletionTimeout w s) :=
  of_def (execCompletionTimeout.eq_def ..)

/-! ### Machine/Sync -/

@[simp] theorem State.writeBackLines_inv {c ls} (h : s.Inv) : (State.writeBackLines c ls s).Inv := by
  induction ls generalizing s with
  | nil => exact of_def (State.writeBackLines.eq_1 ..)
  | cons x l ih => exact of_def (State.writeBackLines.eq_2 ..)
@[simp] theorem State.releaseTask_inv {c} (h : s.Inv) : (s.releaseTask c).Inv := of_def (State.releaseTask.eq_def ..)
@[simp] theorem State.acquireHive_inv {c} (h : s.Inv) : (s.acquireHive c).Inv := of_def (State.acquireHive.eq_def ..)
@[simp] theorem performOwn_keeps : Keeps (performOwn) := of_def (performOwn.eq_def ..)
@[simp] theorem fenceRel_keeps {scope} : Keeps (fenceRel scope) := of_def (fenceRel.eq_def ..)
@[simp] theorem fenceAcq_keeps {scope} : Keeps (fenceAcq scope) := of_def (fenceAcq.eq_def ..)
@[simp] theorem execFenceAcq_ends {p scope} (h : s.Inv) : Ends (execFenceAcq p scope s) := of_def (execFenceAcq.eq_def ..)
@[simp] theorem execFenceRel_ends {p scope} (h : s.Inv) : Ends (execFenceRel p scope s) := of_def (execFenceRel.eq_def ..)
@[simp] theorem execFenceAr_ends {p scope} (h : s.Inv) : Ends (execFenceAr p scope s) := of_def (execFenceAr.eq_def ..)
@[simp] theorem execLsync_ends {p} (h : s.Inv) : Ends (execLsync p s) := of_def (execLsync.eq_def ..)
@[simp] theorem observe_keeps {limits} : Keeps (observe limits) := of_def (observe.eq_def ..)
@[simp] theorem execWait_ends {p limits} (h : s.Inv) : Ends (execWait p limits s) := of_def (execWait.eq_def ..)
@[simp] theorem execHalt_ends {p} (h : s.Inv) : Ends (execHalt p s) := of_def (execHalt.eq_def ..)
@[simp] theorem State.releaseWaiters_inv {phys ev st ls} (h : s.Inv) : (State.releaseWaiters phys ev st ls s).Inv := by
  induction ls generalizing s with
  | nil => exact of_def (State.releaseWaiters.eq_1 ..)
  | cons x l ih => exact of_def (State.releaseWaiters.eq_2 ..)
@[simp] theorem barrierAccess_keeps {h' o write} : Keeps (barrierAccess h' o write) := of_def (barrierAccess.eq_def ..)
@[simp] theorem physOf_keeps {h' a} : Keeps (physOf h' a) := of_def (physOf.eq_def ..)
@[simp] theorem State.sendBarevt_inv {phys gen event tag} (h : s.Inv) : (s.sendBarevt phys gen event tag).Inv :=
  of_def (State.sendBarevt.eq_def ..)
@[simp] theorem barrierWord_ends {p i sd h' sa imm ev} (h : s.Inv) : Ends (barrierWord p i s sd h' sa imm ev) :=
  of_def (barrierWord.eq_def ..)
@[simp] theorem execBarinit_ends {p sd h' sa sb imm} (h : s.Inv) : Ends (execBarinit p sd h' sa sb imm s) :=
  of_def (execBarinit.eq_def ..)
@[simp] theorem execBararr_ends {p sd h' sa sb imm} (h : s.Inv) : Ends (execBararr p sd h' sa sb imm s) :=
  of_def (execBararr.eq_def ..)
@[simp] theorem execBarkill_ends {p sd h' sa imm} (h : s.Inv) : Ends (execBarkill p sd h' sa imm s) :=
  of_def (execBarkill.eq_def ..)
@[simp] theorem execBarwait_ends {p sd h' sa sb imm} (h : s.Inv) : Ends (execBarwait p sd h' sa sb imm s) :=
  of_def (execBarwait.eq_def ..)

/-! ### Machine/System -/

@[simp] theorem State.devReadByte_inv {p va} (h : s.Inv) : Answers (s.devReadByte p va) := of_def (State.devReadByte.eq_def ..)
@[simp] theorem State.devRead_inv {p a fuel} (h : s.Inv) : Answers (State.devRead p a fuel s) := by
  induction fuel generalizing a s with
  | zero => exact of_def (State.devRead.eq_1 ..)
  | succ n ih => exact of_def (State.devRead.eq_2 ..)
@[simp] theorem State.devWriteByte_inv {p va b} (h : s.Inv) : Gives (s.devWriteByte p va b) :=
  of_def (State.devWriteByte.eq_def ..)
@[simp] theorem State.devWrite_inv {p a ls} (h : s.Inv) : Gives (State.devWrite p a ls s) := by
  induction ls generalizing a s with
  | nil => exact of_def (State.devWrite.eq_1 ..)
  | cons x l ih => exact of_def (State.devWrite.eq_2 ..)
@[simp] theorem execGetc_ends {p sd creg} (h : s.Inv) : Ends (execGetc p sd creg s) := of_def (execGetc.eq_def ..)
@[simp] theorem execSetc_ends {p creg sa} (h : s.Inv) : Ends (execSetc p creg sa s) := of_def (execSetc.eq_def ..)
@[simp] theorem execVstartWrite_ends {p sa} (h : s.Inv) : Ends (execVstartWrite p sa s) := of_def (execVstartWrite.eq_def ..)
@[simp] theorem execAvlStripWrite_ends {p strip sa} (h : s.Inv) : Ends (execAvlStripWrite p strip sa s) :=
  of_def (execAvlStripWrite.eq_def ..)
@[simp] theorem writeHbase_inv {pt v} (h : s.Inv) : (writeHbase pt v s).Inv := of_def (writeHbase.eq_def ..)
@[simp] theorem execHbaseWrite_ends {rw} (h : s.Inv) : Ends (execHbaseWrite rw s) := of_def (execHbaseWrite.eq_def ..)
@[simp] theorem State.retryPaused_inv {asid} (h : s.Inv) : (s.retryPaused asid).Inv := of_def (State.retryPaused.eq_def ..)
@[simp] theorem writeTlbinv_inv {p v} (h : s.Inv) : (writeTlbinv p v s).Inv := of_def (writeTlbinv.eq_def ..)
@[simp] theorem execTlbinv_ends {rw} (h : s.Inv) : Ends (execTlbinv rw s) := of_def (execTlbinv.eq_def ..)
@[simp] theorem writeLseed_inv {pt v} (h : s.Inv) : (writeLseed pt v s).Inv := of_def (writeLseed.eq_def ..)
@[simp] theorem execLseedWrite_ends {rw} (h : s.Inv) : Ends (execLseedWrite rw s) := of_def (execLseedWrite.eq_def ..)
@[simp] theorem writeSwap_inv {base pt v} (h : s.Inv) : (writeSwap base pt v s).Inv := of_def (writeSwap.eq_def ..)
@[simp] theorem execSwapSlotWrite_ends {base rw} (h : s.Inv) : Ends (execSwapSlotWrite base rw s) :=
  of_def (execSwapSlotWrite.eq_def ..)
@[simp] theorem State.pagesArrived_inv {vf slot} (h : s.Inv) : (s.pagesArrived vf slot).Inv :=
  of_def (State.pagesArrived.eq_def ..)
@[simp] theorem writePfdone_inv {pt v} (h : s.Inv) : (writePfdone pt v s).Inv := of_def (writePfdone.eq_def ..)
@[simp] theorem execPfdone_ends {rw} (h : s.Inv) : Ends (execPfdone rw s) := of_def (execPfdone.eq_def ..)
@[simp] theorem State.stopQueue_inv {vf k} (h : s.Inv) : (s.stopQueue vf k).Inv := of_def (State.stopQueue.eq_def ..)
@[simp] theorem State.checkQueue_inv {vf k} (h : s.Inv) : (s.checkQueue vf k).Inv := of_def (State.checkQueue.eq_def ..)
@[simp] theorem writeLqctl_inv {k pt v} (h : s.Inv) : (writeLqctl k pt v s).Inv := of_def (writeLqctl.eq_def ..)
@[simp] theorem execLqctlWrite_ends {k rw} (h : s.Inv) : Ends (execLqctlWrite k rw s) := of_def (execLqctlWrite.eq_def ..)
@[simp] theorem writeLqprod_inv {k pt v} (h : s.Inv) : (writeLqprod k pt v s).Inv := of_def (writeLqprod.eq_def ..)
@[simp] theorem execLqprodDoorbell_ends {k rw} (h : s.Inv) : Ends (execLqprodDoorbell k rw s) :=
  of_def (execLqprodDoorbell.eq_def ..)
@[simp] theorem execBarRegisterWrite_ends {vf creg value} (h : s.Inv) : Ends (execBarRegisterWrite vf creg value s) :=
  of_def (execBarRegisterWrite.eq_def ..)
@[simp] theorem execSvc_ends {p sd sa} (h : s.Inv) : Ends (execSvc p sd sa s) := of_def (execSvc.eq_def ..)
@[simp] theorem cleanLines_keeps {c ls} : Keeps (cleanLines c ls) := by
  induction ls with
  | nil => exact of_def (cleanLines.eq_1 ..)
  | cons x l ih => exact of_def (cleanLines.eq_2 ..)
@[simp] theorem cleanDieLines_keeps {c ls} : Keeps (cleanDieLines c ls) := by
  induction ls with
  | nil => exact of_def (cleanDieLines.eq_1 ..)
  | cons x l ih => exact of_def (cleanDieLines.eq_2 ..)
@[simp] theorem flushLine_keeps {scope t pt k} : Keeps (flushLine scope t pt k) := of_def (flushLine.eq_def ..)
@[simp] theorem execCflush_ends {p scope h' sa sb} (h : s.Inv) : Ends (execCflush p scope h' sa sb s) :=
  of_def (execCflush.eq_def ..)
@[simp] theorem execCinv_ends {p scope icache h' sa sb} (h : s.Inv) : Ends (execCinv p scope icache h' sa sb s) :=
  of_def (execCinv.eq_def ..)
@[simp] theorem getL_keeps : Keeps (getL) := of_def (getL.eq_def ..)
@[simp] theorem setL_keeps {l} : Keeps (setL l) := of_def (setL.eq_def ..)
@[simp] theorem execEnq_ends {p sa} (h : s.Inv) : Ends (execEnq p sa s) := of_def (execEnq.eq_def ..)
@[simp] theorem execDeq_ends {p sd} (h : s.Inv) : Ends (execDeq p sd s) := of_def (execDeq.eq_def ..)
@[simp] theorem execLaunch_ends {p sd h' sa k} (h : s.Inv) : Ends (execLaunch p sd h' sa k s) := of_def (execLaunch.eq_def ..)
@[simp] theorem State.latch_inv {hive owner input} (h : s.Inv) : (s.latch hive owner input).Inv := of_def (State.latch.eq_def ..)
@[simp] theorem State.pulse_inv {hive owner input} (h : s.Inv) : (s.pulse hive owner input).Inv := of_def (State.pulse.eq_def ..)
@[simp] theorem State.startArmed_inv {h' t term} (h : s.Inv) : (s.startArmed h' t term).Inv := of_def (State.startArmed.eq_def ..)
@[simp] theorem State.fireTerm_inv {hv term} (h : s.Inv) : (s.fireTerm hv term).Inv := of_def (State.fireTerm.eq_def ..)
@[simp] theorem execWaggleTermFire_ends {hv term} (h : s.Inv) : Ends (execWaggleTermFire hv term s) :=
  of_def (execWaggleTermFire.eq_def ..)
@[simp] theorem State.fireTerms_inv {hv} (h : s.Inv) : (s.fireTerms hv).Inv := of_def (State.fireTerms.eq_def ..)
@[simp] theorem execWgcfgWr_ends {p sd sa term n} (h : s.Inv) : Ends (execWgcfgWr p sd sa term n s) :=
  of_def (execWgcfgWr.eq_def ..)
@[simp] theorem execWgcfgFree_ends {p sd sa term n} (h : s.Inv) : Ends (execWgcfgFree p sd sa term n s) :=
  of_def (execWgcfgFree.eq_def ..)
@[simp] theorem execWgcfgRd_ends {p sd sa term n} (h : s.Inv) : Ends (execWgcfgRd p sd sa term n s) :=
  of_def (execWgcfgRd.eq_def ..)
@[simp] theorem execWgfire_ends {p code} (h : s.Inv) : Ends (execWgfire p code s) := of_def (execWgfire.eq_def ..)
@[simp] theorem execWgwait_ends {p sd term} (h : s.Inv) : Ends (execWgwait p sd term s) := of_def (execWgwait.eq_def ..)
@[simp] theorem execIllegalOpcode_ends {w x} (h : s.Inv) : Ends (execIllegalOpcode w x s) := of_def (execIllegalOpcode.eq_def ..)

/-! ### Machine/Turn -/

@[simp] theorem State.serve_inv {t} (h : s.Inv) : (s.serve t).Inv := of_def (State.serve.eq_def ..)
@[simp] theorem State.fetch_inv {t p} (h : s.Inv) : (s.fetch t p).2.Inv := of_def (P := (·.2.Inv)) (State.fetch.eq_def ..)
@[simp] theorem State.readItem_inv {t p a} (h : s.Inv) : (s.readItem t p a).Inv := of_def (State.readItem.eq_def ..)
@[simp] theorem State.refuseWord_inv {t r} (h : s.Inv) : (s.refuseWord t r).Inv := of_def (State.refuseWord.eq_def ..)
@[simp] theorem State.markStart_inv {t} (h : s.Inv) : (s.markStart t).Inv := of_def (State.markStart.eq_def ..)
@[simp] theorem State.issue_inv {t} (h : s.Inv) : (s.issue t).2.Inv := of_def (P := (·.2.Inv)) (State.issue.eq_def ..)

/-! ### Machine/Operands -/

@[simp] theorem regOf_keeps {i n} : Keeps (regOf i n) := of_def (regOf.eq_def ..)
@[simp] theorem raiseCap_keeps {cause regs slot} : Keeps (raiseCap cause regs slot) := of_def (raiseCap.eq_def ..)
@[simp] theorem checkDsts_keeps {cause dsts ok} : Keeps (checkDsts cause dsts ok) := of_def (checkDsts.eq_def ..)
@[simp] theorem capChecksAll_keeps {vd srcs inf dsts} : Keeps (capChecksAll vd srcs inf dsts) := of_def (capChecksAll.eq_def ..)
@[simp] theorem capChecks_keeps {vd srcs inf dst} : Keeps (capChecks vd srcs inf dst) := of_def (capChecks.eq_def ..)
@[simp] theorem overlapCheck_keeps {i vd srcs} : Keeps (overlapCheck i vd srcs) := of_def (overlapCheck.eq_def ..)
@[simp] theorem Comb.blur_inv {c : Comb} {r k t} : (c.blur r k s t).2.1.Inv ↔ s.Inv := by
  unfold Comb.blur
  split <;> simp
@[simp] theorem afterComb_inv {r t} : (afterComb r s t).Inv ↔ s.Inv := by
  unfold afterComb
  split <;> simp
@[simp] theorem combDone_inv {c : Comb} {r t} (hc : c.Sound) (h : s.Inv) : (combDone c r s t).Inv := by
  have ho := fun u => hc.outside r u h
  unfold combDone
  dsimp only
  split <;> simp [ho]
@[simp] theorem combParity_inv {c : Comb} {r k t e} : (combParity c r k s t e).Inv ↔ s.Inv := by simp [combParity]
@[simp] theorem stopLoad_inv {i r e x t} : (stopLoad i r e x s t).Inv ↔ s.Inv := by
  unfold stopLoad
  split <;> simp
def CombStart.Inv : CombStart → Prop
  | .ready _ _ _ s => s.Inv
  | .early s => s.Inv
theorem Comb.start_inv {c : Comb} {i t} (hc : c.Sound) (h : s.Inv) : (c.start i s t).Inv := by
  have hl r {s : State} (h : s.Inv) : Answers (c.load r t s) := hc.load r t h
  unfold Comb.start
  split
  · split
    · simpa [CombStart.Inv]
    · simpa [CombStart.Inv] using hl _ h ‹_›
    · exact hl _ h ‹_›
  · split
    · simpa [CombStart.Inv]
    · have h := hc.prep t h ‹_›
      split
      · simpa [CombStart.Inv]
      · split
        · simpa [CombStart.Inv]
        · simpa [CombStart.Inv] using hl _ h ‹_›
        · exact hl _ h ‹_›
@[simp] theorem runComb_ends {p i} {c : Comb} (hc : c.Sound) (h : s.Inv) : Ends (runComb p i c s) := by
  unfold runComb
  split
  · simp
  · rename_i t _
    split
    · simpa
    · split
      · simpa
      · have hs := c.start_inv (i := i) (t := t) hc h
        split <;> (rename_i e; rw [e] at hs)
        · exact ends_next.2 hs
        · dsimp only
          split
          · exact ends_next.2 (combParity_inv.2 hs)
          · exact ends_next.2 (combDone_inv hc hs)
@[simp] theorem Comb.onePass_inv {c : Comb} {r k t} (hc : c.Sound) (h : s.Inv) : (c.onePass r k s t).Inv := by
  unfold Comb.onePass
  dsimp only
  repeat' split
  all_goals simp [hc, h]
@[simp] theorem stepComb_inv {p i t} {c : Comb} (hc : c.Sound) (h : s.Inv) : (stepComb p i c s t).Inv := by
  unfold stepComb
  split
  · exact h
  · have hs := c.start_inv (s := { s with cur := some t.id }) (i := i) (t := t) hc h
    split <;> (rename_i e; rw [e] at hs)
    · exact hs
    · dsimp only
      split
      · exact combParity_inv.2 hs
      · exact Comb.onePass_inv hc hs

/-! ### Machine/Tile -/

@[simp] theorem freeBytes_keeps {ls} : Keeps (freeBytes ls) := by
  induction ls with
  | nil => exact of_def (freeBytes.eq_1 ..)
  | cons x l ih => exact of_def (freeBytes.eq_2 ..)
@[simp] theorem readTileBytes_keeps {h' a n} : Keeps (readTileBytes h' a n) := of_def (readTileBytes.eq_def ..)
@[simp] theorem readPreamble_keeps {h' o} : Keeps (readPreamble h' o) := of_def (readPreamble.eq_def ..)
@[simp] theorem readMaps_keeps {m ls} : Keeps (readMaps m ls) := by
  induction ls with
  | nil => exact of_def (readMaps.eq_1 ..)
  | cons x l ih => exact of_def (readMaps.eq_2 ..)
@[simp] theorem readMeta_keeps {m pre} : Keeps (readMeta m pre) := of_def (readMeta.eq_def ..)
@[simp] theorem readPieces_keeps {h' base al ls} : Keeps (readPieces h' base al ls) := by
  induction ls with
  | nil => exact of_def (readPieces.eq_1 ..)
  | cons x l ih => exact of_def (readPieces.eq_2 ..)
@[simp] theorem MemTile.readElem_keeps {m ps} : Keeps (MemTile.readElem m ps) := of_def (MemTile.readElem.eq_def ..)
@[simp] theorem MemTile.readScale_keeps {m f} : Keeps (MemTile.readScale m f) := of_def (MemTile.readScale.eq_def ..)
@[simp] theorem MemTile.convertElem_keeps {m md f t rm} : Keeps (MemTile.convertElem m md f t rm) :=
  of_def (MemTile.convertElem.eq_def ..)

/-! ### Machine/Vector -/

@[simp] theorem execVcfg_ends {p vd sb m} (h : s.Inv) : Ends (execVcfg p vd sb m s) := of_def (execVcfg.eq_def ..)
@[simp] theorem execVsetvl_ends {p sb m} (h : s.Inv) : Ends (execVsetvl p sb m s) := of_def (execVsetvl.eq_def ..)
@[simp] theorem execVsetcap_ends {p vd sb m} (h : s.Inv) : Ends (execVsetcap p vd sb m s) := of_def (execVsetcap.eq_def ..)
@[simp] theorem execVgetcap_ends {p sb va m} (h : s.Inv) : Ends (execVgetcap p sb va m s) := of_def (execVgetcap.eq_def ..)
@[simp] theorem execVdisc_ends {p va m} (h : s.Inv) : Ends (execVdisc p va m s) := of_def (execVdisc.eq_def ..)
@[simp] theorem namedRegs_keeps {i ls} : Keeps (namedRegs i ls) := by
  induction ls with
  | nil => exact of_def (namedRegs.eq_1 ..)
  | cons x l ih => exact of_def (namedRegs.eq_2 ..)
@[simp] theorem EOp.prep_keeps {o i p t} : Keeps (EOp.prep o i p t) := of_def (EOp.prep.eq_def ..)
@[simp] theorem EOp.comb_sound {o i p} : (EOp.comb o i p).Sound := of_def (EOp.comb.eq_def ..)
@[simp] theorem addComb_sound {sub o wf i p} : (addComb sub o wf i p).Sound := of_def (addComb.eq_def ..)
@[simp] theorem combVadd_sound {p rm wf vd va src m} : (combVadd p rm wf vd va src m).Sound := of_def (combVadd.eq_def ..)
@[simp] theorem execVadd_ends {p rm wf vd va src m} (h : s.Inv) : Ends (execVadd p rm wf vd va src m s) :=
  of_def (execVadd.eq_def ..)
@[simp] theorem combVsub_sound {p rm wf vd va src m} : (combVsub p rm wf vd va src m).Sound := of_def (combVsub.eq_def ..)
@[simp] theorem execVsub_ends {p rm wf vd va src m} (h : s.Inv) : Ends (execVsub p rm wf vd va src m s) :=
  of_def (execVsub.eq_def ..)
@[simp] theorem combVmul_sound {p rm wf vd va src m} : (combVmul p rm wf vd va src m).Sound := of_def (combVmul.eq_def ..)
@[simp] theorem execVmul_ends {p rm wf vd va src m} (h : s.Inv) : Ends (execVmul p rm wf vd va src m s) :=
  of_def (execVmul.eq_def ..)
@[simp] theorem combVdiv_sound {p rm wf vd va src m} : (combVdiv p rm wf vd va src m).Sound := of_def (combVdiv.eq_def ..)
@[simp] theorem execVdiv_ends {p rm wf vd va src m} (h : s.Inv) : Ends (execVdiv p rm wf vd va src m s) :=
  of_def (execVdiv.eq_def ..)
@[simp] theorem combVmin_sound {p rm wide vd va src m} : (combVmin p rm wide vd va src m).Sound := of_def (combVmin.eq_def ..)
@[simp] theorem execVmin_ends {p rm wide vd va src m} (h : s.Inv) : Ends (execVmin p rm wide vd va src m s) :=
  of_def (execVmin.eq_def ..)
@[simp] theorem combVmax_sound {p rm wide vd va src m} : (combVmax p rm wide vd va src m).Sound := of_def (combVmax.eq_def ..)
@[simp] theorem execVmax_ends {p rm wide vd va src m} (h : s.Inv) : Ends (execVmax p rm wide vd va src m s) :=
  of_def (execVmax.eq_def ..)
@[simp] theorem combVmac_sound {p rm sat vd va src m} : (combVmac p rm sat vd va src m).Sound := of_def (combVmac.eq_def ..)
@[simp] theorem execVmac_ends {p rm sat vd va src m} (h : s.Inv) : Ends (execVmac p rm sat vd va src m s) :=
  of_def (execVmac.eq_def ..)
@[simp] theorem combVfma_sound {p rm vd va src m} : (combVfma p rm vd va src m).Sound := of_def (combVfma.eq_def ..)
@[simp] theorem execVfma_ends {p rm vd va src m} (h : s.Inv) : Ends (execVfma p rm vd va src m s) := of_def (execVfma.eq_def ..)
@[simp] theorem combVrcp_sound {p rm vd va m} : (combVrcp p rm vd va m).Sound := of_def (combVrcp.eq_def ..)
@[simp] theorem execVrcp_ends {p rm vd va m} (h : s.Inv) : Ends (execVrcp p rm vd va m s) := of_def (execVrcp.eq_def ..)
@[simp] theorem combVrsq_sound {p rm vd va m} : (combVrsq p rm vd va m).Sound := of_def (combVrsq.eq_def ..)
@[simp] theorem execVrsq_ends {p rm vd va m} (h : s.Inv) : Ends (execVrsq p rm vd va m s) := of_def (execVrsq.eq_def ..)
@[simp] theorem combVexp_sound {p rm vd va m} : (combVexp p rm vd va m).Sound := of_def (combVexp.eq_def ..)
@[simp] theorem execVexp_ends {p rm vd va m} (h : s.Inv) : Ends (execVexp p rm vd va m s) := of_def (execVexp.eq_def ..)
@[simp] theorem combVabs_sound {p rm sat vd va m} : (combVabs p rm sat vd va m).Sound := of_def (combVabs.eq_def ..)
@[simp] theorem execVabs_ends {p rm sat vd va m} (h : s.Inv) : Ends (execVabs p rm sat vd va m s) := of_def (execVabs.eq_def ..)
@[simp] theorem combVneg_sound {p rm sat vd va m} : (combVneg p rm sat vd va m).Sound := of_def (combVneg.eq_def ..)
@[simp] theorem execVneg_ends {p rm sat vd va m} (h : s.Inv) : Ends (execVneg p rm sat vd va m s) := of_def (execVneg.eq_def ..)
@[simp] theorem combVand_sound {p vd va src m} : (combVand p vd va src m).Sound := of_def (combVand.eq_def ..)
@[simp] theorem execVand_ends {p vd va src m} (h : s.Inv) : Ends (execVand p vd va src m s) := of_def (execVand.eq_def ..)
@[simp] theorem combVor_sound {p vd va src m} : (combVor p vd va src m).Sound := of_def (combVor.eq_def ..)
@[simp] theorem execVor_ends {p vd va src m} (h : s.Inv) : Ends (execVor p vd va src m s) := of_def (execVor.eq_def ..)
@[simp] theorem combVxor_sound {p vd va src m} : (combVxor p vd va src m).Sound := of_def (combVxor.eq_def ..)
@[simp] theorem execVxor_ends {p vd va src m} (h : s.Inv) : Ends (execVxor p vd va src m s) := of_def (execVxor.eq_def ..)
@[simp] theorem combVnot_sound {p vd va m} : (combVnot p vd va m).Sound := of_def (combVnot.eq_def ..)
@[simp] theorem execVnot_ends {p vd va m} (h : s.Inv) : Ends (execVnot p vd va m s) := of_def (execVnot.eq_def ..)
@[simp] theorem combVshl_sound {p vd va src m} : (combVshl p vd va src m).Sound := of_def (combVshl.eq_def ..)
@[simp] theorem execVshl_ends {p vd va src m} (h : s.Inv) : Ends (execVshl p vd va src m s) := of_def (execVshl.eq_def ..)
@[simp] theorem combVshr_sound {p vd va src m} : (combVshr p vd va src m).Sound := of_def (combVshr.eq_def ..)
@[simp] theorem execVshr_ends {p vd va src m} (h : s.Inv) : Ends (execVshr p vd va src m s) := of_def (execVshr.eq_def ..)
@[simp] theorem combVsra_sound {p vd va src m} : (combVsra p vd va src m).Sound := of_def (combVsra.eq_def ..)
@[simp] theorem execVsra_ends {p vd va src m} (h : s.Inv) : Ends (execVsra p vd va src m s) := of_def (execVsra.eq_def ..)
@[simp] theorem combVcmp_sound {p rel mdst vd va src m} : (combVcmp p rel mdst vd va src m).Sound := of_def (combVcmp.eq_def ..)
@[simp] theorem execVcmp_ends {p rel mdst vd va src m} (h : s.Inv) : Ends (execVcmp p rel mdst vd va src m s) :=
  of_def (execVcmp.eq_def ..)
@[simp] theorem combVsel_sound {p vd va vb mc m} : (combVsel p vd va vb mc m).Sound := of_def (combVsel.eq_def ..)
@[simp] theorem execVsel_ends {p vd va vb mc m} (h : s.Inv) : Ends (execVsel p vd va vb mc m s) := of_def (execVsel.eq_def ..)
@[simp] theorem combVmov_sound {p vd va m} : (combVmov p vd va m).Sound := of_def (combVmov.eq_def ..)
@[simp] theorem execVmov_ends {p vd va m} (h : s.Inv) : Ends (execVmov p vd va m s) := of_def (execVmov.eq_def ..)
@[simp] theorem combVbcast_sound {p vd sb fmt m} : (combVbcast p vd sb fmt m).Sound := of_def (combVbcast.eq_def ..)
@[simp] theorem execVbcast_ends {p vd sb fmt m} (h : s.Inv) : Ends (execVbcast p vd sb fmt m s) := of_def (execVbcast.eq_def ..)
@[simp] theorem combVcvt_sound {p rm vd va fmt m} : (combVcvt p rm vd va fmt m).Sound := of_def (combVcvt.eq_def ..)
@[simp] theorem execVcvt_ends {p rm vd va fmt m} (h : s.Inv) : Ends (execVcvt p rm vd va fmt m s) := of_def (execVcvt.eq_def ..)
@[simp] theorem combVshift_sound {p vd va sb m} : (combVshift p vd va sb m).Sound := of_def (combVshift.eq_def ..)
@[simp] theorem execVshift_ends {p vd va sb m} (h : s.Inv) : Ends (execVshift p vd va sb m s) := of_def (execVshift.eq_def ..)
@[simp] theorem combVrand_sound {p vd sb fmt m} : (combVrand p vd sb fmt m).Sound := of_def (combVrand.eq_def ..)
@[simp] theorem execVrand_ends {p vd sb fmt m} (h : s.Inv) : Ends (execVrand p vd sb fmt m s) := of_def (execVrand.eq_def ..)

/-! ### Machine/VMem -/

@[simp] theorem holdAt_keeps {i r e x} : Keeps (holdAt i r e x) := of_def (holdAt.eq_def ..)
@[simp] theorem pieceShort_keeps {h' base al p} : Keeps (pieceShort h' base al p) := of_def (pieceShort.eq_def ..)
@[simp] theorem elemShort_keeps {h' base al ls} : Keeps (elemShort h' base al ls) := by
  induction ls with
  | nil => exact of_def (elemShort.eq_1 ..)
  | cons x l ih => exact of_def (elemShort.eq_2 ..)
@[simp] theorem loadElems_keeps {i vd r m from_ upTo done} : Keeps (loadElems i vd r m from_ upTo done) :=
  of_def (loadElems.eq_def ..)
@[simp] theorem vectorLoad_ends {ff p i vd h' sb disp} (h : s.Inv) : Ends (vectorLoad ff p i vd h' sb disp s) :=
  of_def (vectorLoad.eq_def ..)
@[simp] theorem execVld_ends {p vd h' sb disp} (h : s.Inv) : Ends (execVld p vd h' sb disp s) := of_def (execVld.eq_def ..)
@[simp] theorem execVldff_ends {p vd h' sb disp} (h : s.Inv) : Ends (execVldff p vd h' sb disp s) := of_def (execVldff.eq_def ..)
@[simp] theorem writePiece_keeps {h' base al f x p} : Keeps (writePiece h' base al f x p) := of_def (writePiece.eq_def ..)
@[simp] theorem writePieces_keeps {h' base al f x ls} : Keeps (writePieces h' base al f x ls) := by
  induction ls with
  | nil => exact of_def (writePieces.eq_1 ..)
  | cons x l ih => exact of_def (writePieces.eq_2 ..)
@[simp] theorem checkPieces_keeps {h' base al ls} : Keeps (checkPieces h' base al ls) := by
  induction ls with
  | nil => exact of_def (checkPieces.eq_1 ..)
  | cons x l ih => exact of_def (checkPieces.eq_2 ..)
@[simp] theorem storeElems_keeps {i va r h' from_} : Keeps (storeElems i va r h' from_) := of_def (storeElems.eq_def ..)
@[simp] theorem execVst_ends {p va h' sb disp} (h : s.Inv) : Ends (execVst p va h' sb disp s) := of_def (execVst.eq_def ..)
@[simp] theorem execVectorAccessComplete_ends {t store} (h : s.Inv) : Ends (execVectorAccessComplete t store s) :=
  of_def (execVectorAccessComplete.eq_def ..)
@[simp] theorem vcvtPrep_keeps {p i vd sb f t} : Keeps (vcvtPrep p i vd sb f t) := of_def (vcvtPrep.eq_def ..)
@[simp] theorem vcvtLoad_keeps {rm f r t} : Keeps (vcvtLoad rm f r t) := of_def (vcvtLoad.eq_def ..)
@[simp] theorem combVcvtMem_sound {p rm vd sb fmt m} : (combVcvtMem p rm vd sb fmt m).Sound := of_def (combVcvtMem.eq_def ..)
@[simp] theorem execVcvtMem_ends {p rm vd sb fmt m} (h : s.Inv) : Ends (execVcvtMem p rm vd sb fmt m s) :=
  of_def (execVcvtMem.eq_def ..)

/-! ### Machine/Engine -/

@[simp] theorem armCheck_keeps {i tgt term} : Keeps (armCheck i tgt term) := of_def (armCheck.eq_def ..)
@[simp] theorem armTake_keeps {term} : Keeps (armTake term) := of_def (armTake.eq_def ..)
@[simp] theorem armTrigger_keeps {i tgt term} : Keeps (armTrigger i tgt term) := of_def (armTrigger.eq_def ..)
@[simp] theorem checkStatic_keeps {h' o n acc al} : Keeps (checkStatic h' o n acc al) := of_def (checkStatic.eq_def ..)
@[simp] theorem readRegions_keeps {setNo b k fuel} : Keeps (readRegions setNo b k fuel) := by
  induction fuel generalizing k with
  | zero => exact of_def (readRegions.eq_1 ..)
  | succ n ih => exact of_def (readRegions.eq_2 ..)
@[simp] theorem footprintSet_keeps {setNo} : Keeps (footprintSet setNo) := of_def (footprintSet.eq_def ..)
@[simp] theorem captureArrival_keeps {e} : Keeps (captureArrival e) := of_def (captureArrival.eq_def ..)
@[simp] theorem issueJob_keeps {kind cls input armed regions promise dues obj} :
    Keeps (issueJob kind cls input armed regions promise dues obj) :=
  of_def (issueJob.eq_def ..)
@[simp] theorem State.pauseJob_inv {j cause addr} (h : s.Inv) : (s.pauseJob j cause addr).Inv := of_def (State.pauseJob.eq_def ..)
@[simp] theorem State.pulseFor_inv {t input} (h : s.Inv) : (s.pulseFor t input).Inv := of_def (State.pulseFor.eq_def ..)
@[simp] theorem State.completeFor_inv {t cls input flags dues} (h : s.Inv) : (s.completeFor t cls input flags dues).Inv :=
  of_def (State.completeFor.eq_def ..)
@[simp] theorem State.dropJob_inv {id} (h : s.Inv) : (s.dropJob id).Inv := of_def (State.dropJob.eq_def ..)
@[simp] theorem arriveFor_keeps {a} : Keeps (arriveFor a) := of_def (arriveFor.eq_def ..)
@[simp] theorem State.endJob_inv {j} (h : s.Inv) : (s.endJob j).Inv := of_def (State.endJob.eq_def ..)
@[simp] theorem State.arriveJob_inv {t j a} (h : s.Inv) : (s.arriveJob t j a).Inv := of_def (State.arriveJob.eq_def ..)
@[simp] theorem State.finishJob_inv {j} (h : s.Inv) : (s.finishJob j).Inv := of_def (State.finishJob.eq_def ..)
@[simp] theorem sideRead_keeps {h' a n} : Keeps (sideRead h' a n) := of_def (sideRead.eq_def ..)
@[simp] theorem sideWrite_keeps {h'} : Keeps (sideWrite h') := of_def (sideWrite.eq_def ..)
@[simp] theorem engineBytes_keeps {h' a n} : Keeps (engineBytes h' a n) := of_def (engineBytes.eq_def ..)
@[simp] theorem engineWrite_keeps {h' acc a b} : Keeps (engineWrite h' acc a b) := of_def (engineWrite.eq_def ..)
@[simp] theorem enginePieces_keeps {h' base ls} : Keeps (enginePieces h' base ls) := by
  induction ls with
  | nil => exact of_def (enginePieces.eq_1 ..)
  | cons x l ih => exact of_def (enginePieces.eq_2 ..)
@[simp] theorem TileRef.elemVal_keeps {r f} : Keeps (TileRef.elemVal r f) := of_def (TileRef.elemVal.eq_def ..)

/-! ### Machine/Forager -/

@[simp] theorem execFgath_ends {p trig vd vi h' fset gfmt lsc rbase} (h : s.Inv) :
    Ends (execFgath p trig vd vi h' fset gfmt lsc rbase s) :=
  of_def (execFgath.eq_def ..)
@[simp] theorem scatterChecks_keeps {i va vi ok} : Keeps (scatterChecks i va vi ok) := of_def (scatterChecks.eq_def ..)
@[simp] theorem execFscat_ends {p trig va vi h' fset lsc rbase} (h : s.Inv) : Ends (execFscat p trig va vi h' fset lsc rbase s) :=
  of_def (execFscat.eq_def ..)
@[simp] theorem scataAccess_keeps {h' n e} : Keeps (scataAccess h' n e) := of_def (scataAccess.eq_def ..)
@[simp] theorem execFscata_ends {p rm trig va vi h' fset lsc rbase} (h : s.Inv) :
    Ends (execFscata p rm trig va vi h' fset lsc rbase s) :=
  of_def (execFscata.eq_def ..)
@[simp] theorem streamBound_keeps {h' o n} : Keeps (streamBound h' o n) := of_def (streamBound.eq_def ..)
@[simp] theorem streamElems_keeps {h' first stride n acc k fuel} : Keeps (streamElems h' first stride n acc k fuel) := by
  induction fuel generalizing k with
  | zero => exact of_def (streamElems.eq_1 ..)
  | succ n ih => exact of_def (streamElems.eq_2 ..)
@[simp] theorem streamChecks_keeps {h' first stride count n acc} : Keeps (streamChecks h' first stride count n acc) :=
  of_def (streamChecks.eq_def ..)
@[simp] theorem execFstrm_ends {p trig sd sa sb h' fset sfmt dir q stride} (h : s.Inv) :
    Ends (execFstrm p trig sd sa sb h' fset sfmt dir q stride s) :=
  of_def (execFstrm.eq_def ..)
@[simp] theorem gatherAccess_keeps {j vd f h' l} : Keeps (gatherAccess j vd f h' l) := of_def (gatherAccess.eq_def ..)
@[simp] theorem scatterAccess_keeps {j f h' l} : Keeps (scatterAccess j f h' l) := of_def (scatterAccess.eq_def ..)
@[simp] theorem scataAccessStep_keeps {j f rm h' l} : Keeps (scataAccessStep j f rm h' l) := of_def (scataAccessStep.eq_def ..)
@[simp] theorem streamAccess_keeps {j inb q h' first stride} : Keeps (streamAccess j inb q h' first stride) :=
  of_def (streamAccess.eq_def ..)
@[simp] theorem foragerStep_keeps {j} : Keeps (foragerStep j) := of_def (foragerStep.eq_def ..)
@[simp] theorem State.foragerAccess_inv {t j} (h : s.Inv) : (s.foragerAccess t j).Inv := of_def (State.foragerAccess.eq_def ..)
@[simp] theorem execForagerAccess_ends {j} (h : s.Inv) : Ends (execForagerAccess j s) := of_def (execForagerAccess.eq_def ..)
@[simp] theorem takeElemDues_keeps {job ds} : Keeps (takeElemDues job ds) := of_def (takeElemDues.eq_def ..)
@[simp] theorem vpopRun_keeps {i r sd vd q from_ n poison} : Keeps (vpopRun i r sd vd q from_ n poison) :=
  of_def (vpopRun.eq_def ..)
@[simp] theorem execVpop_ends {p sd vd q} (h : s.Inv) : Ends (execVpop p sd vd q s) := of_def (execVpop.eq_def ..)
@[simp] theorem vpushRun_keeps {i r sd va q from_ n} : Keeps (vpushRun i r sd va q from_ n) := of_def (vpushRun.eq_def ..)
@[simp] theorem execVpush_ends {p sd va q} (h : s.Inv) : Ends (execVpush p sd va q s) := of_def (execVpush.eq_def ..)
@[simp] theorem State.syncQueue_inv {t q} (h : s.Inv) : (s.syncQueue t q).Inv := of_def (State.syncQueue.eq_def ..)
@[simp] theorem State.endStreams_inv {id} (h : s.Inv) : (s.endStreams id).Inv := of_def (State.endStreams.eq_def ..)
@[simp] theorem execFgsync_ends {p sd mask} (h : s.Inv) : Ends (execFgsync p sd mask s) := of_def (execFgsync.eq_def ..)

/-! ### Machine/Copy -/

@[simp] theorem copyRowCheck_keeps {dst src doff soff n} : Keeps (copyRowCheck dst src doff soff n) :=
  of_def (copyRowCheck.eq_def ..)
@[simp] theorem copyRowChecks_keeps {dst src doff soff dstride sstride len r fuel} :
    Keeps (copyRowChecks dst src doff soff dstride sstride len r fuel) := by
  induction fuel generalizing r with
  | zero => exact of_def (copyRowChecks.eq_1 ..)
  | succ n ih => exact of_def (copyRowChecks.eq_2 ..)
@[simp] theorem promiseFor_keeps {regions dur extra} : Keeps (promiseFor regions dur extra) := of_def (promiseFor.eq_def ..)
@[simp] theorem copyIssue_keeps {trig sd h' sh fset doff soff len rows dur dstride sstride} :
    Keeps (copyIssue trig sd h' sh fset doff soff len rows dur dstride sstride) :=
  of_def (copyIssue.eq_def ..)
@[simp] theorem execCopy_ends {p trig sd sa sb h' fset sh sor} (h : s.Inv) : Ends (execCopy p trig sd sa sb h' fset sh sor s) :=
  of_def (execCopy.eq_def ..)
@[simp] theorem execCopy2d_ends {p trig sd sa sb h' fset sh sor} (h : s.Inv) :
    Ends (execCopy2d p trig sd sa sb h' fset sh sor s) :=
  of_def (execCopy2d.eq_def ..)
@[simp] theorem moveByte_keeps {dst src da sa} : Keeps (moveByte dst src da sa) := of_def (moveByte.eq_def ..)
@[simp] theorem moveBytes_keeps {j dst src da sa k fuel} : Keeps (moveBytes j dst src da sa k fuel) := by
  induction fuel generalizing k with
  | zero => exact of_def (moveBytes.eq_1 ..)
  | succ n ih => exact of_def (moveBytes.eq_2 ..)
@[simp] theorem State.runCopy_inv {t j} (h : s.Inv) : (s.runCopy t j).Inv := of_def (State.runCopy.eq_def ..)
@[simp] theorem hsrdAccess_keeps {h' o n al} : Keeps (hsrdAccess h' o n al) := of_def (hsrdAccess.eq_def ..)
@[simp] theorem execHsrd_ends {p trig sa vd h'} (h : s.Inv) : Ends (execHsrd p trig sa vd h' s) := of_def (execHsrd.eq_def ..)
@[simp] theorem hsrdElems_keeps {r ls} : Keeps (hsrdElems r ls) := by
  induction ls generalizing r with
  | nil => exact of_def (hsrdElems.eq_1 ..)
  | cons x l ih => exact of_def (hsrdElems.eq_2 ..)
@[simp] theorem State.runHsrd_inv {t j} (h : s.Inv) : (s.runHsrd t j).Inv := of_def (State.runHsrd.eq_def ..)
@[simp] theorem execHswr_ends {p sa sb h' sh sor} (h : s.Inv) : Ends (execHswr p sa sb h' sh sor s) := of_def (execHswr.eq_def ..)

/-! ### Machine/Matrix -/

@[simp] theorem execMxatt_ends {p sa sb} (h : s.Inv) : Ends (execMxatt p sa sb s) := of_def (execMxatt.eq_def ..)
@[simp] theorem execMxdet_ends {p} (h : s.Inv) : Ends (execMxdet p s) := of_def (execMxdet.eq_def ..)
@[simp] theorem needGrant_keeps {i t} : Keeps (needGrant i t) := of_def (needGrant.eq_def ..)
@[simp] theorem mxEnqueue_keeps {kind armed tag flags dues} : Keeps (mxEnqueue kind armed tag flags dues) :=
  of_def (mxEnqueue.eq_def ..)
@[simp] theorem execMxzero_ends {p ad} (h : s.Inv) : Ends (execMxzero p ad s) := of_def (execMxzero.eq_def ..)
@[simp] theorem depthOperands_keeps {i slot r0 d} : Keeps (depthOperands i slot r0 d) := of_def (depthOperands.eq_def ..)
@[simp] theorem checkDepth_keeps {cause l ok} : Keeps (checkDepth cause l ok) := of_def (checkDepth.eq_def ..)
@[simp] theorem depthChecks_keeps {l first} : Keeps (depthChecks l first) := of_def (depthChecks.eq_def ..)
@[simp] theorem onOwnDie_keeps {h' o n} : Keeps (onOwnDie h' o n) := of_def (onOwnDie.eq_def ..)
@[simp] theorem honeyAccess_keeps {h' o n al} : Keeps (honeyAccess h' o n al) := of_def (honeyAccess.eq_def ..)
@[simp] theorem honeyElem_keeps {m md f} : Keeps (honeyElem m md f) := of_def (honeyElem.eq_def ..)
@[simp] theorem mxmacComb_keeps {i p rm sat trig ad va vb sa m n kcnt t} :
    Keeps (mxmacComb i p rm sat trig ad va vb sa m n kcnt t) :=
  of_def (mxmacComb.eq_def ..)
@[simp] theorem mxmacHoney_keeps {i p rm sat trig ad va h' sb sa m n kcnt t} :
    Keeps (mxmacHoney i p rm sat trig ad va h' sb sa m n kcnt t) :=
  of_def (mxmacHoney.eq_def ..)
@[simp] theorem execMxmac_ends {p rm sat trig ad va b sa mm1 nm1 km1} (h : s.Inv) :
    Ends (execMxmac p rm sat trig ad va b sa mm1 nm1 km1 s) :=
  of_def (execMxmac.eq_def ..)
@[simp] theorem execMxld_ends {p trig ad sa h'} (h : s.Inv) : Ends (execMxld p trig ad sa h' s) := of_def (execMxld.eq_def ..)
@[simp] theorem targetRo_keeps {h' a} : Keeps (targetRo h' a) := of_def (targetRo.eq_def ..)
@[simp] theorem checkLeaves_keeps {h' acc ls} : Keeps (checkLeaves h' acc ls) := by
  induction ls with
  | nil => exact of_def (checkLeaves.eq_1 ..)
  | cons x l ih => exact of_def (checkLeaves.eq_2 ..)
@[simp] theorem execMxrd_ends {p trig ad sa sb h'} (h : s.Inv) : Ends (execMxrd p trig ad sa sb h' s) :=
  of_def (execMxrd.eq_def ..)
@[simp] theorem execMxscl_ends {p trig sa h'} (h : s.Inv) : Ends (execMxscl p trig sa h' s) := of_def (execMxscl.eq_def ..)
@[simp] theorem execMxdrain_ends {p rm trig va ad vb sa mm1 nm1 tfmt ozp usep rowt dclr} (h : s.Inv) :
    Ends (execMxdrain p rm trig va ad vb sa mm1 nm1 tfmt ozp usep rowt dclr s) :=
  of_def (execMxdrain.eq_def ..)
@[simp] theorem honeyColumn_keeps {r d k j fuel} : Keeps (honeyColumn r d k j fuel) := by
  induction fuel with
  | zero => exact of_def (honeyColumn.eq_1 ..)
  | succ n ih => exact of_def (honeyColumn.eq_2 ..)
@[simp] theorem honeyColumns_keeps {r d k ls} : Keeps (honeyColumns r d k ls) := by
  induction ls generalizing r d k with
  | nil => exact of_def (honeyColumns.eq_1 ..)
  | cons x l ih => exact of_def (honeyColumns.eq_2 ..)
@[simp] theorem correctWords_keeps {k m n} : Keeps (correctWords k m n) := of_def (correctWords.eq_def ..)
@[simp] theorem macStep_keeps {op o} : Keeps (macStep op o) := of_def (macStep.eq_def ..)
@[simp] theorem ldWord_keeps {r f} : Keeps (ldWord r f) := of_def (ldWord.eq_def ..)
@[simp] theorem ldOp_keeps {op k r} : Keeps (ldOp op k r) := of_def (ldOp.eq_def ..)
@[simp] theorem sclEntry_keeps {h' o j} : Keeps (sclEntry h' o j) := of_def (sclEntry.eq_def ..)
@[simp] theorem sclOp_keeps {op h' o} : Keeps (sclOp op h' o) := of_def (sclOp.eq_def ..)
@[simp] theorem rdWrite_keeps {h' ls} : Keeps (rdWrite h' ls) := by
  induction ls generalizing h' with
  | nil => exact of_def (rdWrite.eq_1 ..)
  | cons x l ih => exact of_def (rdWrite.eq_2 ..)
@[simp] theorem freeWords_keeps {k ls} : Keeps (freeWords k ls) := by
  induction ls with
  | nil => exact of_def (freeWords.eq_1 ..)
  | cons x l ih => exact of_def (freeWords.eq_2 ..)
@[simp] theorem rdSnap_keeps {op k} : Keeps (rdSnap op k) := of_def (rdSnap.eq_def ..)
@[simp] theorem rdOp_keeps {op k h' o o2} : Keeps (rdOp op k h' o o2) := of_def (rdOp.eq_def ..)
@[simp] theorem drainOp_keeps {op d} : Keeps (drainOp op d) := of_def (drainOp.eq_def ..)

/-! ### Machine/Pool -/

@[simp] theorem poolBytes_keeps {h' off n} : Keeps (poolBytes h' off n) := of_def (poolBytes.eq_def ..)
@[simp] theorem poolNat_keeps {h' off n} : Keeps (poolNat h' off n) := of_def (poolNat.eq_def ..)
@[simp] theorem poolPutBytes_keeps {h' off b} : Keeps (poolPutBytes h' off b) := of_def (poolPutBytes.eq_def ..)
@[simp] theorem poolPut_keeps {h' off n v} : Keeps (poolPut h' off n v) := of_def (poolPut.eq_def ..)
@[simp] theorem structAccess_keeps {h' off write} : Keeps (structAccess h' off write) := of_def (structAccess.eq_def ..)
@[simp] theorem openPool_keeps {hn descs write metas} : Keeps (openPool hn descs write metas) := of_def (openPool.eq_def ..)
@[simp] theorem readDesc_keeps {k off} : Keeps (readDesc k off) := of_def (readDesc.eq_def ..)
@[simp] theorem putDesc_keeps {k off d} : Keeps (putDesc k off d) := of_def (putDesc.eq_def ..)
@[simp] theorem holdBusy_keeps {d} : Keeps (holdBusy d) := of_def (holdBusy.eq_def ..)
@[simp] theorem needSeq_keeps {k off ok} : Keeps (needSeq k off ok) := of_def (needSeq.eq_def ..)
@[simp] theorem getBlock_keeps {k b} : Keeps (getBlock k b) := of_def (getBlock.eq_def ..)
@[simp] theorem putBlock_keeps {k b e} : Keeps (putBlock k b e) := of_def (putBlock.eq_def ..)
@[simp] theorem findSlots_keeps {k q l ls} : Keeps (findSlots k q l ls) := by
  induction ls with
  | nil => exact of_def (findSlots.eq_1 ..)
  | cons x l ih => exact of_def (findSlots.eq_2 ..)
@[simp] theorem findOverflow_keeps {k q l fuel b} : Keeps (findOverflow k q l fuel b) := by
  induction fuel generalizing b with
  | zero => exact of_def (findOverflow.eq_1 ..)
  | succ n ih => exact of_def (findOverflow.eq_2 ..)
@[simp] theorem lookup_keeps {k q l} : Keeps (lookup k q l) := of_def (lookup.eq_def ..)
@[simp] theorem slotHolding_keeps {k b ls} : Keeps (slotHolding k b ls) := by
  induction ls with
  | nil => exact of_def (slotHolding.eq_1 ..)
  | cons x l ih => exact of_def (slotHolding.eq_2 ..)
@[simp] theorem insertBlock_keeps {k b e} : Keeps (insertBlock k b e) := of_def (insertBlock.eq_def ..)
@[simp] theorem unlinkOverflow_keeps {k b next fuel a r} : Keeps (unlinkOverflow k b next fuel a r) := by
  induction fuel generalizing a r with
  | zero => exact of_def (unlinkOverflow.eq_1 ..)
  | succ n ih => exact of_def (unlinkOverflow.eq_2 ..)
@[simp] theorem removeKey_keeps {k b e} : Keeps (removeKey k b e) := of_def (removeKey.eq_def ..)
@[simp] theorem allocBlock_keeps {k} : Keeps (allocBlock k) := of_def (allocBlock.eq_def ..)
@[simp] theorem freeBlock_keeps {k b} : Keeps (freeBlock k b) := of_def (freeBlock.eq_def ..)
@[simp] theorem freeBlocks_keeps {k l} : Keeps (freeBlocks k l) := of_def (freeBlocks.eq_def ..)
@[simp] theorem lowerRef_keeps {k b} : Keeps (lowerRef k b) := of_def (lowerRef.eq_def ..)
@[simp] theorem raiseRef_keeps {k b} : Keeps (raiseRef k b) := of_def (raiseRef.eq_def ..)
@[simp] theorem findDir_keeps {k ok ls} : Keeps (findDir k ok ls) := by
  induction ls with
  | nil => exact of_def (findDir.eq_1 ..)
  | cons x l ih => exact of_def (findDir.eq_2 ..)
@[simp] theorem lookupDir_keeps {k q l} : Keeps (lookupDir k q l) := of_def (lookupDir.eq_def ..)
@[simp] theorem dropDir_keeps {k n} : Keeps (dropDir k n) := of_def (dropDir.eq_def ..)
@[simp] theorem dropDirs_keeps {k p ls} : Keeps (dropDirs k p ls) := by
  induction ls with
  | nil => exact of_def (dropDirs.eq_1 ..)
  | cons x l ih => exact of_def (dropDirs.eq_2 ..)
@[simp] theorem dropDirWhere_keeps {k p} : Keeps (dropDirWhere k p) := of_def (dropDirWhere.eq_def ..)
@[simp] theorem resolve_keeps {k d l} : Keeps (resolve k d l) := of_def (resolve.eq_def ..)
@[simp] theorem resolveAll_keeps {k d ls} : Keeps (resolveAll k d ls) := by
  induction ls with
  | nil => exact of_def (resolveAll.eq_1 ..)
  | cons x l ih => exact of_def (resolveAll.eq_2 ..)
@[simp] theorem unmap_keeps {k d l b} : Keeps (unmap k d l b) := of_def (unmap.eq_def ..)
@[simp] theorem unmapAll_keeps {k d ls} : Keeps (unmapAll k d ls) := by
  induction ls with
  | nil => exact of_def (unmapAll.eq_1 ..)
  | cons x l ih => exact of_def (unmapAll.eq_2 ..)

/-! ### Machine/Kv -/

@[simp] theorem execKvseqNew_ends {p sd sa sb sc h' tag brow bmaxl} (h : s.Inv) :
    Ends (execKvseqNew p sd sa sb sc h' tag brow bmaxl s) :=
  of_def (execKvseqNew.eq_def ..)
@[simp] theorem openLive_keeps {h' off} : Keeps (openLive h' off) := of_def (openLive.eq_def ..)
@[simp] theorem execKvseqEnd_ends {p sd sa h'} (h : s.Inv) : Ends (execKvseqEnd p sd sa h' s) := of_def (execKvseqEnd.eq_def ..)
@[simp] theorem sealBlocks_keeps {k ls} : Keeps (sealBlocks k ls) := by
  induction ls with
  | nil => exact of_def (sealBlocks.eq_1 ..)
  | cons x l ih => exact of_def (sealBlocks.eq_2 ..)
@[simp] theorem execKvseqSeal_ends {p sd sa h'} (h : s.Inv) : Ends (execKvseqSeal p sd sa h' s) :=
  of_def (execKvseqSeal.eq_def ..)
@[simp] theorem execSptag_ends {p sa h' tag} (h : s.Inv) : Ends (execSptag p sa h' tag s) := of_def (execSptag.eq_def ..)
@[simp] theorem mapBlock_keeps {k d l b e} : Keeps (mapBlock k d l b e) := of_def (mapBlock.eq_def ..)
@[simp] theorem openBlock_keeps {k d off slot pos nlb} : Keeps (openBlock k d off slot pos nlb) := of_def (openBlock.eq_def ..)
@[simp] theorem copyOnWrite_keeps {k d nlb b e} : Keeps (copyOnWrite k d nlb b e) := of_def (copyOnWrite.eq_def ..)
@[simp] theorem appToken_keeps {k d off slot pos r} : Keeps (appToken k d off slot pos r) := of_def (appToken.eq_def ..)
@[simp] theorem appTokens_keeps {k d off slot pos fuel r} : Keeps (appTokens k d off slot pos fuel r) := by
  induction fuel generalizing slot pos r with
  | zero => exact of_def (appTokens.eq_1 ..)
  | succ n ih => exact of_def (appTokens.eq_2 ..)
@[simp] theorem copyRecords_keeps {h' dst src fuel} : Keeps (copyRecords h' dst src fuel) := by
  induction fuel generalizing dst src with
  | zero => exact of_def (copyRecords.eq_1 ..)
  | succ n ih => exact of_def (copyRecords.eq_2 ..)
@[simp] theorem copyBlocks_keeps {k ls} : Keeps (copyBlocks k ls) := by
  induction ls generalizing k with
  | nil => exact of_def (copyBlocks.eq_1 ..)
  | cons x l ih => exact of_def (copyBlocks.eq_2 ..)
@[simp] theorem checkRecords_keeps {k l} : Keeps (checkRecords k l) := of_def (checkRecords.eq_def ..)
@[simp] theorem execKvapp_ends {p sd sa sc h' sh sor} (h : s.Inv) : Ends (execKvapp p sd sa sc h' sh sor s) :=
  of_def (execKvapp.eq_def ..)
@[simp] theorem commitFills_keeps {k ls} : Keeps (commitFills k ls) := by
  induction ls with
  | nil => exact of_def (commitFills.eq_1 ..)
  | cons x l ih => exact of_def (commitFills.eq_2 ..)
@[simp] theorem commitApp_keeps {k off fills} : Keeps (commitApp k off fills) := of_def (commitApp.eq_def ..)
@[simp] theorem State.poolStep_inv {t j m} (hm : Keeps m) (h : s.Inv) : (s.poolStep t j m).Inv :=
  of_def (State.poolStep.eq_def ..)
@[simp] theorem execKvappCommit_ends {j} (h : s.Inv) : Ends (execKvappCommit j s) := of_def (execKvappCommit.eq_def ..)
@[simp] theorem kvFind_keeps {k d l} : Keeps (kvFind k d l) := of_def (kvFind.eq_def ..)
@[simp] theorem execKvlook_ends {p sd sa sb h'} (h : s.Inv) : Ends (execKvlook p sd sa sb h' s) := of_def (execKvlook.eq_def ..)
@[simp] theorem execKvlookLd_ends {p vd sd sa sb h'} (h : s.Inv) : Ends (execKvlookLd p vd sd sa sb h' s) :=
  of_def (execKvlookLd.eq_def ..)
@[simp] theorem execKvlookPf_ends {p sd sa sb h'} (h : s.Inv) : Ends (execKvlookPf p sd sa sb h' s) :=
  of_def (execKvlookPf.eq_def ..)
@[simp] theorem execKvfree_ends {p sd sa sb sc h'} (h : s.Inv) : Ends (execKvfree p sd sa sb sc h' s) :=
  of_def (execKvfree.eq_def ..)
@[simp] theorem retireSpan_ends {p i close sd sa h' tag} (h : s.Inv) : Ends (retireSpan p i close sd sa h' tag s) :=
  of_def (retireSpan.eq_def ..)
@[simp] theorem execSpretHole_ends {p sd sa h' tag} (h : s.Inv) : Ends (execSpretHole p sd sa h' tag s) :=
  of_def (execSpretHole.eq_def ..)
@[simp] theorem execSpretClose_ends {p sd sa h' tag} (h : s.Inv) : Ends (execSpretClose p sd sa h' tag s) :=
  of_def (execSpretClose.eq_def ..)

/-! ### Machine/KvShare -/

@[simp] theorem readDescs_keeps {k ls} : Keeps (readDescs k ls) := by
  induction ls with
  | nil => exact of_def (readDescs.eq_1 ..)
  | cons x l ih => exact of_def (readDescs.eq_2 ..)
@[simp] theorem readNats_keeps {h' off fuel} : Keeps (readNats h' off fuel) := by
  induction fuel generalizing off with
  | zero => exact of_def (readNats.eq_1 ..)
  | succ n ih => exact of_def (readNats.eq_2 ..)
@[simp] theorem readBeams_keeps {k ls} : Keeps (readBeams k ls) := by
  induction ls generalizing k with
  | nil => exact of_def (readBeams.eq_1 ..)
  | cons x l ih => exact of_def (readBeams.eq_2 ..)
@[simp] theorem needAll_keeps {k l ok} : Keeps (needAll k l ok) := of_def (needAll.eq_def ..)
@[simp] theorem putBeams_keeps {k old ls} : Keeps (putBeams k old ls) := by
  induction ls with
  | nil => exact of_def (putBeams.eq_1 ..)
  | cons x l ih => exact of_def (putBeams.eq_2 ..)
@[simp] theorem adjustRefs_keeps {k old new ls} : Keeps (adjustRefs k old new ls) := by
  induction ls with
  | nil => exact of_def (adjustRefs.eq_1 ..)
  | cons x l ih => exact of_def (adjustRefs.eq_2 ..)
@[simp] theorem execBmreord_ends {p sd sa sb sc h'} (h : s.Inv) : Ends (execBmreord p sd sa sb sc h' s) :=
  of_def (execBmreord.eq_def ..)
@[simp] theorem findPrefix_keeps {k key ok ls} : Keeps (findPrefix k key ok ls) := by
  induction ls with
  | nil => exact of_def (findPrefix.eq_1 ..)
  | cons x l ih => exact of_def (findPrefix.eq_2 ..)
@[simp] theorem lookupPrefix_keeps {k key} : Keeps (lookupPrefix k key) := of_def (lookupPrefix.eq_def ..)
@[simp] theorem chain_keeps {k addr b fuel} : Keeps (chain k addr b fuel) := by
  induction fuel generalizing b with
  | zero => exact of_def (chain.eq_1 ..)
  | succ n ih => exact of_def (chain.eq_2 ..)
@[simp] theorem execPfxfind_ends {p sd sa sb h'} (h : s.Inv) : Ends (execPfxfind p sd sa sb h' s) :=
  of_def (execPfxfind.eq_def ..)
@[simp] theorem lowerRefs_keeps {k ls} : Keeps (lowerRefs k ls) := by
  induction ls with
  | nil => exact of_def (lowerRefs.eq_1 ..)
  | cons x l ih => exact of_def (lowerRefs.eq_2 ..)
@[simp] theorem execPfxfindDrop_ends {p sd sb h'} (h : s.Inv) : Ends (execPfxfindDrop p sd sb h' s) :=
  of_def (execPfxfindDrop.eq_def ..)
@[simp] theorem offered_keeps {k d off ls} : Keeps (offered k d off ls) := by
  induction ls with
  | nil => exact of_def (offered.eq_1 ..)
  | cons x l ih => exact of_def (offered.eq_2 ..)
@[simp] theorem rekey_keeps {k pid b l} : Keeps (rekey k pid b l) := by
  induction l generalizing b with
  | nil => exact of_def (rekey.eq_1 ..)
  | cons x l ih => exact of_def (rekey.eq_def ..)
@[simp] theorem unkeyAll_keeps {k ls} : Keeps (unkeyAll k ls) := by
  induction ls with
  | nil => exact of_def (unkeyAll.eq_1 ..)
  | cons x l ih => exact of_def (unkeyAll.eq_2 ..)
@[simp] theorem execPfxins_ends {p sd sa sb sc h'} (h : s.Inv) : Ends (execPfxins p sd sa sb sc h' s) :=
  of_def (execPfxins.eq_def ..)
@[simp] theorem pinned_keeps {h' n} : Keeps (pinned h' n) := of_def (pinned.eq_def ..)
@[simp] theorem execKvpin_ends {p sd sb h'} (h : s.Inv) : Ends (execKvpin p sd sb h' s) := of_def (execKvpin.eq_def ..)
@[simp] theorem execKvunpin_ends {p sd sb h'} (h : s.Inv) : Ends (execKvunpin p sd sb h' s) := of_def (execKvunpin.eq_def ..)
@[simp] theorem selectVictims_keeps {k n b want} : Keeps (selectVictims k n b want) := by
  induction n generalizing b want with
  | zero => exact of_def (selectVictims.eq_1 ..)
  | succ n ih => cases want with
    | zero => exact of_def (selectVictims.eq_2 ..)
    | succ want => exact of_def (selectVictims.eq_3 ..)
@[simp] theorem frameChecks_keeps {dst src doff soff n} : Keeps (frameChecks dst src doff soff n) :=
  of_def (frameChecks.eq_def ..)
@[simp] theorem execKvevict_ends {p trig sd sb h' fset} (h : s.Inv) : Ends (execKvevict p trig sd sb h' fset s) :=
  of_def (execKvevict.eq_def ..)
@[simp] theorem dropDirOf_keeps {k e n} : Keeps (dropDirOf k e n) := of_def (dropDirOf.eq_def ..)
@[simp] theorem finishEvict_keeps {k ls} : Keeps (finishEvict k ls) := by
  induction ls with
  | nil => exact of_def (finishEvict.eq_1 ..)
  | cons x l ih => exact of_def (finishEvict.eq_2 ..)
@[simp] theorem execKvEvictComplete_ends {j} (h : s.Inv) : Ends (execKvEvictComplete j s) :=
  have hk {k vs} : Keeps (do let bs ← finishEvict k vs; freeBlocks k bs) := of_def rfl
  of_def (execKvEvictComplete.eq_def ..)
@[simp] theorem execKvpull_ends {p trig sd sa sb h' fset} (h : s.Inv) : Ends (execKvpull p trig sd sa sb h' fset s) :=
  of_def (execKvpull.eq_def ..)
@[simp] theorem finishPull_keeps {k b x} : Keeps (finishPull k b x) := of_def (finishPull.eq_def ..)
@[simp] theorem execKvPullComplete_ends {j} (h : s.Inv) : Ends (execKvPullComplete j s) := of_def (execKvPullComplete.eq_def ..)

/-! ### Machine/Contract -/

@[simp] theorem sourceDie_keeps {source h' o n} : Keeps (sourceDie source h' o n) := of_def (sourceDie.eq_def ..)
@[simp] theorem contractTile_keeps {source d} : Keeps (contractTile source d) := of_def (contractTile.eq_def ..)
@[simp] theorem contractShape_keeps {exts d x} : Keeps (contractShape exts d x) := of_def (contractShape.eq_def ..)
@[simp] theorem contractSource_keeps {x} : Keeps (contractSource x) := of_def (contractSource.eq_def ..)
@[simp] theorem contractMeta_keeps {x d lc} : Keeps (contractMeta x d lc) := of_def (contractMeta.eq_def ..)
@[simp] theorem contractPiece_keeps {m acc x} : Keeps (contractPiece m acc x) := of_def (contractPiece.eq_def ..)
@[simp] theorem contractElem_keeps {m md acc f} : Keeps (contractElem m md acc f) := of_def (contractElem.eq_def ..)
@[simp] theorem contractSourceElems_keeps {x md} : Keeps (contractSourceElems x md) := of_def (contractSourceElems.eq_def ..)
@[simp] theorem execContract_ends {p trig sa h' fset} (h : s.Inv) : Ends (execContract p trig sa h' fset s) :=
  of_def (execContract.eq_def ..)
@[simp] theorem inFootprint_keeps {ok a n} : Keeps (inFootprint ok a n) := of_def (inFootprint.eq_def ..)
@[simp] theorem elemInFootprint_keeps {j r f} : Keeps (elemInFootprint j r f) := of_def (elemInFootprint.eq_def ..)
@[simp] theorem contractPairs_keeps {j o v c fuel} : Keeps (contractPairs j o v c fuel) := by
  induction fuel generalizing c with
  | zero => exact of_def (contractPairs.eq_1 ..)
  | succ n ih => exact of_def (contractPairs.eq_2 ..)
@[simp] theorem contractSteps_keeps {j o v total c fuel r} : Keeps (contractSteps j o v total c fuel r) := by
  induction fuel generalizing c r with
  | zero => exact of_def (contractSteps.eq_1 ..)
  | succ n ih => exact of_def (contractSteps.eq_2 ..)
@[simp] theorem contractPoint_keeps {j o f} : Keeps (contractPoint j o f) := of_def (contractPoint.eq_def ..)
@[simp] theorem contractPoints_keeps {j o ls} : Keeps (contractPoints j o ls) := by
  induction ls with
  | nil => exact of_def (contractPoints.eq_1 ..)
  | cons x l ih => exact of_def (contractPoints.eq_2 ..)
@[simp] theorem enginePut_keeps {ok r f x ls} : Keeps (enginePut ok r f x ls) := by
  induction ls with
  | nil => exact of_def (enginePut.eq_1 ..)
  | cons x l ih => exact of_def (enginePut.eq_2 ..)
@[simp] theorem putPoints_keeps {ok r ls} : Keeps (putPoints ok r ls) := by
  induction ls generalizing ok with
  | nil => exact of_def (putPoints.eq_1 ..)
  | cons x l ih => exact of_def (putPoints.eq_2 ..)
@[simp] theorem contractScratch_keeps {o poison clamped} : Keeps (contractScratch o poison clamped) :=
  of_def (contractScratch.eq_def ..)
@[simp] theorem contractCap_keeps {ok r cap} : Keeps (contractCap ok r cap) := of_def (contractCap.eq_def ..)
@[simp] theorem contractOp_keeps {op j o} : Keeps (contractOp op j o) := of_def (contractOp.eq_def ..)

/-! ### Machine/Pass -/

@[simp] theorem passComb_sound {i p vd va vb osb passes} : (passComb i p vd va vb osb passes).Sound := of_def (passComb.eq_def ..)
@[simp] theorem combPass_sound {p vd va vb osb ctl word} : (combPass p vd va vb osb ctl word).Sound := of_def (combPass.eq_def ..)
@[simp] theorem execPass_ends {p vd va vb osb ctl word} (h : s.Inv) : Ends (execPass p vd va vb osb ctl word s) :=
  of_def (execPass.eq_def ..)
@[simp] theorem combSearch_sound {p vd va vb sb ctl word} : (combSearch p vd va vb sb ctl word).Sound :=
  of_def (combSearch.eq_def ..)
@[simp] theorem execSearch_ends {p vd va vb sb ctl word} (h : s.Inv) : Ends (execSearch p vd va vb sb ctl word s) :=
  of_def (execSearch.eq_def ..)
@[simp] theorem combPseq_sound {p vd va vb osb word} : (combPseq p vd va vb osb word).Sound := of_def (combPseq.eq_def ..)
@[simp] theorem execPseq_ends {p vd va vb osb word} (h : s.Inv) : Ends (execPseq p vd va vb osb word s) :=
  of_def (execPseq.eq_def ..)
@[simp] theorem imageBytes_keeps {h' a n} : Keeps (imageBytes h' a n) := of_def (imageBytes.eq_def ..)
@[simp] theorem execPtload_ends {p h' sb} (h : s.Inv) : Ends (execPtload p h' sb s) := of_def (execPtload.eq_def ..)
@[simp] theorem combVmwrite_sound {p md sb} : (combVmwrite p md sb).Sound := of_def (combVmwrite.eq_def ..)
@[simp] theorem execVmwrite_ends {p md sb} (h : s.Inv) : Ends (execVmwrite p md sb s) := of_def (execVmwrite.eq_def ..)
@[simp] theorem execCmode_ends {p sb} (h : s.Inv) : Ends (execCmode p sb s) := of_def (execCmode.eq_def ..)
@[simp] theorem execVscrub_ends {p} (h : s.Inv) : Ends (execVscrub p s) := of_def (execVscrub.eq_def ..)
@[simp] theorem execLeaseExpire_ends {t} (h : s.Inv) : Ends (execLeaseExpire t s) := of_def (execLeaseExpire.eq_def ..)
@[simp] theorem execModeSwitch_ends {t linear} (h : s.Inv) : Ends (execModeSwitch t linear s) := of_def (execModeSwitch.eq_def ..)

/-! ### Machine/Reduce -/

@[simp] theorem Reduction.prep_keeps {x i p nov vd va m t} : Keeps (Reduction.prep x i p nov vd va m t) :=
  of_def (Reduction.prep.eq_def ..)
@[simp] theorem Reduction.comb_sound {x i p nov vd va osb m} : (Reduction.comb x i p nov vd va osb m).Sound :=
  of_def (Reduction.comb.eq_def ..)
@[simp] theorem combVrsumO_sound {p rm nov vd va osb m} : (combVrsumO p rm nov vd va osb m).Sound := of_def (combVrsumO.eq_def ..)
@[simp] theorem execVrsumO_ends {p rm nov vd va osb m} (h : s.Inv) : Ends (execVrsumO p rm nov vd va osb m s) :=
  of_def (execVrsumO.eq_def ..)
@[simp] theorem combVrsumT_sound {p rm nov vd va osb m} : (combVrsumT p rm nov vd va osb m).Sound := of_def (combVrsumT.eq_def ..)
@[simp] theorem execVrsumT_ends {p rm nov vd va osb m} (h : s.Inv) : Ends (execVrsumT p rm nov vd va osb m s) :=
  of_def (execVrsumT.eq_def ..)
@[simp] theorem combVrmax_sound {p nov vd va osb m} : (combVrmax p nov vd va osb m).Sound := of_def (combVrmax.eq_def ..)
@[simp] theorem execVrmax_ends {p nov vd va osb m} (h : s.Inv) : Ends (execVrmax p nov vd va osb m s) :=
  of_def (execVrmax.eq_def ..)
@[simp] theorem combVrmin_sound {p nov vd va osb m} : (combVrmin p nov vd va osb m).Sound := of_def (combVrmin.eq_def ..)
@[simp] theorem execVrmin_ends {p nov vd va osb m} (h : s.Inv) : Ends (execVrmin p nov vd va osb m s) :=
  of_def (execVrmin.eq_def ..)
@[simp] theorem combVcount_sound {p nov vd osb m} : (combVcount p nov vd osb m).Sound := of_def (combVcount.eq_def ..)
@[simp] theorem execVcount_ends {p nov vd osb m} (h : s.Inv) : Ends (execVcount p nov vd osb m s) := of_def (execVcount.eq_def ..)
@[simp] theorem combVrank_sound {p vd va m} : (combVrank p vd va m).Sound := of_def (combVrank.eq_def ..)
@[simp] theorem execVrank_ends {p vd va m} (h : s.Inv) : Ends (execVrank p vd va m s) := of_def (execVrank.eq_def ..)
@[simp] theorem mappedRegs_keeps {i ls} : Keeps (mappedRegs i ls) := by
  induction ls with
  | nil => exact of_def (mappedRegs.eq_1 ..)
  | cons x l ih => exact of_def (mappedRegs.eq_2 ..)
@[simp] theorem deferMap_keeps {i v} : Keeps (deferMap i v) := of_def (deferMap.eq_def ..)
@[simp] theorem checkMapped_keeps {cause regs ok} : Keeps (checkMapped cause regs ok) := of_def (checkMapped.eq_def ..)
@[simp] theorem State.storeDefer_inv {t k} (h : s.Inv) : (s.storeDefer t k).Inv := of_def (State.storeDefer.eq_def ..)
@[simp] theorem combVdefer_sound {p sb path m} : (combVdefer p sb path m).Sound := of_def (combVdefer.eq_def ..)
@[simp] theorem execVdefer_ends {p sb path m} (h : s.Inv) : Ends (execVdefer p sb path m s) := of_def (execVdefer.eq_def ..)
@[simp] theorem combVdrain_sound {p vd ma sb path m} : (combVdrain p vd ma sb path m).Sound := of_def (combVdrain.eq_def ..)
@[simp] theorem execVdrain_ends {p vd ma sb path m} (h : s.Inv) : Ends (execVdrain p vd ma sb path m s) :=
  of_def (execVdrain.eq_def ..)
@[simp] theorem maskComb_sound {i p md srcs passes f} : (maskComb i p md srcs passes f).Sound := of_def (maskComb.eq_def ..)
@[simp] theorem combMand_sound {p md ma mb m} : (combMand p md ma mb m).Sound := of_def (combMand.eq_def ..)
@[simp] theorem execMand_ends {p md ma mb m} (h : s.Inv) : Ends (execMand p md ma mb m s) := of_def (execMand.eq_def ..)
@[simp] theorem combMor_sound {p md ma mb m} : (combMor p md ma mb m).Sound := of_def (combMor.eq_def ..)
@[simp] theorem execMor_ends {p md ma mb m} (h : s.Inv) : Ends (execMor p md ma mb m s) := of_def (execMor.eq_def ..)
@[simp] theorem combMxor_sound {p md ma mb m} : (combMxor p md ma mb m).Sound := of_def (combMxor.eq_def ..)
@[simp] theorem execMxor_ends {p md ma mb m} (h : s.Inv) : Ends (execMxor p md ma mb m s) := of_def (execMxor.eq_def ..)
@[simp] theorem combMnot_sound {p md ma m} : (combMnot p md ma m).Sound := of_def (combMnot.eq_def ..)
@[simp] theorem execMnot_ends {p md ma m} (h : s.Inv) : Ends (execMnot p md ma m s) := of_def (execMnot.eq_def ..)
@[simp] theorem combMfirst_sound {p md ma m} : (combMfirst p md ma m).Sound := of_def (combMfirst.eq_def ..)
@[simp] theorem execMfirst_ends {p md ma m} (h : s.Inv) : Ends (execMfirst p md ma m s) := of_def (execMfirst.eq_def ..)

/-! ### Machine/Select -/

@[simp] theorem selectPrep_keeps {i p dsts srcs values infer passes key t} :
    Keeps (selectPrep i p dsts srcs values infer passes key t) :=
  of_def (selectPrep.eq_def ..)
@[simp] theorem selectComb_sound {prep dsts srcs cells finish} (hp : ∀ t, Keeps (prep t)) :
    (selectComb prep dsts srcs cells finish).Sound :=
  of_def (selectComb.eq_def ..)
@[simp] theorem combTop_sound {i p top nanhi vd ve va sd sa m} : (combTop i p top nanhi vd ve va sd sa m).Sound :=
  of_def (combTop.eq_def ..)
@[simp] theorem combVtopk_sound {p nanhi vd ve va sd sa m} : (combVtopk p nanhi vd ve va sd sa m).Sound :=
  of_def (combVtopk.eq_def ..)
@[simp] theorem execVtopk_ends {p nanhi vd ve va sd sa m} (h : s.Inv) : Ends (execVtopk p nanhi vd ve va sd sa m s) :=
  of_def (execVtopk.eq_def ..)
@[simp] theorem combVbotk_sound {p nanhi vd ve va sd sa m} : (combVbotk p nanhi vd ve va sd sa m).Sound :=
  of_def (combVbotk.eq_def ..)
@[simp] theorem execVbotk_ends {p nanhi vd ve va sd sa m} (h : s.Inv) : Ends (execVbotk p nanhi vd ve va sd sa m s) :=
  of_def (execVbotk.eq_def ..)
@[simp] theorem combArg_sound {i p mx nanhi nov vd ve va sd m} : (combArg i p mx nanhi nov vd ve va sd m).Sound :=
  of_def (combArg.eq_def ..)
@[simp] theorem combVargmax_sound {p nanhi nov vd ve va sd m} : (combVargmax p nanhi nov vd ve va sd m).Sound :=
  of_def (combVargmax.eq_def ..)
@[simp] theorem execVargmax_ends {p nanhi nov vd ve va sd m} (h : s.Inv) : Ends (execVargmax p nanhi nov vd ve va sd m s) :=
  of_def (execVargmax.eq_def ..)
@[simp] theorem combVargmin_sound {p nanhi nov vd ve va sd m} : (combVargmin p nanhi nov vd ve va sd m).Sound :=
  of_def (combVargmin.eq_def ..)
@[simp] theorem execVargmin_ends {p nanhi nov vd ve va sd m} (h : s.Inv) : Ends (execVargmin p nanhi nov vd ve va sd m s) :=
  of_def (execVargmin.eq_def ..)
@[simp] theorem combVsort_sound {p nanhi vd ve va sd m} : (combVsort p nanhi vd ve va sd m).Sound := of_def (combVsort.eq_def ..)
@[simp] theorem execVsort_ends {p nanhi vd ve va sd m} (h : s.Inv) : Ends (execVsort p nanhi vd ve va sd m s) :=
  of_def (execVsort.eq_def ..)
@[simp] theorem combVperm_sound {p vd va vb m} : (combVperm p vd va vb m).Sound := of_def (combVperm.eq_def ..)
@[simp] theorem execVperm_ends {p vd va vb m} (h : s.Inv) : Ends (execVperm p vd va vb m s) := of_def (execVperm.eq_def ..)
@[simp] theorem combVuniq_sound {p vd ve va sd m} : (combVuniq p vd ve va sd m).Sound := of_def (combVuniq.eq_def ..)
@[simp] theorem execVuniq_ends {p vd ve va sd m} (h : s.Inv) : Ends (execVuniq p vd ve va sd m s) := of_def (execVuniq.eq_def ..)
@[simp] theorem combVsim_sound {p vd va vb m} : (combVsim p vd va vb m).Sound := of_def (combVsim.eq_def ..)
@[simp] theorem execVsim_ends {p vd va vb m} (h : s.Inv) : Ends (execVsim p vd va vb m s) := of_def (execVsim.eq_def ..)
@[simp] theorem combVnear_sound {p vd ve va vb sd sa m} : (combVnear p vd ve va vb sd sa m).Sound := of_def (combVnear.eq_def ..)
@[simp] theorem execVnear_ends {p vd ve va vb sd sa m} (h : s.Inv) : Ends (execVnear p vd ve va vb sd sa m s) :=
  of_def (execVnear.eq_def ..)
@[simp] theorem combNmsearch_sound {p vd va sd sa m} : (combNmsearch p vd va sd sa m).Sound :=
  ⟨fun _ => selectPrep_keeps.bind fun _ => .pure, fun _ _ => .pure, fun _ _ _ h => h⟩
@[simp] theorem execNmsearch_ends {p vd va sd sa m} (h : s.Inv) : Ends (execNmsearch p vd va sd sa m s) :=
  of_def (execNmsearch.eq_def ..)

/-! ### Machine/Attn -/

@[simp] theorem KvPool.elemVal_keeps {k off f} : Keeps (KvPool.elemVal k off f) := of_def (KvPool.elemVal.eq_def ..)
@[simp] theorem attnCaps_keeps {t bcap q o} : Keeps (attnCaps t bcap q o) := of_def (attnCaps.eq_def ..)
@[simp] theorem attnTileOf_keeps {hn off} : Keeps (attnTileOf hn off) := of_def (attnTileOf.eq_def ..)
@[simp] theorem execAttn_ends {p trig sd sa h'} (h : s.Inv) : Ends (execAttn p trig sd sa h' s) := of_def (execAttn.eq_def ..)
@[simp] theorem TileRef.queryVal_keeps {r f} : Keeps (TileRef.queryVal r f) := of_def (TileRef.queryVal.eq_def ..)
@[simp] theorem scoreTokens_keeps {a x n row q j fl fuel} : Keeps (scoreTokens a x n row q j fl fuel) := by
  induction fuel generalizing j fl with
  | zero => exact of_def (scoreTokens.eq_1 ..)
  | succ n ih => exact of_def (scoreTokens.eq_2 ..)
@[simp] theorem scoreBlocks_keeps {a row q fl n ls} : Keeps (scoreBlocks a row q fl n ls) := by
  induction ls generalizing fl n with
  | nil => exact of_def (scoreBlocks.eq_1 ..)
  | cons x l ih => exact of_def (scoreBlocks.eq_2 ..)
@[simp] theorem startRows_keeps {a row fl fuel} : Keeps (startRows a row fl fuel) := by
  induction fuel generalizing row fl with
  | zero => exact of_def (startRows.eq_1 ..)
  | succ n ih => exact of_def (startRows.eq_2 ..)
@[simp] theorem valueColumns.valueTokens_keeps {a x d j fuel} : Keeps (valueColumns.valueTokens a x d j fuel) := by
  induction fuel generalizing j with
  | zero => exact of_def (valueColumns.valueTokens.eq_1 ..)
  | succ n ih => exact of_def (valueColumns.valueTokens.eq_2 ..)
@[simp] theorem valueColumns_keeps {a x d fuel} : Keeps (valueColumns a x d fuel) := by
  induction fuel generalizing d with
  | zero => exact of_def (valueColumns.eq_1 ..)
  | succ n ih => exact of_def (valueColumns.eq_2 ..)
@[simp] theorem attnScratch_keeps {poison} : Keeps (attnScratch poison) := of_def (attnScratch.eq_def ..)
@[simp] theorem attnOp_keeps {op a} : Keeps (attnOp op a) := of_def (attnOp.eq_def ..)

/-! ### Machine/MxQueue -/

@[simp] theorem mxStep_keeps {op} : Keeps (mxStep op) := of_def (mxStep.eq_def ..)
@[simp] theorem mxStepIn_keeps {op} : Keeps (mxStepIn op) := of_def (mxStepIn.eq_def ..)
@[simp] theorem State.finishMx_inv {t o} (h : s.Inv) : (s.finishMx t o).Inv := of_def (State.finishMx.eq_def ..)
@[simp] theorem State.runMx_inv {t n op} (h : s.Inv) : (s.runMx t n op).Inv := of_def (State.runMx.eq_def ..)
@[simp] theorem execMxQueueOp_ends {t} (h : s.Inv) : Ends (execMxQueueOp t s) := of_def (execMxQueueOp.eq_def ..)
@[simp] theorem State.snapshot_inv {t} (h : s.Inv) : (s.snapshot t).Inv := of_def (State.snapshot.eq_def ..)
@[simp] theorem execMxKStep_ends {t} (h : s.Inv) : Ends (execMxKStep t s) := of_def (execMxKStep.eq_def ..)

/-! ### Machine/Complete -/

@[simp] theorem State.settleStream_inv {j} (h : s.Inv) : (s.settleStream j).Inv := of_def (State.settleStream.eq_def ..)
@[simp] theorem State.finishForager_inv {j} (h : s.Inv) : (s.finishForager j).Inv := of_def (State.finishForager.eq_def ..)
@[simp] theorem State.arriveAnswered_inv {tag port} (h : s.Inv) : (s.arriveAnswered tag port).Inv :=
  of_def (State.arriveAnswered.eq_def ..)
@[simp] theorem State.complete_inv {t j} (h : s.Inv) : (s.complete t j).Inv := of_def (State.complete.eq_def ..)
@[simp] theorem execJobComplete_ends {j} (h : s.Inv) : Ends (execJobComplete j s) := of_def (execJobComplete.eq_def ..)
@[simp] theorem State.rebaseHeld_inv {j d} (h : s.Inv) : (s.rebaseHeld j d).Inv := of_def (State.rebaseHeld.eq_def ..)
@[simp] theorem execSleeptil_ends {p sa} (h : s.Inv) : Ends (execSleeptil p sa s) := of_def (execSleeptil.eq_def ..)
@[simp] theorem execSleeptilWake_ends {t} (h : s.Inv) : Ends (execSleeptilWake t s) := of_def (execSleeptilWake.eq_def ..)
@[simp] theorem State.unpause_inv {id} (h : s.Inv) : (s.unpause id).Inv := of_def (State.unpause.eq_def ..)
@[simp] theorem State.endPause_inv {j} (h : s.Inv) : (s.endPause j).Inv := of_def (State.endPause.eq_def ..)
@[simp] theorem State.retryForager_inv {t j} (h : s.Inv) : (s.retryForager t j).Inv := of_def (State.retryForager.eq_def ..)
@[simp] theorem State.runJob_ends {t j} (h : s.Inv) : Ends (s.runJob t j) := of_def (State.runJob.eq_def ..)
@[simp] theorem execEngineRetry_ends {j} (h : s.Inv) : Ends (execEngineRetry j s) := of_def (execEngineRetry.eq_def ..)

/-! ### Machine/Cards -/

@[simp] theorem State.writeRecord_inv {vf k compl irq b} (h : s.Inv) : (s.writeRecord vf k compl irq b).Inv :=
  of_def (State.writeRecord.eq_def ..)
@[simp] theorem State.cardRead_inv {p a n} (h : s.Inv) : Answers (s.cardRead p a n) := of_def (State.cardRead.eq_def ..)
@[simp] theorem State.cardRead_rejects {p a n} (h : s.Inv) : Rejects (s.cardRead p a n) := of_def (State.cardRead.eq_def ..)
@[simp] theorem State.entryRead_inv {p a} (h : s.Inv) : Gives (s.entryRead p a) := of_def (State.entryRead.eq_def ..)
@[simp] theorem State.entryRead_rejects {p a} (h : s.Inv) : Rejects (s.entryRead p a) := of_def (State.entryRead.eq_def ..)
@[simp] theorem State.swarmOf_inv {p c} (h : s.Inv) : Answers (s.swarmOf p c) := of_def (State.swarmOf.eq_def ..)
@[simp] theorem State.swarmOf_rejects {p c} (h : s.Inv) : Rejects (s.swarmOf p c) := of_def (State.swarmOf.eq_def ..)
@[simp] theorem State.sendLstart_inv {w} (h : s.Inv) : (s.sendLstart w).Inv := of_def (State.sendLstart.eq_def ..)
@[simp] theorem State.checkCard_inv {p k serial c} (h : s.Inv) : Answers (s.checkCard p k serial c) :=
  of_def (State.checkCard.eq_def ..)
@[simp] theorem State.checkCard_rejects {p k serial c} (h : s.Inv) : Rejects (s.checkCard p k serial c) :=
  of_def (State.checkCard.eq_def ..)
@[simp] theorem State.cardNotice_inv {vf cause addr} (h : s.Inv) : (s.cardNotice vf cause addr).Inv :=
  of_def (State.cardNotice.eq_def ..)
@[simp] theorem State.rejectCard_inv {vf k compl irq r} (h : s.Inv) : (s.rejectCard vf k compl irq r).Inv :=
  of_def (State.rejectCard.eq_def ..)
@[simp] theorem execCardFetch_ends {vf k} (h : s.Inv) : Ends (execCardFetch vf k s) := of_def (execCardFetch.eq_def ..)
@[simp] theorem State.releasePartition_inv {p} (h : s.Inv) : (s.releasePartition p).Inv :=
  of_def (State.releasePartition.eq_def ..)
@[simp] theorem execLaunchEnd_ends {vf l} (h : s.Inv) : Ends (execLaunchEnd vf l s) := of_def (execLaunchEnd.eq_def ..)

/-! ### Machine/Draw -/

@[simp] theorem State.create_inv {p x} (h : s.Inv) : (s.create p x).Inv := of_def (State.create.eq_def ..)
@[simp] theorem execDraw_ends {vf _l} (h : s.Inv) : Ends (execDraw vf _l s) := of_def (execDraw.eq_def ..)
@[simp] theorem execCombClear_ends {t} (h : s.Inv) : Ends (execCombClear t s) := of_def (execCombClear.eq_def ..)
@[simp] theorem State.tagHives_inv {p} (h : s.Inv) : (s.tagHives p).Inv := of_def (State.tagHives.eq_def ..)
@[simp] theorem State.stallSwaps_inv {p} (h : s.Inv) : (s.stallSwaps p).Inv := of_def (State.stallSwaps.eq_def ..)
@[simp] theorem execStageEpoch_ends (h : s.Inv) : Ends (execStageEpoch s) := of_def (execStageEpoch.eq_def ..)

/-! ### Machine/Scalar -/

@[simp] theorem aluWord_ends {p i sd v} (h : s.Inv) : Ends (aluWord p i s sd v) := of_def (aluWord.eq_def ..)
@[simp] theorem cmpWord_ends {p i qd v} (h : s.Inv) : Ends (cmpWord p i s qd v) := of_def (cmpWord.eq_def ..)
@[simp] theorem execAdd_ends {p sd sa sb} (h : s.Inv) : Ends (execAdd p sd sa sb s) := of_def (execAdd.eq_def ..)
@[simp] theorem execSub_ends {p sd sa sb} (h : s.Inv) : Ends (execSub p sd sa sb s) := of_def (execSub.eq_def ..)
@[simp] theorem execMul_ends {p sd sa sb} (h : s.Inv) : Ends (execMul p sd sa sb s) := of_def (execMul.eq_def ..)
@[simp] theorem execMulh_ends {p sd sa sb} (h : s.Inv) : Ends (execMulh p sd sa sb s) := of_def (execMulh.eq_def ..)
@[simp] theorem execMulhu_ends {p sd sa sb} (h : s.Inv) : Ends (execMulhu p sd sa sb s) := of_def (execMulhu.eq_def ..)
@[simp] theorem execDiv_ends {p sd sa sb} (h : s.Inv) : Ends (execDiv p sd sa sb s) := of_def (execDiv.eq_def ..)
@[simp] theorem execDivu_ends {p sd sa sb} (h : s.Inv) : Ends (execDivu p sd sa sb s) := of_def (execDivu.eq_def ..)
@[simp] theorem execRem_ends {p sd sa sb} (h : s.Inv) : Ends (execRem p sd sa sb s) := of_def (execRem.eq_def ..)
@[simp] theorem execRemu_ends {p sd sa sb} (h : s.Inv) : Ends (execRemu p sd sa sb s) := of_def (execRemu.eq_def ..)
@[simp] theorem execAndS_ends {p sd sa sb} (h : s.Inv) : Ends (execAndS p sd sa sb s) := of_def (execAndS.eq_def ..)
@[simp] theorem execOrS_ends {p sd sa sb} (h : s.Inv) : Ends (execOrS p sd sa sb s) := of_def (execOrS.eq_def ..)
@[simp] theorem execXorS_ends {p sd sa sb} (h : s.Inv) : Ends (execXorS p sd sa sb s) := of_def (execXorS.eq_def ..)
@[simp] theorem execShl_ends {p sd sa sb} (h : s.Inv) : Ends (execShl p sd sa sb s) := of_def (execShl.eq_def ..)
@[simp] theorem execShr_ends {p sd sa sb} (h : s.Inv) : Ends (execShr p sd sa sb s) := of_def (execShr.eq_def ..)
@[simp] theorem execSra_ends {p sd sa sb} (h : s.Inv) : Ends (execSra p sd sa sb s) := of_def (execSra.eq_def ..)
@[simp] theorem execRol_ends {p sd sa sb} (h : s.Inv) : Ends (execRol p sd sa sb s) := of_def (execRol.eq_def ..)
@[simp] theorem execMinS_ends {p sd sa sb} (h : s.Inv) : Ends (execMinS p sd sa sb s) := of_def (execMinS.eq_def ..)
@[simp] theorem execMaxS_ends {p sd sa sb} (h : s.Inv) : Ends (execMaxS p sd sa sb s) := of_def (execMaxS.eq_def ..)
@[simp] theorem execMinu_ends {p sd sa sb} (h : s.Inv) : Ends (execMinu p sd sa sb s) := of_def (execMinu.eq_def ..)
@[simp] theorem execMaxu_ends {p sd sa sb} (h : s.Inv) : Ends (execMaxu p sd sa sb s) := of_def (execMaxu.eq_def ..)
@[simp] theorem execExts_ends {p sd sa sb} (h : s.Inv) : Ends (execExts p sd sa sb s) := of_def (execExts.eq_def ..)
@[simp] theorem execExtz_ends {p sd sa sb} (h : s.Inv) : Ends (execExtz p sd sa sb s) := of_def (execExtz.eq_def ..)
@[simp] theorem execClz_ends {p sd sa} (h : s.Inv) : Ends (execClz p sd sa s) := of_def (execClz.eq_def ..)
@[simp] theorem execCtz_ends {p sd sa} (h : s.Inv) : Ends (execCtz p sd sa s) := of_def (execCtz.eq_def ..)
@[simp] theorem execPopc_ends {p sd sa} (h : s.Inv) : Ends (execPopc p sd sa s) := of_def (execPopc.eq_def ..)
@[simp] theorem execSel_ends {p sd sa sb sc} (h : s.Inv) : Ends (execSel p sd sa sb sc s) := of_def (execSel.eq_def ..)
@[simp] theorem execIns_ends {p sd sa sb sc} (h : s.Inv) : Ends (execIns p sd sa sb sc s) := of_def (execIns.eq_def ..)
@[simp] theorem execAddi_ends {p sd sa imm} (h : s.Inv) : Ends (execAddi p sd sa imm s) := of_def (execAddi.eq_def ..)
@[simp] theorem execMuli_ends {p sd sa imm} (h : s.Inv) : Ends (execMuli p sd sa imm s) := of_def (execMuli.eq_def ..)
@[simp] theorem execAndi_ends {p sd sa imm} (h : s.Inv) : Ends (execAndi p sd sa imm s) := of_def (execAndi.eq_def ..)
@[simp] theorem execOri_ends {p sd sa imm} (h : s.Inv) : Ends (execOri p sd sa imm s) := of_def (execOri.eq_def ..)
@[simp] theorem execXori_ends {p sd sa imm} (h : s.Inv) : Ends (execXori p sd sa imm s) := of_def (execXori.eq_def ..)
@[simp] theorem execShli_ends {p sd sa imm} (h : s.Inv) : Ends (execShli p sd sa imm s) := of_def (execShli.eq_def ..)
@[simp] theorem execShri_ends {p sd sa imm} (h : s.Inv) : Ends (execShri p sd sa imm s) := of_def (execShri.eq_def ..)
@[simp] theorem execSrai_ends {p sd sa imm} (h : s.Inv) : Ends (execSrai p sd sa imm s) := of_def (execSrai.eq_def ..)
@[simp] theorem execMovi_ends {p sd imm} (h : s.Inv) : Ends (execMovi p sd imm s) := of_def (execMovi.eq_def ..)
@[simp] theorem execCmpeq_ends {p qd sa sb} (h : s.Inv) : Ends (execCmpeq p qd sa sb s) := of_def (execCmpeq.eq_def ..)
@[simp] theorem execCmpne_ends {p qd sa sb} (h : s.Inv) : Ends (execCmpne p qd sa sb s) := of_def (execCmpne.eq_def ..)
@[simp] theorem execCmplt_ends {p qd sa sb} (h : s.Inv) : Ends (execCmplt p qd sa sb s) := of_def (execCmplt.eq_def ..)
@[simp] theorem execCmpltu_ends {p qd sa sb} (h : s.Inv) : Ends (execCmpltu p qd sa sb s) := of_def (execCmpltu.eq_def ..)
@[simp] theorem execCmple_ends {p qd sa sb} (h : s.Inv) : Ends (execCmple p qd sa sb s) := of_def (execCmple.eq_def ..)
@[simp] theorem execCmpleu_ends {p qd sa sb} (h : s.Inv) : Ends (execCmpleu p qd sa sb s) := of_def (execCmpleu.eq_def ..)
@[simp] theorem execCmpeqi_ends {p qd sa imm} (h : s.Inv) : Ends (execCmpeqi p qd sa imm s) := of_def (execCmpeqi.eq_def ..)
@[simp] theorem execCmplti_ends {p qd sa imm} (h : s.Inv) : Ends (execCmplti p qd sa imm s) := of_def (execCmplti.eq_def ..)
@[simp] theorem execQand_ends {p qd qa qb} (h : s.Inv) : Ends (execQand p qd qa qb s) := of_def (execQand.eq_def ..)
@[simp] theorem execQor_ends {p qd qa qb} (h : s.Inv) : Ends (execQor p qd qa qb s) := of_def (execQor.eq_def ..)
@[simp] theorem execQxor_ends {p qd qa qb} (h : s.Inv) : Ends (execQxor p qd qa qb s) := of_def (execQxor.eq_def ..)
@[simp] theorem execQnot_ends {p qd qa} (h : s.Inv) : Ends (execQnot p qd qa s) := of_def (execQnot.eq_def ..)

/-! ### Machine/Power -/

@[simp] theorem execRefreshStart_ends (h : s.Inv) : Ends (execRefreshStart s) := of_def (execRefreshStart.eq_def ..)
@[simp] theorem execRefreshEnd_ends (h : s.Inv) : Ends (execRefreshEnd s) := of_def (execRefreshEnd.eq_def ..)
@[simp] theorem execAfrUpdate_ends (h : s.Inv) : Ends (execAfrUpdate s) := of_def (execAfrUpdate.eq_def ..)
@[simp] theorem execClockStepChange_ends (h : s.Inv) : Ends (execClockStepChange s) := of_def (execClockStepChange.eq_def ..)

/-! ### Machine/Swap -/

@[simp] theorem State.writeFrame_inv {p slot} (h : s.Inv) : (s.writeFrame p slot).Inv := of_def (State.writeFrame.eq_def ..)
@[simp] theorem State.settleStores_inv {t p} (h : s.Inv) : (s.settleStores t p).Inv := of_def (State.settleStores.eq_def ..)
@[simp] theorem execTaskSwap_ends {t} (h : s.Inv) : Ends (execTaskSwap t s) :=
  have hs {t p} : (s.settleStores t p).Inv := State.settleStores_inv h
  have hw {t u v p k} : (((((s.settleStores t p).tagLast u).setTask v)).writeFrame p k).Inv := State.writeFrame_inv (by simp [hs])
  of_def (execTaskSwap.eq_def ..)
@[simp] theorem State.applyLate_inv {id} (h : s.Inv) : (s.applyLate id).Inv := of_def (State.applyLate.eq_def ..)
@[simp] theorem State.rebaseSwap_inv {id d} (h : s.Inv) : (s.rebaseSwap id d).Inv := of_def (State.rebaseSwap.eq_def ..)
@[simp] theorem State.tellRestored_inv {t cause v} (h : s.Inv) : (s.tellRestored t cause v).Inv :=
  of_def (State.tellRestored.eq_def ..)
@[simp] theorem State.firstAgain_inv {t} (h : s.Inv) : (s.firstAgain t).Inv := of_def (State.firstAgain.eq_def ..)
@[simp] theorem State.putBack_inv {t cause v} (h : s.Inv) : (s.putBack t cause v).Inv := of_def (State.putBack.eq_def ..)
@[simp] theorem execTaskRestore_ends {t hv vlc} (h : s.Inv) : Ends (execTaskRestore t hv vlc s) :=
  of_def (execTaskRestore.eq_def ..)
@[simp] theorem State.savePartition_inv {p} (h : s.Inv) : (s.savePartition p).Inv := of_def (State.savePartition.eq_def ..)
@[simp] theorem execPsctlSave_ends {vf} (h : s.Inv) : Ends (execPsctlSave vf s) := of_def (execPsctlSave.eq_def ..)
@[simp] theorem execPartitionSaved_ends {vf} (h : s.Inv) : Ends (execPartitionSaved vf s) := of_def (execPartitionSaved.eq_def ..)
@[simp] theorem State.restorePartition_inv {p} (h : s.Inv) : (s.restorePartition p).Inv :=
  of_def (State.restorePartition.eq_def ..)
@[simp] theorem execPsctlRestore_ends {vf} (h : s.Inv) : Ends (execPsctlRestore vf s) := of_def (execPsctlRestore.eq_def ..)
@[simp] theorem execPartitionRestored_ends {vf} (h : s.Inv) : Ends (execPartitionRestored vf s) :=
  of_def (execPartitionRestored.eq_def ..)
@[simp] theorem State.logRecord_inv {code b} (h : s.Inv) : (s.logRecord code b).Inv := of_def (State.logRecord.eq_def ..)
@[simp] theorem State.endSvc_inv {n v} : (s.endSvc n v).Inv ↔ s.Inv := by
  unfold State.endSvc
  repeat' split
  all_goals simp
@[simp] theorem State.endLeaving_inv {n} : (s.endLeaving n).Inv ↔ s.Inv := by unfold State.endLeaving; split <;> simp
@[simp] theorem execNoticeWrite_ends {vf} (h : s.Inv) : Ends (execNoticeWrite vf s) := of_def (execNoticeWrite.eq_def ..)

/-! ### Machine/Keeper -/

@[simp] theorem State.setReady_inv {r} : (s.setReady r).Inv ↔ s.Inv := by unfold State.setReady; split <;> simp
@[simp] theorem State.setPort_inv {p q} (h : s.Inv) : (s.setPort p q).Inv := of_def (State.setPort.eq_def ..)
@[simp] theorem execReadySet_ends {bit} (h : s.Inv) : Ends (execReadySet bit s) := of_def (execReadySet.eq_def ..)
@[simp] theorem State.failTasks_inv {d} (h : s.Inv) : (s.failTasks d).Inv := of_def (State.failTasks.eq_def ..)
@[simp] theorem State.portEvent_inv {bit} : (s.portEvent bit).Inv ↔ s.Inv := by
  unfold State.portEvent
  repeat' split
  all_goals simp [State.setPort]
@[simp] theorem execFunctionFail_ends {bit} (h : s.Inv) : Ends (execFunctionFail bit s) := of_def (execFunctionFail.eq_def ..)
@[simp] theorem State.applyImage_inv {b} (h : s.Inv) : (s.applyImage b).Inv := of_def (State.applyImage.eq_def ..)
@[simp] theorem execCfglen_ends {len image} (h : s.Inv) : Ends (execCfglen len image s) := of_def (execCfglen.eq_def ..)
@[simp] theorem State.freeStatus_inv (h : s.Inv) : (s.freeStatus).1.Inv := of_def (P := (·.1.Inv)) (State.freeStatus.eq_def ..)
@[simp] theorem execPcreate_ends {args} (h : s.Inv) : Ends (execPcreate args s) := of_def (execPcreate.eq_def ..)
@[simp] theorem execPdestroy_ends {args} (h : s.Inv) : Ends (execPdestroy args s) := of_def (execPdestroy.eq_def ..)
@[simp] theorem State.startPsave_inv (h : s.Inv) : (s.startPsave).1.Inv := of_def (P := (·.1.Inv)) (State.startPsave.eq_def ..)
@[simp] theorem execPsave_ends {args} (h : s.Inv) : Ends (execPsave args s) := of_def (execPsave.eq_def ..)
@[simp] theorem execPrestore_ends {args} (h : s.Inv) : Ends (execPrestore args s) := of_def (execPrestore.eq_def ..)
@[simp] theorem execQsup_ends {args} (h : s.Inv) : Ends (execQsup args s) := of_def (execQsup.eq_def ..)
@[simp] theorem execPeerwin_ends {args} (h : s.Inv) : Ends (execPeerwin args s) := of_def (execPeerwin.eq_def ..)
@[simp] theorem State.hostWrite_inv {a b} (h : s.Inv) : (s.hostWrite a b).Inv := of_def (State.hostWrite.eq_def ..)
@[simp] theorem execAttest_ends {args} (h : s.Inv) : Ends (execAttest args s) := of_def (execAttest.eq_def ..)
@[simp] theorem execCheckpoint_ends {args} (h : s.Inv) : Ends (execCheckpoint args s) := of_def (execCheckpoint.eq_def ..)
@[simp] theorem execCfgnext_ends {args} (h : s.Inv) : Ends (execCfgnext args s) := of_def (execCfgnext.eq_def ..)
@[simp] theorem execLkill_ends {args} (h : s.Inv) : Ends (execLkill args s) := of_def (execLkill.eq_def ..)
@[simp] theorem execUnknownCommand_ends {c args} (h : s.Inv) : Ends (execUnknownCommand c args s) :=
  of_def (execUnknownCommand.eq_def ..)
@[simp] theorem State.runCheckpoint_inv (h : s.Inv) : (s.runCheckpoint).Inv := of_def (State.runCheckpoint.eq_def ..)
@[simp] theorem State.startLater_inv (h : s.Inv) : (s.startLater).Inv := of_def (State.startLater.eq_def ..)
@[simp] theorem execMailboxComplete_ends (h : s.Inv) : Ends (execMailboxComplete s) := of_def (execMailboxComplete.eq_def ..)
@[simp] theorem execThermalHold_ends {on} (h : s.Inv) : Ends (execThermalHold on s) := of_def (execThermalHold.eq_def ..)
@[simp] theorem execThermalReset_ends (h : s.Inv) : Ends (execThermalReset s) := of_def (execThermalReset.eq_def ..)
@[simp] theorem execDeviceReset_ends (h : s.Inv) : Ends (execDeviceReset s) := of_def (execDeviceReset.eq_def ..)

/-! ### Machine/Bars -/

@[simp] theorem State.readBar_inv {vf off n} (h : s.Inv) : (s.readBar vf off n).Inv := of_def (State.readBar.eq_def ..)
@[simp] theorem State.readConfig_inv {vf n} (h : s.Inv) : (s.readConfig vf n).Inv := of_def (State.readConfig.eq_def ..)
@[simp] theorem execMbcmdWrite_ends {v} (h : s.Inv) : Ends (execMbcmdWrite v s) := of_def (execMbcmdWrite.eq_def ..)
@[simp] theorem State.writePf_ends {off b} (h : s.Inv) : Ends (s.writePf off b) := of_def (State.writePf.eq_def ..)
@[simp] theorem State.writeBar_ends {vf off b} (h : s.Inv) : Ends (s.writeBar vf off b) := of_def (State.writeBar.eq_def ..)

/-! ### Machine/Ports -/

@[simp] theorem execLinkUp_ends {port} (h : s.Inv) : Ends (execLinkUp port s) := of_def (execLinkUp.eq_def ..)
@[simp] theorem execLinkDown_ends {port} (h : s.Inv) : Ends (execLinkDown port s) := of_def (execLinkDown.eq_def ..)
@[simp] theorem execIdeCheckFail_ends {port} (h : s.Inv) : Ends (execIdeCheckFail port s) := of_def (execIdeCheckFail.eq_def ..)
@[simp] theorem execIdeRekey_ends {port} (h : s.Inv) : Ends (execIdeRekey port s) := of_def (execIdeRekey.eq_def ..)
@[simp] theorem execVersion_ends {port hi lo} (h : s.Inv) : Ends (execVersion port hi lo s) := of_def (execVersion.eq_def ..)
@[simp] theorem State.homeWrite_inv {pa b} (h : s.Inv) : (s.homeWrite pa b).Inv := of_def (State.homeWrite.eq_def ..)
@[simp] theorem State.answerRead_inv {port l a} : (s.answerRead port l a).Inv ↔ s.Inv := by
  unfold State.answerRead; split <;> simp
@[simp] theorem State.portRead_inv {port addr len} (h : s.Inv) : (s.portRead port addr len).Inv :=
  of_def (State.portRead.eq_def ..)
@[simp] theorem execInboundRead_ends {at_ addr len} (h : s.Inv) : Ends (execInboundRead at_ addr len s) :=
  of_def (execInboundRead.eq_def ..)
@[simp] theorem State.portWrite_inv {port addr bytes} (h : s.Inv) : (s.portWrite port addr bytes).Inv :=
  of_def (State.portWrite.eq_def ..)
@[simp] theorem execInboundWrite_ends {at_ addr bytes} (h : s.Inv) : Ends (execInboundWrite at_ addr bytes s) :=
  of_def (execInboundWrite.eq_def ..)
@[simp] theorem State.ctrlRead_inv {p a fuel} (h : s.Inv) : Answers (State.ctrlRead p a fuel s) := by
  induction fuel generalizing a s with
  | zero => exact of_def (State.ctrlRead.eq_1 ..)
  | succ n ih => exact of_def (State.ctrlRead.eq_2 ..)
@[simp] theorem State.ctrlWrite_inv {p a ls} (h : s.Inv) : Gives (State.ctrlWrite p a ls s) := by
  induction ls generalizing a s with
  | nil => exact of_def (State.ctrlWrite.eq_1 ..)
  | cons x l ih => exact of_def (State.ctrlWrite.eq_2 ..)
@[simp] theorem State.evictFrame_inv {f} (h : s.Inv) : (s.evictFrame f).Inv :=
  have k (l : List Line) : (l.foldl (fun s l => l.dirtyBytes.foldl (fun s x => s.physWrite (f + x.1) x.2) s) s).Inv :=
    foldl_inv (fun _ l h => State.foldl_physWrite_inv l.dirtyBytes (fun x => f + x.1) (fun x => x.2) h) h
  k _
@[simp] theorem execInboundAtomic_ends {port addr op w4 a b} (h : s.Inv) : Ends (execInboundAtomic port addr op w4 a b s) :=
  of_def (execInboundAtomic.eq_def ..)
@[simp] theorem State.freeResponse_inv {port tag} (h : s.Inv) : (s.freeResponse port tag).Inv :=
  of_def (State.freeResponse.eq_def ..)
@[simp] theorem State.applyBarevt_inv {p va ev port tag} (h : s.Inv) : (s.applyBarevt p va ev port tag).Inv :=
  of_def (State.applyBarevt.eq_def ..)
@[simp] theorem execBarevt_ends {port gen addr event g tag} (h : s.Inv) : Ends (execBarevt port gen addr event g tag s) :=
  of_def (execBarevt.eq_def ..)
@[simp] theorem State.endRemote_inv {t port v} (h : s.Inv) : (s.endRemote t port v).Inv := of_def (State.endRemote.eq_def ..)
@[simp] theorem execBarrsp_ends {port tag status} (h : s.Inv) : Ends (execBarrsp port tag status s) :=
  of_def (execBarrsp.eq_def ..)
@[simp] theorem execBarrspTimeout_ends {t} (h : s.Inv) : Ends (execBarrspTimeout t s) := of_def (execBarrspTimeout.eq_def ..)
@[simp] theorem execLstart_ends {port gen rank} (h : s.Inv) : Ends (execLstart port gen rank s) := of_def (execLstart.eq_def ..)
@[simp] theorem execUnknownVendorMessage_ends {port code} (h : s.Inv) : Ends (execUnknownVendorMessage port code s) :=
  of_def (execUnknownVendorMessage.eq_def ..)
@[simp] theorem execCacheWriteBack_ends {hv line} (h : s.Inv) : Ends (execCacheWriteBack hv line s) :=
  of_def (execCacheWriteBack.eq_def ..)
@[simp] theorem execHiveCachePrefetch_ends {t va} (h : s.Inv) : Ends (execHiveCachePrefetch t va s) :=
  of_def (execHiveCachePrefetch.eq_def ..)

/-! ### Machine/Sequencer -/

theorem combOf_sound {i p c} (e : combOf i = some (p, c)) : c.Sound := by
  unfold combOf at e
  split at e <;> cases e <;> simp
@[simp] theorem execSequencerPass_ends {t} (h : s.Inv) : Ends (execSequencerPass t s) := by
  unfold execSequencerPass
  split
  case h_1 => simpa
  case h_2 u _ =>
    split
    · simpa
    · split
      · simpa
      · rename_i p _
        have hf : (s.fetch u p).2.Inv := State.fetch_inv h
        split
        · rename_i e
          rw [e] at hf
          dsimp only at hf
          split
          · rename_i hc _
            exact ends_next.2 (stepComb_inv (combOf_sound hc) (State.setHive_inv.2 hf))
          · simpa
        · simpa
@[simp] theorem execCountTreeSum_ends {t} (h : s.Inv) : Ends (execCountTreeSum t s) := of_def (execCountTreeSum.eq_def ..)
@[simp] theorem execRowExchange_ends {t} (h : s.Inv) : Ends (execRowExchange t s) := of_def (execRowExchange.eq_def ..)

/-! ### Machine/Events -/

@[simp] theorem State.endTasks_inv (h : s.Inv) : (s.endTasks).Inv := of_def (State.endTasks.eq_def ..)
@[simp] theorem State.tick_inv (h : s.Inv) : (s.tick).Inv := of_def (State.tick.eq_def ..)
@[simp] theorem State.choose_inv (h : s.Inv) : (s.choose).2.Inv := of_def (P := (·.2.Inv)) (State.choose.eq_def ..)

/-! ### Machine/Sparse -/

@[simp] theorem spstWrite_keeps {hd r n} : Keeps (spstWrite hd r n) := of_def (spstWrite.eq_def ..)
@[simp] theorem spstStep_keeps {i hd r n} : Keeps (spstStep i hd r n) := of_def (spstStep.eq_def ..)
@[simp] theorem execSpst_ends {p sa va h'} (h : s.Inv) : Ends (execSpst p sa va h' s) := of_def (execSpst.eq_def ..)
@[simp] theorem spldElem_keeps {m md f} : Keeps (spldElem m md f) := of_def (spldElem.eq_def ..)
@[simp] theorem spldElems_keeps {i vd r m md from_} : Keeps (spldElems i vd r m md from_) := of_def (spldElems.eq_def ..)
@[simp] theorem execSpld_ends {p sa vd h'} (h : s.Inv) : Ends (execSpld p sa vd h' s) := of_def (execSpld.eq_def ..)

/-! ### Machine/Dispatch -/

@[simp] theorem exec_ends {i} (h : s.Inv) : Ends (exec i s) := by
  cases i <;> simp [exec, h]

/-! ### Machine/Issue -/

@[simp] theorem runWordAt_ends {t} (h : s.Inv) : Ends (runWordAt t s) := of_def (runWordAt.eq_def ..)
@[simp] theorem State.raiseCombpar_inv {t} (h : s.Inv) : (s.raiseCombpar t).Inv := of_def (State.raiseCombpar.eq_def ..)
@[simp] theorem runIssue_ends {t} (h : s.Inv) : Ends (runIssue t s) := of_def (runIssue.eq_def ..)

/-! ### Machine/Step -/

@[simp] theorem finishStep_ends {o} (ho : Ends o) : Ends (finishStep o) := by
  cases o with
  | next s => exact ends_next.2 (State.tick_inv (ends_next.1 ho))
  | fault => simp [finishStep]
  | refused => simp [finishStep]
@[simp] theorem step_ends (h : s.Inv) : Ends (step s) := of_def (step.eq_def ..)
end

/-- Settles O50: `step_ends` puts together what each function of the model keeps. -/
theorem everyStepKeepsTheInvariant : Obligations.EveryStepKeepsTheInvariant := fun _ _ h e => step_ends h e

end Sys2Proof.Machine
end

/-! # Reading memory back (O51) -/

section
namespace Sys2Proof.Machine

/-! ## One byte -/

section
variable {lo : Option Nat} {m m' r : List Host.Cell} {a k : Nat} {v b : Byte}

/-- An address up to the lower end of a memory in the form is unlisted. -/
theorem memRead_eq_zero_of_le (h : memWfFrom (some k) m = true) (ha : a ≤ k) : memRead m a = 0 := by
  induction m generalizing k with
  | nil => rfl
  | cons c r ih =>
    obtain ⟨i, v⟩ := c
    obtain ⟨hk, -, hr⟩ := (memWfFrom_cons ..).1 h
    simp only [aboveLo, decide_eq_true_eq] at hk
    simp only [memRead, show i ≠ a by omega, if_false]
    exact ih hr (by omega)

/-- An address below the first entry of a memory in the form is unlisted. -/
theorem memRead_cons_eq_zero_of_lt (h : memWfFrom lo ((k, v) :: r) = true) (ha : a < k) : memRead ((k, v) :: r) a = 0 := by
  obtain ⟨-, -, hr⟩ := (memWfFrom_cons ..).1 h
  simp only [memRead, show k ≠ a by omega, if_false]
  exact memRead_eq_zero_of_le hr (by omega)

@[simp] theorem memRead_cons_same : memRead ((k, v) :: r) k = v := if_pos rfl

theorem memRead_cons_of_ne (hk : k ≠ a) : memRead ((k, v) :: r) a = memRead r a := if_neg hk

theorem memRead_memWrite_same (h : memWfFrom lo m = true) : memRead (memWrite m a b) a = b := by
  induction m generalizing lo with
  | nil => unfold memWrite; split <;> simp [memRead, *]
  | cons c r ih =>
    obtain ⟨k, v⟩ := c
    obtain ⟨-, -, hr⟩ := (memWfFrom_cons ..).1 h
    unfold memWrite
    split
    · rename_i hk
      split
      · rename_i hb
        rw [hb, memRead_cons_eq_zero_of_lt h hk]
      · simp
    · split
      · rename_i hk
        split
        · rename_i hb
          rw [hb, memRead_eq_zero_of_le hr (Nat.le_of_eq hk)]
        · simp
      · rename_i hk
        rw [memRead_cons_of_ne (Ne.symm hk), ih hr]

theorem memRead_memWrite_of_ne (hk : k ≠ a) : memRead (memWrite m a b) k = memRead m k := by
  induction m with
  | nil => unfold memWrite; split <;> simp [memRead, hk.symm]
  | cons c r ih =>
    obtain ⟨i, v⟩ := c
    unfold memWrite
    split
    · split <;> simp [memRead_cons_of_ne hk.symm]
    · split
      · rename_i ha
        split <;> simp [memRead_cons_of_ne hk.symm, ← ha]
      · simp [memRead, ih]

/-! ## The canonical form is unique -/

/-- The first entry of a memory in the form is read, so no memory that reads alike begins above it. -/
theorem first_le_of_memRead_eq {r' : List Host.Cell} {k' : Nat} {v' : Byte} (h : memWfFrom lo ((k, v) :: r) = true)
    (h' : memWfFrom lo ((k', v') :: r') = true) (e : memRead ((k, v) :: r) k = memRead ((k', v') :: r') k) : k' ≤ k := by
  obtain ⟨-, hv, -⟩ := (memWfFrom_cons ..).1 h
  refine Nat.not_lt.1 fun hk => hv ?_
  rw [memRead_cons_same, memRead_cons_eq_zero_of_lt h' hk] at e
  exact e

theorem mem_ext (h : memWfFrom lo m = true) (h' : memWfFrom lo m' = true) (e : ∀ a, memRead m a = memRead m' a) : m = m' := by
  induction m generalizing lo m' with
  | nil =>
    cases m' with
    | nil => rfl
    | cons c r =>
      obtain ⟨-, hv, -⟩ := (memWfFrom_cons ..).1 h'
      exact absurd ((e c.1).trans memRead_cons_same).symm hv
  | cons c r ih =>
    obtain ⟨k, v⟩ := c
    cases m' with
    | nil =>
      obtain ⟨-, hv, -⟩ := (memWfFrom_cons ..).1 h
      exact absurd (memRead_cons_same.symm.trans (e k)) hv
    | cons c' r' =>
      obtain ⟨k', v'⟩ := c'
      obtain ⟨-, -, hr⟩ := (memWfFrom_cons ..).1 h
      obtain ⟨-, -, hr'⟩ := (memWfFrom_cons ..).1 h'
      obtain rfl : k = k' := Nat.le_antisymm (first_le_of_memRead_eq h' h (e k').symm) (first_le_of_memRead_eq h h' (e k))
      obtain rfl : v = v' := by simpa using e k
      refine congrArg _ (ih hr hr' fun a => ?_)
      by_cases ha : k = a
      · rw [memRead_eq_zero_of_le hr (Nat.le_of_eq ha.symm), memRead_eq_zero_of_le hr' (Nat.le_of_eq ha.symm)]
      · simpa only [memRead_cons_of_ne ha] using e a

/-! ## Several bytes -/

theorem memRead_memWriteN_of_outside {bs : List Byte} (hk : k < a ∨ a + bs.length ≤ k) :
    memRead (memWriteN m a bs) k = memRead m k := by
  induction bs generalizing m a with
  | nil => rfl
  | cons b bs ih =>
    rw [List.length_cons] at hk
    rw [memWriteN, ih (by omega), memRead_memWrite_of_ne (by omega)]

theorem memReadN_memWriteN_same {bs : List Byte} (h : Memory.wf m = true) : memReadN (memWriteN m a bs) a bs.length = bs := by
  induction bs generalizing m a with
  | nil => rfl
  | cons b bs ih =>
    simp only [List.length_cons, memReadN, memWriteN]
    rw [memRead_memWriteN_of_outside (.inl (Nat.lt_succ_self a)), memRead_memWrite_same h, ih (memWrite_wf a b h)]
end

theorem leNat_leBytes (n v : Nat) : leNat (leBytes n v) = v % 2 ^ (8 * n) := by
  induction n generalizing v with
  | zero => simp [leBytes, leNat, Nat.mod_one]
  | succ n ih =>
    calc v % 2 ^ 8 + 256 * leNat (leBytes n (v / 256)) = v % 256 + 256 * (v / 256 % 2 ^ (8 * n)) := by
          rw [ih, show 2 ^ 8 = 256 from rfl]
      _ = v % (256 * 2 ^ (8 * n)) := (Nat.mod_mul ..).symm
      _ = v % 2 ^ (8 * (n + 1)) := by rw [show 8 * (n + 1) = 8 + 8 * n by omega, Nat.pow_add]

/-- Settles O51, by the rules of a byte that is written and `mem_ext`. -/
theorem memoryReadsBackWhatIsWritten : Obligations.MemoryReadsBackWhatIsWritten := by
  refine ⟨fun m a b => ?_, fun m a b k => memRead_memWrite_of_ne, fun m m' => mem_ext, fun m a bs => memReadN_memWriteN_same,
    fun m a bs k => memRead_memWriteN_of_outside, leNat_leBytes⟩
  cases h : Memory.wf m with
  | false => exact .inr rfl
  | true => exact .inl (memRead_memWrite_same h)

end Sys2Proof.Machine
end

/-! # Refresh, the clock, readiness and resets (O40) -/

section
namespace Sys2Proof.Machine

variable {s : State}

/-! ## Refresh (R30) -/

theorem refreshAt_of_lt {c : Nat} (h : c % 1536 < 384) : refreshAt c = some (c / 1536 % 16) := if_pos h

theorem refreshAt_of_le {c : Nat} (h : 384 ≤ c % 1536) : refreshAt c = none := if_neg (Nat.not_lt.2 h)

theorem exec_refresh {i : Instr} (hi : i ∈ ([.refreshStart, .refreshEnd] : List Instr)) :
    exec i s = .next { s with refreshing := refreshAt s.cycle.toNat } := by
  simp only [List.mem_cons, List.not_mem_nil, or_false] at hi
  rcases hi with rfl | rfl <;> rfl

/-! ## The clock (R427) -/

/-- What is found in a falling list is its greatest element that is looked for. -/
theorem find?_falling {p : Nat → Bool} {l : List Nat} {f g : Nat} (hl : l.Pairwise (· > ·)) (h : l.find? p = some f) (hg : g ∈ l)
    (hfg : f < g) : p g = false := by
  induction l with
  | nil => simp at hg
  | cons x l ih =>
    obtain ⟨hx, hl⟩ := List.pairwise_cons.1 hl
    cases hp : p x with
    | true =>
      obtain rfl : x = f := by simpa [hp] using h
      rcases List.mem_cons.1 hg with rfl | hg
      · omega
      · exact absurd (hx g hg) (by omega)
    | false =>
      rcases List.mem_cons.1 hg with rfl | hg
      · exact hp
      · exact ih hl (by simpa [hp] using h) hg

/-- The steps that the clock has, from the highest down. -/
def clockSteps : List Nat := (List.range 13).map (24 - ·)

theorem clockSteps_falling : clockSteps.Pairwise (· > ·) := by decide

theorem mem_clockSteps {g : Nat} : g ∈ clockSteps ↔ 12 ≤ g ∧ g ≤ 24 := by
  simp only [clockSteps, List.mem_map, List.mem_range]
  exact ⟨by rintro ⟨k, hk, rfl⟩; omega, fun h => ⟨24 - g, by omega, by omega⟩⟩

theorem clockChoice_of_hold (h : s.thermalHold = true) : s.clockChoice = 12 := if_pos h

theorem clockChoice_eq (h : s.thermalHold = false) : s.clockChoice = (clockSteps.find? s.stepFits).getD 12 := by
  simp [State.clockChoice, clockSteps, h]

/-- Without the hold the choice is the highest step that fits, or the lowest step where none does. -/
theorem clockChoice_highest (h : s.thermalHold = false) : (12 ≤ s.clockChoice ∧ s.clockChoice ≤ 24) ∧
    (s.stepFits s.clockChoice = true ∨ s.clockChoice = 12) ∧
    ∀ g, s.clockChoice < g → g ≤ 24 → s.stepFits g = false := by
  rw [clockChoice_eq h]
  cases hf : clockSteps.find? s.stepFits with
  | none =>
    refine ⟨by simp, .inr rfl, fun g (hg : 12 < g) hle => ?_⟩
    simpa using List.find?_eq_none.1 hf g (mem_clockSteps.2 ⟨by omega, hle⟩)
  | some f =>
    have hm := mem_clockSteps.1 (List.mem_of_find?_eq_some hf)
    refine ⟨hm, .inl (List.find?_some hf), fun g (hg : f < g) hle => ?_⟩
    exact find?_falling clockSteps_falling hf (mem_clockSteps.2 ⟨by omega, hle⟩) hg

theorem clockChoice_bounds : 12 ≤ s.clockChoice ∧ s.clockChoice ≤ 24 := by
  cases h : s.thermalHold with
  | true => simp [clockChoice_of_hold h]
  | false => exact (clockChoice_highest h).1

theorem stepFits_iff (f : Nat) : s.stepFits f = true ↔
    24 * (411 * 255 + 320 * s.afrHbm.toNat) + (564 * s.afrPass.toNat + 905 * s.afrMx.toNat) * f ≤
      24 * 255 * min 2200 s.keeper.powerLimit := decide_eq_true_iff

/-! ## Readiness (R422) -/

theorem bit28_getLsbD {n k : Nat} (hk : k < 28) : (bit28 n).getLsbD k = (k == n) := by
  rw [bit28, BitVec.getLsbD_ofNat, Nat.testBit_two_pow]
  by_cases e : k = n
  · subst e
    simp [hk]
  · simp [e, Ne.symm e]

theorem or_bit28_getLsbD {r : BitVec 28} {n k : Nat} (hk : k < 28) : (r ||| bit28 n).getLsbD k = (r.getLsbD k || k == n) := by
  rw [BitVec.getLsbD_or, bit28_getLsbD hk]

theorem and_not_bit28_getLsbD {r : BitVec 28} {n k : Nat} (hk : k < 28) :
    (r &&& ~~~ bit28 n).getLsbD k = (r.getLsbD k && k != n) := by
  rw [BitVec.getLsbD_and, BitVec.getLsbD_not, bit28_getLsbD hk]
  simp [hk, bne]

theorem mayBeReady_lt {bit : Nat} (h : s.mayBeReady bit = true) : bit < 28 := by
  simp only [State.mayBeReady, Bool.and_eq_true, decide_eq_true_eq] at h
  exact h.1.1.1.1

theorem setReady_of_ne {r : BitVec 28} (h : s.ready ≠ r) :
    s.setReady r = { s with ready := r, everReady := s.everReady ||| r }.send (.msix 0 2) := if_neg h

theorem setReady_of_eq {r : BitVec 28} (h : s.ready = r) : s.setReady r = s := if_pos h

/-- A change of READY touches READY, its history and the messages alone. -/
theorem setReady_changes (s : State) (r : BitVec 28) : ∃ e l, s.setReady r = { s with ready := r, everReady := e, msgs := l } := by
  by_cases h : s.ready = r
  · exact ⟨s.everReady, s.msgs, by subst h; exact setReady_of_eq rfl⟩
  · exact ⟨_, _, setReady_of_ne h⟩

theorem exec_readySet {bit : Nat} (h : s.mayBeReady bit = true) :
    exec (.readySet bit) s = .next (s.setReady (s.ready ||| bit28 bit)) :=
  congrArg _ (if_pos h)

theorem exec_readySet_of_not {bit : Nat} (h : s.mayBeReady bit = false) : exec (.readySet bit) s = .next s :=
  congrArg _ (if_neg (by simp [h]))

/-- READY_SET of a function whose bit is clear. -/
theorem exec_readySet_of_clear {bit : Nat} (h : s.mayBeReady bit = true) (hb : s.ready.getLsbD bit = false) :
    exec (.readySet bit) s = .next
      ({ s with ready := s.ready ||| bit28 bit, everReady := s.everReady ||| (s.ready ||| bit28 bit) }.send (.msix 0 2)) := by
  rw [exec_readySet h, setReady_of_ne fun e => ?_]
  have hk := or_bit28_getLsbD (r := s.ready) (n := bit) (mayBeReady_lt h)
  rw [← e, hb] at hk
  simp at hk

/-- READY_SET of a function whose bit is set. -/
theorem exec_readySet_of_set {bit : Nat} (h : s.mayBeReady bit = true) (hb : s.ready.getLsbD bit = true) :
    exec (.readySet bit) s = .next s := by
  rw [exec_readySet h, setReady_of_eq (BitVec.eq_of_getLsbD_eq fun k hk => ?_)]
  rw [or_bit28_getLsbD hk]
  by_cases e : k = bit
  · simp [e, hb]
  · simp [e]

/-! ## A function fails (R422, R432) -/

theorem portEvent_changes (s : State) (bit : Nat) : ∃ q, s.portEvent bit = { s with ports := q } := by
  unfold State.portEvent
  split
  · split
    · exact ⟨s.ports, rfl⟩
    · exact ⟨_, rfl⟩
  · exact ⟨s.ports, rfl⟩

/-- The logged faults reach the keeper and the messages alone. -/
theorem logDues_changes (s : State) (d : List (Nat × Word)) : ∃ k l, s.logDues d = { s with keeper := k, msgs := l } := by
  unfold State.logDues
  induction d generalizing s with
  | nil => exact ⟨s.keeper, s.msgs, rfl⟩
  | cons x d ih =>
    rw [List.foldl_cons]
    split
    · obtain ⟨k, l, e⟩ := ih (s.hostCause x.1 x.2)
      exact ⟨k, l, e⟩
    · exact ih s

/-- What fails a stack's tasks: those of its die are failed, but for those that end already. -/
def failedTasks (d cause : Nat) (tval : Word) (l : List Task) : List Task :=
  l.map fun t => if dieOf t.hive == d && !t.isEnding then t.failWith cause tval else t

theorem failedTasks_isEnding {d cause : Nat} {tval : Word} {l : List Task} {t : Task} (ht : t ∈ failedTasks d cause tval l)
    (hd : dieOf t.hive = d) : t.isEnding = true := by
  obtain ⟨u, -, rfl⟩ := List.mem_map.1 ht
  by_cases hit : (dieOf u.hive == d && !u.isEnding) = true
  · rw [if_pos hit]
    rfl
  · rw [if_neg hit] at hd ⊢
    simpa [hd] using hit

theorem failTasks_changes (s : State) (d : Nat) : ∃ k l f cause tval, s.failTasks d =
    { s with keeper := k, msgs := l, fresh := f, tasks := failedTasks d cause tval s.tasks } := by
  unfold State.failTasks
  dsimp only
  obtain ⟨k, l, e⟩ := logDues_changes s _
  rw [e]
  exact ⟨_, _, _, _, _, rfl⟩

/-- The machine once FAILED and READY have taken a function's failure. -/
def State.markFailed (s : State) (bit : Nat) : State :=
  { (s.portEvent bit) with failed := s.failed ||| bit28 bit }.setReady (s.ready &&& ~~~ bit28 bit)

theorem markFailed_changes (s : State) (bit : Nat) : ∃ q e l, s.markFailed bit =
    { s with ports := q, everReady := e, msgs := l, failed := s.failed ||| bit28 bit, ready := s.ready &&& ~~~ bit28 bit } := by
  unfold State.markFailed
  obtain ⟨q, hq⟩ := portEvent_changes s bit
  rw [hq]
  obtain ⟨e, l, h⟩ := setReady_changes { s with ports := q, failed := s.failed ||| bit28 bit } (s.ready &&& ~~~ bit28 bit)
  exact ⟨q, e, l, h⟩

theorem exec_functionFail {bit : Nat} (h : bit < 28) : exec (.functionFail bit) s =
    .next (if 9 ≤ bit ∧ bit ≤ 16 then (s.markFailed bit).failTasks (bit - 9) else s.markFailed bit) :=
  congrArg _ (if_neg (Nat.not_le.2 h))

theorem functionFail_complete {bit : Nat} (h : bit < 28) : ∃ s', exec (.functionFail bit) s = .next s' ∧
    s'.failed = s.failed ||| bit28 bit ∧ s'.ready = s.ready &&& ~~~ bit28 bit ∧ s'.mem = s.mem ∧ s'.honey = s.honey ∧
    ((bit < 9 ∨ 16 < bit) → s'.tasks = s.tasks) ∧
    (∀ t ∈ s'.tasks, 9 ≤ bit → bit ≤ 16 → dieOf t.hive = bit - 9 → t.isEnding = true) := by
  refine ⟨_, exec_functionFail h, ?_⟩
  obtain ⟨q, e, l, hm⟩ := markFailed_changes s bit
  rw [hm]
  split
  · rename_i hb
    obtain ⟨k, l, f, cause, tval, ht⟩ := failTasks_changes { s with
      ports := q, everReady := e, msgs := l, failed := s.failed ||| bit28 bit, ready := s.ready &&& ~~~ bit28 bit } (bit - 9)
    rw [ht]
    exact ⟨rfl, rfl, rfl, rfl, fun h => by omega, fun t ht _ _ => failedTasks_isEnding ht⟩
  · rename_i hb
    exact ⟨rfl, rfl, rfl, rfl, fun _ => rfl, fun t _ h9 h16 => absurd ⟨h9, h16⟩ hb⟩

/-! ## Resets (R6, R34, R427) -/

theorem exec_reset {i : Instr} (hi : i ∈ ([.thermalReset, .deviceReset] : List Instr)) : exec i s = .next s.deviceReset := by
  simp only [List.mem_cons, List.not_mem_nil, or_false] at hi
  rcases hi with rfl | rfl <;> rfl

theorem deviceReset_of_none (h : s.keeper.nextImage = none) : s.deviceReset = { State.reset with
    mem := s.mem, honey := s.honey, badMem := s.badMem, badHoney := s.badHoney, msgs := s.msgs, fresh := s.fresh } := by
  rw [State.deviceReset, h]

/-- The machine after a reset that applies an image, before the keeper is ready. -/
def State.restarted (s : State) (b : List Byte) : State :=
  { State.reset with
    mem := s.mem, honey := s.honey, badMem := s.badMem, badHoney := s.badHoney, msgs := s.msgs, fresh := s.fresh,
    keeper := { State.reset.keeper with cfgstat := 1 } }.applyImage b

theorem deviceReset_of_some {b : List Byte} (h : s.keeper.nextImage = some b) :
    s.deviceReset = (s.restarted b).setReady (bit28 27) := by
  rw [State.deviceReset, h]
  rfl

/-- Settles O40, clause by clause. -/
theorem clocksAndResetsComplete : Obligations.ClocksAndResetsComplete := by
  intro s bit
  obtain ⟨hlow, hhigh⟩ := clockChoice_bounds (s := s)
  refine ⟨fun i hi => ?_, ⟨_, rfl, hlow, hhigh, clockChoice_of_hold, fun h => (clockChoice_highest h).2⟩, stepFits_iff,
    fun h hb => ⟨_, exec_readySet_of_clear h hb, fun k => or_bit28_getLsbD⟩, exec_readySet_of_set,
    exec_readySet_of_not, fun hb => ?_, rfl, ⟨_, _, rfl⟩, fun h i hi => ?_, fun b h i hi => ?_⟩
  · rw [exec_refresh hi]
    exact ⟨fun h => by rw [refreshAt_of_lt h], fun h => by rw [refreshAt_of_le h]⟩
  · obtain ⟨s', e, hf, hr, rest⟩ := functionFail_complete (s := s) hb
    exact ⟨s', e, fun k hk => by rw [hf, or_bit28_getLsbD hk], fun k hk => by rw [hr, and_not_bit28_getLsbD hk], rest⟩
  · rw [exec_reset hi, deviceReset_of_none h]
  · refine ⟨_, exec_reset hi, ?_⟩
    obtain ⟨e, l, hs⟩ := setReady_changes (s.restarted b) (bit28 27)
    rw [deviceReset_of_some h, hs]
    exact ⟨rfl, rfl, rfl, rfl, rfl, rfl, rfl, rfl, fun k => bit28_getLsbD, rfl⟩

end Sys2Proof.Machine
end

/-! # The machine after reset, and a partition after creation (O49) -/

section
namespace Sys2Proof.Machine

/-- Of a partition that is created, all 16 launch queues are as R174 gives them; a queue that there is not reads as zeros. -/
theorem Partition.create_queue {vf h n b : Nat} {asid : BitVec 16} (k : Nat) : (Partition.create vf h n b asid).queue k =
    ⟨0, false, false, false, if k < 16 then 4 else 0, 0, 0, 0, 0⟩ := by
  by_cases hk : k < 16 <;> simp [Partition.queue, Partition.create, hk]

/-- Settles O49: the reset state is given field by field, and so is a partition that is created but for its queues. -/
theorem resetHoldsTheStatedValues : Obligations.ResetHoldsTheStatedValues := by
  refine ⟨rfl, rfl, rfl, rfl, rfl, rfl, rfl, rfl, State.reset_inv, rfl, rfl, rfl, rfl, rfl, fun _ => ⟨rfl, rfl⟩,
    fun vf h n b asid k => ?_⟩
  dsimp only
  rw [Partition.create_queue]
  exact ⟨rfl, rfl, rfl, rfl, rfl, rfl, rfl, rfl, rfl, rfl, rfl, rfl, rfl, rfl, rfl, rfl, rfl, rfl, fun hk => if_pos hk, rfl, rfl, rfl⟩

end Sys2Proof.Machine
end

/-! # The steps of the sequencer's own (O35) -/

section
namespace Sys2Proof.Machine

variable {s s₁ : State} {t : Task} {r : Resume} {i : Instr} {c : Comb} {p : Pred} {n : Nat}

/-! ## One pass (R25, R283) -/

/-- A held instruction whose sum has come waits no more, before its last pass once its row exchanges are made (R322). -/
theorem Task.passWaits_eq_false (hr : t.held i = some r) (hsum : r.sum = none)
    (h : t.vstart.toNat + 1 < r.total ∨ exchangesOf r ≤ r.exchanges) : t.passWaits i = false := by
  simp only [Task.passWaits, hr, hsum, Option.isSome_none, Bool.false_or, Bool.and_eq_false_iff, decide_eq_false_iff_not]
  omega

theorem Task.held_resume (hr : t.held i = some r) : t.resume = some r := by
  unfold Task.held at hr
  split at hr
  · rename_i e
    split at hr
    · rw [e, hr]
    · cases hr
  · cases hr

theorem Task.takeSum_of_sum_none (h : t.resume = some r) (hsum : r.sum = none) : t.takeSum = t := by
  simp only [Task.takeSum, h, hsum]

theorem Task.takeSum_of_sum {sd : Nat} {v : Word} (h : t.resume = some r) (hsum : r.sum = some (sd, v)) :
    t.takeSum = { t.ws sd v with resume := some { r with sum := none } } := by
  simp only [Task.takeSum, h, hsum]

/-- A held instruction, with nothing on its way, goes on at its pass with what it loads. -/
theorem Comb.start_of_held (hr : t.held i = some r) (hsum : r.sum = none) (hl : r.loading = false)
    (hload : c.load r t s = .ok ((r, none), s₁)) : c.start i s t = .ready r t.vstart.toNat t s₁ := by
  have hnone : { r with sum := none } = r := by rw [← hsum]
  unfold Comb.start
  simp only [hr, hload, hnone, Task.takeSum_of_sum_none (Task.held_resume hr) hsum]
  rw [if_neg (by simp [hl])]

/-- The pass of a held instruction that the sequencer may make. -/
theorem stepComb_of_held (htaken : t.combsTaken = false) (hr : t.held i = some r) (hsum : r.sum = none) (hl : r.loading = false)
    (hex : t.vstart.toNat + 1 < r.total ∨ exchangesOf r ≤ r.exchanges)
    (hload : c.load r t { s with cur := some t.id } = .ok ((r, none), { s with cur := some t.id }))
    (hpar : c.parityError r t.vstart.toNat { t with linear := false } = none) :
    stepComb p i c s t = c.onePass r t.vstart.toNat s { t with linear := false } := by
  have hgo : (t.combsTaken || t.passWaits i || ((t.held i).isNone && !laneActive c.lanes p t)) = false := by
    simp [htaken, Task.passWaits_eq_false hr hsum hex, hr]
  simp only [stepComb, hgo, Bool.false_eq_true, if_false, Comb.start_of_held hr hsum hl hload, hpar]

/-- SEQUENCER_PASS of the task that it serves makes one pass of the comb instruction that the task fetches. -/
theorem exec_sequencerPass {pt : Partition} (ht : s.task? n = some t) (hserve : s.servesPass t = true) (hpt : s.part? t.vf = some pt)
    (hf : s.fetch t pt = (.run i, s₁)) (hc : combOf i = some (p, c)) (ht₁ : s₁.task? n = some t) :
    exec (.sequencerPass n) s = .next (stepComb p i c (s₁.setHive { s₁.hive t.hive with passServed := t.vlc }) t) := by
  change execSequencerPass n s = _
  simp only [execSequencerPass, ht, hserve, hpt, hf, hc, ht₁, Bool.not_true, Bool.false_eq_true, if_false]

theorem exec_sequencerPass_idle (ht : s.task? n = some t) (h : s.servesPass t = false) : exec (.sequencerPass n) s = .next s := by
  change execSequencerPass n s = _
  simp only [execSequencerPass, ht, h, Bool.not_false, if_true]

/-- What pass `k` makes of the task, and the sum that it feeds. -/
def Comb.passOf (c : Comb) (r : Resume) (k : Nat) (t : Task) : Task × Option (Nat × Word) :=
  if c.stepped r && decide (k < r.total) then c.pass r k t else (t, none)

theorem Comb.onePass_eq {k : Nat} : c.onePass r k s t =
    if (r.total ≤ k + 1 ∨ c.whole) ∧ (c.passOf r k t).2.isNone then combDone c r s (c.passOf r k t).1
    else
      let b := c.blur r (k + 1) s (c.passOf r k t).1
      b.2.1.setTask { b.2.2 with vstart := BitVec.ofNat 32 (k + 1), resume := some { b.1 with sum := (c.passOf r k t).2 } } := by
  unfold Comb.onePass Comb.passOf
  rfl

theorem Comb.onePass_last {k : Nat} (h : r.total ≤ k + 1 ∨ c.whole = true) (hx : (c.passOf r k t).2 = none) :
    c.onePass r k s t = combDone c r s (c.passOf r k t).1 := by
  rw [Comb.onePass_eq, if_pos ⟨h, by rw [hx]; rfl⟩]

theorem Comb.onePass_more {k : Nat} (h : k + 1 < r.total ∧ c.whole = false ∨ (c.passOf r k t).2 ≠ none) {r' : Resume} {u : Task}
    (hb : c.blur r (k + 1) s (c.passOf r k t).1 = (r', s₁, u)) : c.onePass r k s t =
      s₁.setTask { u with vstart := BitVec.ofNat 32 (k + 1), resume := some { r' with sum := (c.passOf r k t).2 } } := by
  have hn : ¬((r.total ≤ k + 1 ∨ c.whole) ∧ (c.passOf r k t).2.isNone) := by
    rintro ⟨hlast, hx⟩
    rcases h with ⟨hk, hw⟩ | hx'
    · rw [hw] at hlast
      simp only [Bool.false_eq_true, or_false] at hlast
      omega
    · exact hx' (Option.isNone_iff_eq_none.1 hx)
  rw [Comb.onePass_eq, if_neg hn, hb]

/-! ## The sum of the count tree (R26) -/

theorem exec_countTreeSum (ht : s.task? n = some t) : exec (.countTreeSum n) s = .next (s.setTask t.takeSum) := by
  change execCountTreeSum n s = _
  simp only [execCountTreeSum, ht]

theorem Task.rs_ws_same {d : Nat} {v : Word} (hd : d < 64) : (t.ws d v).rs d = if d = 0 then 0 else v := by
  unfold Task.rs Task.ws
  split
  · rfl
  · simp [hd]

theorem Task.rs_ws_of_ne {d k : Nat} {v : Word} (h : k ≠ d) : (t.ws d v).rs k = t.rs k := by
  unfold Task.rs Task.ws
  split
  · rfl
  · split
    · rfl
    · simp [Array.getD_eq_getD_getElem?, h.symm]

/-! ## Row exchanges (R322) -/

theorem exec_rowExchange (ht : s.task? n = some t) (hr : t.resume = some r) (hc : combOf r.instr = some (p, c)) (hp : t.place = .vlc)
    (hpc : r.pc = t.pc) (hv : t.vstart ≠ 0) (hx : r.exchanges < exchangesOf r) {r' : Resume} {u : Task}
    (hb : c.blur r t.vstart.toNat s t = (r', s₁, u)) : exec (.rowExchange n) s = .next (s₁.setTask
      { u with linear := true, heldSwitch := false,
               resume := some { r' with exchanges := r'.exchanges + 1, order := r'.orderAt u (r'.exchanges + 1) } }) := by
  change execRowExchange n s = _
  have hleft : t.exchangeLeft = true := by simpa [Task.exchangeLeft, hr, hpc, hx] using hv
  simp only [execRowExchange, ht, hr, Option.bind_some, hc, hp, hleft, and_self, if_true, hb]

theorem exec_rowExchange_idle (ht : s.task? n = some t) (hr : t.resume = some r) (hx : exchangesOf r ≤ r.exchanges) :
    exec (.rowExchange n) s = .next s := by
  change execRowExchange n s = _
  have hleft : t.exchangeLeft = false := by simp [Task.exchangeLeft, hr, hx]
  simp only [execRowExchange, ht, hleft, Bool.false_eq_true, and_false, if_false]
  split <;> rfl

/-- Settles O35, by the pass of a held instruction, the sum and the exchange. -/
theorem sequencerStepsComplete : Obligations.SequencerStepsComplete := by
  intro s n t ht
  refine ⟨fun p pt i s₁ c hserve hpt hf hc ht₁ htaken r hr hsum hl => ?_, exec_sequencerPass_idle ht, fun r sd v hr hsum hsd => ?_,
    fun r p c hr hc hp hpc hv hx r' s₁ u => exec_rowExchange ht hr hc hp hpc hv hx, fun r => exec_rowExchange_idle ht⟩
  · intro k hex s₂ hload v hpar x
    rw [exec_sequencerPass ht hserve hpt hf hc ht₁, stepComb_of_held htaken hr hsum hl hex hload hpar]
    exact ⟨fun h hx => congrArg _ (Comb.onePass_last h hx), fun h r' s₃ u hb => congrArg _ (Comb.onePass_more h hb)⟩
  · refine ⟨_, exec_countTreeSum ht, ?_⟩
    rw [Task.takeSum_of_sum hr hsum]
    exact ⟨rfl, Task.rs_ws_same (t := t) hsd, fun k hk => Task.rs_ws_of_ne (t := t) hk, Task.ws_cols ..⟩

end Sys2Proof.Machine
end

/-! # Loads (O6) -/

section
namespace Sys2Proof.Machine

variable {s s₁ s₁' s₂ s₃ s₄ : State} {t u v : Task} {i : Instr} {p : Pred} {str : Option Scope} {sd h sa n a id : Nat}
  {imm : Imm 19} {signed : Bool} {hd : Handle} {l : List (Byte × Bool)} {q : PendLoad}

/-! ## The operations of a load -/

/-- A step of a meaning that a condition may leave out, and what follows it. -/
theorem optional_bind {α : Type} {c : Prop} [Decidable c] {m : M Unit} {k : M α}
    (hm : (if c then m else pure ()) s = .ok ((), s₁)) : (if c then (do m; k) else k) s = k s₁ := by
  split
  · rename_i hc
    rw [if_pos hc] at hm
    exact bind_ok hm
  · rename_i hc
    rw [if_neg hc] at hm
    cases hm
    rfl

theorem liftX_ok {α : Type} {acc : Acc} {f : State → Except XErr (α × State)} {x : α} (hf : f s = .ok (x, s₁)) :
    liftX acc a f s = .ok (x, s₁) := by
  unfold liftX
  rw [bind_ok (getS_eq s), hf]
  rfl

theorem raiseBad_ok (hl : anyBad l = false) : raiseBad hd a l s = .ok ((), s) := by
  rw [raiseBad, hl, check_eq]
  rfl

/-- A load's value: two's complement, or zeros above (R252). -/
theorem extendTo_eq (signed : Bool) (n v : Nat) : extendTo signed n v = extended signed n v := by
  have hs : toSigned (8 * n) v = (BitVec.ofNat (8 * n) v).toInt := by
    rw [BitVec.toInt_eq_toNat_cond, BitVec.toNat_ofNat, toSigned]
    rcases n with _ | n
    · simp [Nat.mod_one]
    · have hp : 2 ^ (8 * (n + 1)) = 2 * 2 ^ (8 * (n + 1) - 1) := by rw [← Nat.pow_succ']; congr 1
      rw [if_neg (by omega)]
      by_cases hneg : 2 ^ (8 * (n + 1) - 1) ≤ v % 2 ^ (8 * (n + 1))
      · rw [if_pos hneg, if_neg (by omega)]
        push_cast
        rfl
      · rw [if_neg hneg, if_pos (by omega)]
        push_cast
        rfl
  unfold extendTo extended
  rw [hs]
  rfl

/-! ## LD (R252, R253) -/

theorem exec_of_loadForm (hi : loadForm i = some (p, str, sd, h, sa, imm, n, signed)) :
    exec i s = loadWord p i s str sd h sa n signed imm := by
  unfold loadForm at hi
  split at hi <;> cases hi <;> rfl

/-- The data of a load comes in a later step: from a port, and from a bank of the honey store that refreshes (R31, R139). -/
def loadLater (hd : Handle) (s : State) (hive a : Nat) : Bool :=
  match hd.space with
  | .host | .pool => true
  | .honey => s.honeyHeld hive a
  | _ => false

theorem loadLater_iff {hive : Nat} :
    loadLater hd s hive a = true ↔ hd.remote = true ∨ (hd.space = .honey ∧ s.honeyHeld hive a = true) := by
  unfold loadLater Handle.remote
  cases hd.space <;> simp

theorem loadLater_eq_false_iff {hive : Nat} :
    loadLater hd s hive a = false ↔ hd.remote = false ∧ (hd.space = .honey → s.honeyHeld hive a = false) := by
  rw [← Bool.not_eq_true, loadLater_iff]
  simp

section
variable (hr : s.runsQ p t) (hh : useHandle h s = .ok (hd, s₁)) (ha : checkAccess hd (memOffset t sa imm) n .read n s₁ = .ok (a, s₁'))
  (hside : (if hd.space = .comblin then sidePort (combByteCols a n) [] else pure ()) s₁' = .ok ((), s₂))
  (hdrain : (if str.isSome then drainAll else pure ()) s₂ = .ok ((), s₃))
include hr hh ha hside hdrain

theorem loadWord_now (hnow : loadLater hd s₂ t.hive a = false)
    (hread : readBytes hd (strongPoint str) false .read a n s₃ = .ok (l, s₄))
    (hl : anyBad l = false) (hu : s₄.curTask = some u) : loadWord p i s str sd h sa n signed imm =
      .next (s₄.setTask ((u.awake.ws sd (extended signed n (leNat (u.overlay 0 hd.space a (bytesOf l))))).retire i)) := by
  refine runFlow_ok hr.1 hr.2 ?_
  refine (bind_ok hh).trans <| (bind_ok ha).trans <| (optional_bind hside).trans <| (bind_ok (getS_eq _)).trans ?_
  change (if loadLater hd s₂ t.hive a = true then _ else _ : M Unit) s₂ = _
  rw [hnow, if_neg Bool.false_ne_true, optional_bind hdrain, bind_ok hread, bind_ok (raiseBad_ok hl), bind_ok (getT_eq hu),
    finishWord_eq _ hu, extendTo_eq]

theorem loadWord_later (hlater : loadLater hd s₂ t.hive a = true) (hu : s₃.curTask = some u) :
    loadWord p i s str sd h sa n signed imm = .next (s₃.setTask { u with
        pend := some { instr := i, sd := sd, size := n, signed := signed, handle := hd, addr := a, strong := str, atomic := none }
        wait := some .load, stallSince := none }) := by
  refine runFlow_ok hr.1 hr.2 ?_
  refine (bind_ok hh).trans <| (bind_ok ha).trans <| (optional_bind hside).trans <| (bind_ok (getS_eq _)).trans ?_
  change (if loadLater hd s₂ t.hive a = true then _ else _ : M Unit) s₂ = _
  rw [if_pos hlater, optional_bind hdrain, modT_eq _ hu]
end

/-! ## The return of a held access (R31, R253, R254) -/

theorem exec_scalarLoadReturn_refreshing (ht : s.task? id = some t) (hp : t.pend = some q) (hs : q.handle.space = .honey)
    (hb : s.refreshing = some (fld q.addr 12 4)) : exec (.scalarLoadReturn id) s = .next s := by
  change execScalarLoadReturn id s = _
  simp only [execScalarLoadReturn, ht, Option.bind_some, hp, hs, hb, and_self, if_true]

section
variable (ht : s.task? id = some t) (hp : t.pend = some q) (hh : ¬(q.handle.space = .honey ∧ s.refreshing = some (fld q.addr 12 4)))
  (hu : State.curTask { s with cur := some id } = some u)
include ht hp hh hu

theorem scalarLoadReturn_load (hq : q.atomic = none)
    (hread : readBytes q.handle (strongPoint q.strong) false .read q.addr q.size
      (State.setTask { s with cur := some id } { u with pend := none }) = .ok (l, s₁)) (hl : anyBad l = false)
    (hv : s₁.curTask = some v) : exec (.scalarLoadReturn id) s = .next { s₁.setTask ((v.awake.ws q.sd
        (extendTo q.signed q.size (leNat (v.overlay 0 q.handle.space q.addr (bytesOf l))))).retire q.instr) with cur := s.cur } := by
  change execScalarLoadReturn id s = _
  simp only [execScalarLoadReturn, ht, Option.bind_some, hp, if_neg hh, hq]
  refine runFor_ok ht ?_
  rw [bind_ok (modT_eq _ hu)]
  rw [bind_ok hread, bind_ok (raiseBad_ok hl), bind_ok (getT_eq hv), finishWord_eq _ hv]

theorem scalarLoadReturn_atomic {op code old : Nat} {b cmp : Word} {pt : Partition} (hq : q.atomic = some (op, b, cmp))
    (hc : atomicCode op = some code)
    (hpt : State.part? (State.setTask { s with cur := some id } { u with pend := none }) u.vf = some pt)
    (hold : State.remoteAtomic (State.setTask { s with cur := some id } { u with pend := none })
      (Task.ctx { u with pend := none } pt) q.handle.space code (q.size == 4) q.addr b cmp
      (fun x => atomicNew op q.size x b.toNat cmp.toNat) = .ok (old, s₁)) (hv : s₁.curTask = some v) :
    exec (.scalarLoadReturn id) s =
      .next { s₁.setTask ((v.awake.ws q.sd (extendTo true q.size old)).retire q.instr) with cur := s.cur } := by
  have hcur := State.curTask_setTask (u := { u with pend := none }) hu rfl
  change execScalarLoadReturn id s = _
  simp only [execScalarLoadReturn, ht, Option.bind_some, hp, if_neg hh, hq]
  refine runFor_ok ht ?_
  rw [bind_ok (modT_eq _ hu)]
  rw [bind_ok (getT_eq hcur), bind_ok (getP_eq hcur hpt), hc, bind_ok (liftX_ok hold), finishWord_eq _ hv]
end

/-! ## An atomic over a port (R139, R415, R416) -/

section
variable {c : Ctx} {sp : Space} {op va old : Nat} {w4 : Bool} {b cmp : Word} {f : Nat → Option Nat} {e : TlbEntry}
  (he : s.translate c va (some sp) = .ok (e, s₁))
include he

/-- The request goes out where the leaf lets it be made: what follows is the port's. -/
theorem State.remoteAtomic_of_allowed (hr : e.leaf.r = true) (hw : e.leaf.w = true) :
    let pa := e.phys va
    let n := if w4 then 4 else 8
    let s₂ := s₁.send (.atomicOp (portOf pa) (c.requester (portOf pa)) op w4 (tlpAddr pa) b cmp)
    let old := leNat (memReadN s₂.mem pa n)
    s.remoteAtomic c sp op w4 va b cmp f =
      if s₁.portLive (portOf pa) then
        if s₂.portMute (portOf pa) then .ok (2 ^ (8 * n) - 1, s₂)
        else .ok (old, (f old).elim s₂ fun v => (leBytes n v).zipIdx.foldl (fun s x => s.physWrite (pa + x.2) x.1) s₂)
      else .ok (2 ^ (8 * n) - 1, s₁.portRefused (portOf pa)) := by
  intro pa n s₂ old
  have ha : e.leaf.allows .atomic = true := by simp [LeafBits.allows, hr, hw]
  have hm (o : Option Nat) (g : Nat → State) : (match o with | some v => g v | none => s₂) = o.elim s₂ g := by cases o <;> rfl
  simp only [State.remoteAtomic, he, ha, Bool.not_true, Bool.false_eq_true, if_false, ← hm]
  rfl
end

/-- Settles O6: a load at once, a load that waits, its return, and an atomic over a port. -/
theorem loadsComplete : Obligations.LoadsComplete := by
  refine ⟨?_, ?_, fun s id t q ht hp hh u hu => ⟨?_, ?_⟩, fun s c sp code w4 va b cmp f e s₁ he hr hw => ?_,
    fun s id t q => exec_scalarLoadReturn_refreshing⟩
  · intro i p str sd h sa imm n signed hi s t hr hd s₁ hh a s₁' ha s₂ hside hrem hheld s₃ hdrain l s₄ hread hl u hu
    rw [exec_of_loadForm hi]
    exact loadWord_now hr hh ha hside hdrain (loadLater_eq_false_iff.2 ⟨hrem, hheld⟩) hread hl hu
  · intro i p str sd h sa imm n signed hi s t hr hd s₁ hh a s₂ ha hl s₃ hdrain u hu
    rw [exec_of_loadForm hi]
    have hc : hd.space ≠ .comblin := by
      rintro hc
      simp [Handle.remote, hc] at hl
    exact loadWord_later hr hh ha (by rw [if_neg hc]; rfl) hdrain (loadLater_iff.2 hl) hu
  · exact fun hq l s₁ hread hl v => scalarLoadReturn_load ht hp hh hu hq hread hl
  · exact fun op b cmp code pt hq hc hpt old s₁ hold w => scalarLoadReturn_atomic ht hp hh hu hq hc hpt hold
  · intro pa n s₂ old
    rw [State.remoteAtomic_of_allowed he hr hw]
    refine ⟨fun hl => ?_, fun hl hm => ?_, fun hl hm => ⟨fun hf => ?_, fun x hf => ?_⟩⟩
    · rw [if_neg (by simpa using hl)]
    · rw [if_pos hl, if_pos hm]
    · rw [if_pos hl, if_neg (by simpa using hm), hf]
      rfl
    · rw [if_pos hl, if_neg (by simpa using hm), hf]
      rfl

end Sys2Proof.Machine
end

/-! # Columns, elements and masks (O17) -/

section
namespace Sys2Proof.Machine

/-! ## Bits -/

theorem bitOf_eq_testBit (n i : Nat) : bitOf n i = n.testBit i :=
  Nat.testBit_eq_decide_div_mod_eq.symm

theorem bitOf_and (m n i : Nat) : bitOf (m &&& n) i = (bitOf m i && bitOf n i) := by simp only [bitOf_eq_testBit, Nat.testBit_and]
theorem bitOf_or (m n i : Nat) : bitOf (m ||| n) i = (bitOf m i || bitOf n i) := by simp only [bitOf_eq_testBit, Nat.testBit_or]
theorem bitOf_xor (m n i : Nat) : bitOf (m ^^^ n) i = (bitOf m i ^^ bitOf n i) := by simp only [bitOf_eq_testBit, Nat.testBit_xor]

/-- A bit that is clear is set without a carry. -/
theorem testBit_two_pow_add {c x : Nat} (h : x.testBit c = false) (k : Nat) :
    (2 ^ c + x).testBit k = (decide (c = k) || x.testBit k) := by
  rcases Nat.lt_trichotomy k c with hk | rfl | hk
  · simp [Nat.testBit_two_pow_add_gt hk, Nat.ne_of_gt hk]
  · simp [Nat.testBit_two_pow_add_eq, h]
  · have heven : x / 2 ^ c % 2 = 0 := by simpa [Nat.testBit_eq_decide_div_mod_eq] using h
    have habove (y : Nat) : y.testBit k = (y / 2 ^ c / 2).testBit (k - (c + 1)) := by
      rw [Nat.div_div_eq_div_mul, ← Nat.pow_succ, Nat.testBit_div_two_pow, Nat.sub_add_cancel hk]
    have hhalf : (2 ^ c + x) / 2 ^ c / 2 = x / 2 ^ c / 2 := by
      rw [Nat.add_div_left _ (Nat.two_pow_pos c)]
      omega
    rw [habove, hhalf, ← habove]
    simp [Nat.ne_of_lt hk]

section
variable {t u : Task} {base c k j n set bits v : Nat} {vals : List (Nat × Nat)} {f : Fmt} {r : VReg}

/-! ## Writing one column (R18, R19, R283) -/

theorem Task.col_setCol_of_ne (h : k ≠ c) : (t.setCol c v).col k = t.col k := by
  unfold Task.setCol Task.col
  split
  · rfl
  · simp [List.getD_eq_getElem?_getD, h.symm]

theorem Task.col_setCol_same (h0 : c ≠ 0) (h : c < t.cols.length) : (t.setCol c v).col c = v := by
  unfold Task.setCol Task.col
  rw [if_neg h0]
  simp [List.getD_eq_getElem?_getD, h]

theorem Task.setCol_zero : t.setCol 0 v = t := if_pos rfl

@[simp] theorem Task.setCol_cols_length : (t.setCol c v).cols.length = t.cols.length := by
  unfold Task.setCol
  split <;> simp
@[simp] theorem Task.setCol_id : (t.setCol c v).id = t.id := by unfold Task.setCol; split <;> rfl
@[simp] theorem Task.setCol_regs : (t.setCol c v).regs = t.regs := by unfold Task.setCol; split <;> rfl

/-- The parity column of a group follows the columns that are written in it. -/
theorem Task.setCol_par (h0 : c ≠ 0) (hk : k < t.par.length) : (t.setCol c v).par.getD k 0 =
    t.par.getD k 0 ^^^ if k = c / 32 then t.col c ^^^ v else 0 := by
  unfold Task.setCol
  rw [if_neg h0]
  by_cases h : k = c / 32
  · subst h
    simp [List.getD_eq_getElem?_getD, hk, Nat.xor_assoc]
  · simp [List.getD_eq_getElem?_getD, h, Ne.symm h]

@[simp] theorem Task.writeCol_cols_length : (t.writeCol c set bits).cols.length = t.cols.length := Task.setCol_cols_length
@[simp] theorem Task.writeCol_id : (t.writeCol c set bits).id = t.id := Task.setCol_id
@[simp] theorem Task.writeCol_regs : (t.writeCol c set bits).regs = t.regs := Task.setCol_regs

theorem Task.col_writeCol_of_ne (h : k ≠ c) : (t.writeCol c set bits).col k = t.col k := Task.col_setCol_of_ne h

theorem Task.col_zero_writeCol : (t.writeCol c set bits).col 0 = t.col 0 := by
  by_cases h : c = 0
  · subst h
    exact congrArg (Task.col · 0) Task.setCol_zero
  · exact Task.col_writeCol_of_ne (Ne.symm h)

theorem Task.bitOf_col_writeCol (h0 : c ≠ 0) (h : c < t.cols.length) :
    bitOf ((t.writeCol c set bits).col c) j = if bitOf set j then bitOf bits j else bitOf (t.col c) j := by
  rw [show (t.writeCol c set bits).col c = _ from Task.col_setCol_same h0 h, bitOf_or, bitOf_xor, bitOf_and, bitOf_and]
  cases bitOf set j <;> simp

/-! ## The parity of a group (R18) -/

/-- The exclusive or of some values, one of which has changed. -/
theorem foldl_xor_change {g h : Nat → Nat} {d a b : Nat} (e : ∀ k < n, h k = g k ^^^ if k = j then d else 0) :
    (List.range n).foldl (fun a k => a ^^^ h k) (a ^^^ b) =
      (List.range n).foldl (fun a k => a ^^^ g k) a ^^^ b ^^^ if j < n then d else 0 := by
  induction n with
  | zero => simp
  | succ n ih =>
    rw [List.range_succ, List.foldl_append, List.foldl_append, ih fun k hk => e k (by omega)]
    simp only [List.foldl_cons, List.foldl_nil, e n (Nat.lt_succ_self n)]
    by_cases hj : n = j
    · subst hj
      simp only [Nat.lt_irrefl, if_false, if_true, Nat.lt_succ_self, Nat.xor_zero]
      ac_rfl
    · have : (j < n + 1) = (j < n) := by simp; omega
      simp only [this, hj, if_false, Nat.xor_zero]
      ac_rfl

/-- The sum of a group, which is zero where its parity is good. -/
def Task.groupSum (t : Task) (g : Nat) : Nat := (List.range 32).foldl (fun a k => a ^^^ t.col (32 * g + k)) (t.par.getD g 0)

theorem Task.groupSum_setCol {g : Nat} (hg : g < 8) (hcols : t.cols.length = 256) (hpar : t.par.length = 8) :
    (t.setCol c v).groupSum g = t.groupSum g := by
  by_cases h0 : c = 0
  · rw [h0, Task.setCol_zero]
  · have hcol : ∀ k < 32, (t.setCol c v).col (32 * g + k) =
        t.col (32 * g + k) ^^^ if k = c % 32 then (if g = c / 32 then t.col c ^^^ v else 0) else 0 := by
      intro k hk
      by_cases e : 32 * g + k = c
      · rw [if_pos (by omega), if_pos (by omega), e, Task.col_setCol_same h0 (by omega), ← Nat.xor_assoc, Nat.xor_self, Nat.zero_xor]
      · rw [Task.col_setCol_of_ne e]
        split
        · rw [if_neg (by omega), Nat.xor_zero]
        · rw [Nat.xor_zero]
    unfold Task.groupSum
    rw [Task.setCol_par h0 (by omega), foldl_xor_change hcol, if_pos (Nat.mod_lt _ (by omega)), Nat.xor_assoc, Nat.xor_self, Nat.xor_zero]

/-! ## Writing a field of columns (R89) -/

theorem Task.writeCols_succ : t.writeCols base set vals (n + 1) =
    (t.writeCols base set vals n).writeCol (base + n) set (columnOf n vals) := by
  simp only [Task.writeCols, List.range_succ, List.foldl_append, List.foldl_cons, List.foldl_nil]

@[simp] theorem Task.writeCols_cols_length : (t.writeCols base set vals n).cols.length = t.cols.length := by
  induction n with
  | zero => rfl
  | succ n ih => rw [Task.writeCols_succ, Task.writeCol_cols_length, ih]

theorem Task.col_writeCols_of_outside (h : k < base ∨ base + n ≤ k) : (t.writeCols base set vals n).col k = t.col k := by
  induction n with
  | zero => rfl
  | succ n ih => rw [Task.writeCols_succ, Task.col_writeCol_of_ne (by omega), ih (by omega)]

theorem Task.bitOf_col_writeCols (h0 : 1 ≤ base) (h : base + n ≤ t.cols.length) (hj : j < n) :
    bitOf ((t.writeCols base set vals n).col (base + j)) c =
      if bitOf set c then bitOf (columnOf j vals) c else bitOf (t.col (base + j)) c := by
  induction n with
  | zero => omega
  | succ n ih =>
    rw [Task.writeCols_succ]
    by_cases hn : j = n
    · subst hn
      rw [Task.bitOf_col_writeCol (by omega) (by simp; omega), Task.col_writeCols_of_outside (by omega)]
    · rw [Task.col_writeCol_of_ne (by omega), ih (by omega) (by omega)]

/-- A column holds in each cell bit `j` of the cell's value, where no cell has two values. -/
theorem bitOf_columnOf (hn : (vals.map (·.1)).Nodup) :
    bitOf (columnOf j vals) c = vals.any fun x => decide (x.1 = c) && bitOf x.2 j := by
  induction vals generalizing c with
  | nil => simp [columnOf, bitOf]
  | cons x l ih =>
    obtain ⟨c₀, v⟩ := x
    obtain ⟨hx, hl⟩ := List.nodup_cons.1 (List.map_cons ▸ hn)
    rw [columnOf, List.any_cons, ← ih hl]
    cases hv : bitOf v j with
    | false => simp
    | true =>
      have hclear : (columnOf j l).testBit c₀ = false := by
        rw [← bitOf_eq_testBit, ih hl, List.any_eq_false]
        rintro y hy hyc
        simp only [Bool.and_eq_true, decide_eq_true_eq] at hyc
        exact hx (List.mem_map.2 ⟨y, hy, hyc.1⟩)
      rw [if_pos rfl, bitOf_eq_testBit, testBit_two_pow_add hclear, bitOf_eq_testBit, Bool.and_true]

/-- A cell has one value, where no cell has two. -/
theorem eq_of_cell_eq {x y : Nat × Nat} (hn : (vals.map (·.1)).Nodup) (hx : x ∈ vals) (hy : y ∈ vals) (h : y.1 = x.1) : y = x := by
  induction vals with
  | nil => cases hx
  | cons z l ih =>
    obtain ⟨hz, hl⟩ := List.nodup_cons.1 (List.map_cons ▸ hn)
    rcases List.mem_cons.1 hx with rfl | hxl <;> rcases List.mem_cons.1 hy with rfl | hyl
    · rfl
    · exact (hz (List.mem_map.2 ⟨y, hyl, h⟩)).elim
    · exact (hz (List.mem_map.2 ⟨x, hxl, h.symm⟩)).elim
    · exact ih hl hxl hyl

theorem bitOf_columnOf_of_mem {x : Nat × Nat} (hn : (vals.map (·.1)).Nodup) (hx : x ∈ vals) :
    bitOf (columnOf j vals) x.1 = bitOf x.2 j := by
  rw [bitOf_columnOf hn, Bool.eq_iff_iff, List.any_eq_true]
  simp only [Bool.and_eq_true, decide_eq_true_eq]
  refine ⟨fun ⟨y, hy, hyx, hb⟩ => ?_, fun hb => ⟨x, hx, rfl, hb⟩⟩
  rwa [← eq_of_cell_eq hn hx hy hyx]

/-! ## Reading a field back -/

theorem Task.cellBits_congr (h : ∀ j < n, bitOf (u.col (base + j)) c = bitOf (t.col (base + j)) c) :
    u.cellBits base c n = t.cellBits base c n := by
  induction n generalizing base with
  | zero => rfl
  | succ n ih =>
    have ih' := ih (base := base + 1) fun j hj => by simpa [Nat.add_assoc, Nat.add_comm 1] using h (j + 1) (by omega)
    have h0 : bitOf (u.col base) c = bitOf (t.col base) c := h 0 (Nat.succ_pos n)
    simp only [Task.cellBits, ih', h0]

theorem Task.cellBits_eq_mod (h : ∀ j < n, bitOf (u.col (base + j)) c = bitOf v j) : u.cellBits base c n = v % 2 ^ n := by
  induction n generalizing base v with
  | zero => simp [Task.cellBits, Nat.mod_one]
  | succ n ih =>
    have hv (j : Nat) : bitOf (v / 2) j = bitOf v (j + 1) := by simp only [bitOf_eq_testBit, Nat.testBit_add_one]
    have hlow : b2n (bitOf v 0) = v % 2 := by
      rw [bitOf, Nat.pow_zero, Nat.div_one]
      rcases Nat.mod_two_eq_zero_or_one v with e | e <;> simp [b2n, e]
    have h0 : bitOf (u.col base) c = bitOf v 0 := h 0 (Nat.succ_pos n)
    have ih' : u.cellBits (base + 1) c n = v / 2 % 2 ^ n :=
      ih fun j hj => by simpa [hv, Nat.add_assoc, Nat.add_comm 1] using h (j + 1) (by omega)
    rw [Task.cellBits, ih', h0, hlow, Nat.pow_succ', Nat.mod_mul]

theorem toSigned_emod (w x : Nat) : toSigned w x % 2 ^ w = ((x % 2 ^ w : Nat) : Int) := by
  unfold toSigned
  split
  · rename_i h
    simp [h, Nat.mod_one]
  · split <;> simp [Int.sub_emod_right]

/-- A field as wide as the format, or wider, holds the element itself in its low bits. -/
theorem fieldBits_mod (h : f.width ≤ n) : fieldBits f n v % 2 ^ f.width = v % 2 ^ f.width := by
  cases f with
  | sint w =>
    unfold fieldBits ofInt
    dsimp only [Fmt.width]
    have hz : (0 : Int) ≤ toSigned w v % 2 ^ max n w := Int.emod_nonneg _ (Int.ne_of_gt (Int.pow_pos (by decide)))
    have hdvd : (2 ^ w : Int) ∣ 2 ^ max n w := mod_cast Nat.pow_dvd_pow 2 (Nat.le_max_right n w)
    have he : ((toSigned w v % 2 ^ max n w).toNat % 2 ^ w : Int) = ((v % 2 ^ w : Nat) : Int) := by
      rw [Int.toNat_of_nonneg hz, Int.emod_emod_of_dvd _ hdvd, toSigned_emod]
    exact_mod_cast he
  | _ => exact Nat.mod_mod _ _

/-! ## Writing the elements of a register (R89) -/

theorem Task.clearMark_cols {n : Option Nat} : (t.clearMark n).cols = t.cols := by
  unfold Task.clearMark
  split
  · split <;> rfl
  · rfl

/-- The values that a register's field takes for the elements written. -/
def fieldVals (f : Fmt) (n : Nat) (vals : List (Nat × Nat)) : List (Nat × Nat) := vals.map fun x => (x.1, fieldBits f n x.2)

theorem fieldVals_cells : (fieldVals f n vals).map (·.1) = vals.map (·.1) := by simp [fieldVals, Function.comp_def]

variable {vd : Nat} (hr : t.vreg vd = some r)
include hr

theorem Task.col_writeElems : (t.writeElems vd set f vals).col k =
    (t.writeCols r.base set (fieldVals f r.width vals) r.width).col k := by
  have hreg : t.reg! vd = r := by simp [Task.reg!, hr]
  unfold Task.writeElems Task.col
  rw [Task.clearMark_cols, hreg]
  rfl

theorem Task.col_writeElems_of_outside (h : k < r.base ∨ r.base + r.width ≤ k) : (t.writeElems vd set f vals).col k = t.col k := by
  rw [Task.col_writeElems hr, Task.col_writeCols_of_outside h]

variable (h0 : 1 ≤ r.base) (h : r.base + r.width ≤ t.cols.length)
include h0 h

theorem Task.cellBits_writeElems_same {x : Nat × Nat} (hf : f.width ≤ r.width) (hn : (vals.map (·.1)).Nodup) (hx : x ∈ vals)
    (hset : bitOf set x.1 = true) : (t.writeElems vd set f vals).cellBits r.base x.1 f.width = x.2 % 2 ^ f.width := by
  rw [← fieldBits_mod hf]
  refine Task.cellBits_eq_mod fun j hj => ?_
  rw [Task.col_writeElems hr, Task.bitOf_col_writeCols h0 h (by omega), if_pos hset]
  exact bitOf_columnOf_of_mem (vals := fieldVals f r.width vals) (x := (x.1, fieldBits f r.width x.2))
    (by rwa [fieldVals_cells]) (List.mem_map.2 ⟨x, hx, rfl⟩)

theorem Task.cellBits_writeElems_of_not_mem (hset : bitOf set c = false) :
    (t.writeElems vd set f vals).cellBits r.base c r.width = t.cellBits r.base c r.width := by
  refine Task.cellBits_congr fun j hj => ?_
  rw [Task.col_writeElems hr, Task.bitOf_col_writeCols h0 h hj, if_neg (by simp [hset])]
end

/-! ## What retiring and the scratch columns leave unchanged -/

section
variable {t : Task} {i : Instr} {k n : Nat} {g0 : Bool}

/-- The ends of iterations change the flow of control alone (R245). -/
theorem Task.arriveAt_flowAs (l : List LoopRec) (t : Task) (npc : BitVec 56) : (Task.arriveAt l t npc).flowAs t = t := by
  induction l generalizing t npc with
  | nil => rfl
  | cons r rs ih =>
    unfold Task.arriveAt
    split
    · have hstrip : Task.flowAs (if t.sen && t.slc.toNat == r.lc then t.advanceStrip else t) t = t := by split <;> rfl
      generalize (if t.sen && t.slc.toNat == r.lc then t.advanceStrip else t) = t₁ at hstrip
      dsimp only
      split
      · exact hstrip
      · calc (Task.arriveAt rs t₁ r.stop).flowAs t = ((Task.arriveAt rs t₁ r.stop).flowAs t₁).flowAs t := rfl
          _ = t := by rw [ih, hstrip]
    · rfl

theorem Task.retire_flowAs : (t.retire i).flowAs t = t := by
  unfold Task.retire Task.seqTo
  split
  · rfl
  · split
    · rfl
    · exact Task.arriveAt_flowAs ..

@[simp] theorem Task.retire_id : (t.retire i).id = t.id := (congrArg Task.id (Task.retire_flowAs (t := t) (i := i)) :)
@[simp] theorem Task.retire_cols : (t.retire i).cols = t.cols := (congrArg Task.cols (Task.retire_flowAs (t := t) (i := i)) :)
@[simp] theorem Task.retire_regs : (t.retire i).regs = t.regs := (congrArg Task.regs (Task.retire_flowAs (t := t) (i := i)) :)

theorem foldl_keeps {α β γ : Type} {f : β → γ → β} {g : β → α} (h : ∀ b x, g (f b x) = g b) (l : List γ) (b : β) :
    g (l.foldl f b) = g b := by
  induction l generalizing b with
  | nil => rfl
  | cons x l ih => rw [List.foldl_cons, ih, h]

/-- Free values in tags and scratch columns (R277) leave what neither sees. -/
theorem Task.scrub_keeps {α : Type} {g : Task → α} (htags : ∀ (u : Task) l, g { u with tags := l } = g u)
    (hset : ∀ (u : Task) j v, g (u.setCol (216 + j) v) = g u) : g (t.scrub n g0) = g t := by
  unfold Task.scrub
  dsimp only
  rw [foldl_keeps (g := g) fun u j => hset u j _, htags]

@[simp] theorem Task.scrub_id : (t.scrub n g0).id = t.id := Task.scrub_keeps (g := Task.id) (fun _ _ => rfl) fun _ _ _ => Task.setCol_id
@[simp] theorem Task.scrub_regs : (t.scrub n g0).regs = t.regs :=
  Task.scrub_keeps (g := Task.regs) (fun _ _ => rfl) fun _ _ _ => Task.setCol_regs
theorem Task.col_scrub (h : k < 216) : (t.scrub n g0).col k = t.col k :=
  Task.scrub_keeps (g := (Task.col · k)) (fun _ _ => rfl) fun _ _ _ => Task.col_setCol_of_ne (by omega)
end

/-! ## Running a comb instruction afresh (R274) -/

section
variable {s s₀ s₁ : State} {t : Task} {i : Instr} {p : Pred} {c : Comb} {r₀ r : Resume}

theorem Task.parityFails_eq_nil {l : List Nat} (h : ∀ g, t.groupFail g = none) : t.parityFails l = [] := by
  simp [Task.parityFails, h]

theorem Comb.parityError_eq_none {k : Nat} (h : ∀ g, t.groupFail g = none) : c.parityError r k t = none := by
  simp [Comb.parityError, Task.parityFails_eq_nil h]

theorem State.columnsBusy_eq_false {reads writes : List Nat} (hr : s.pendingReads t = []) (hw : s.pendingWrites t = []) :
    s.columnsBusy t reads writes = false := by
  simp [State.columnsBusy, hr, hw, meets]

theorem runComb_fresh (ht : s.curTask = some t) (hheld : t.held i = none) (ha : laneActive c.lanes p t = true)
    (htaken : t.combsTaken = false) (hprep : c.prep t s = .ok (r₀, s₀))
    (hbusy : s₀.columnsBusy t ((c.reads r₀ t).map (·.1)) (c.writes t) = false) (hload : c.load r₀ t s₀ = .ok ((r, none), s₁))
    (hpar : c.parityError r 0 { t with linear := false } = none) :
    runComb p i c s = .next (combDone c r s₁ (c.runTo r 0 r.total { t with linear := false })) := by
  simp only [runComb, ht, hheld, ha, htaken, Comb.start, hprep, hbusy, hload, hpar, Option.isNone_none, Bool.not_true, Bool.and_false,
    Bool.false_eq_true, if_false]
end

/-! ## Masks (R310) -/

section
variable {s : State} {t : Task} {i : Instr} {p : Pred} {c md ma mb passes : Nat} {srcs : List Nat} {val : Task → Nat → Nat}

theorem bitOf_allCells : bitOf t.allCells c = decide (c < t.vlmax) := by
  rw [bitOf_eq_testBit, Task.allCells, Nat.testBit_two_pow_sub_one]

/-- An active cell is one of the VLC's (R62, R208). -/
theorem bitOf_allCells_of_active (h : bitOf (activeCells p t) c = true) : bitOf t.allCells c = true := by
  have hvl : c < t.vl := by
    have hb : bitOf (2 ^ t.vl - 1) c = true := by
      unfold activeCells at h
      simp only at h
      split at h
      · split at h
        · simp [bitOf] at h
        · rw [bitOf_xor, bitOf_and] at h
          revert h
          cases bitOf (2 ^ t.vl - 1) c <;> simp
      · rw [bitOf_and, Bool.and_eq_true] at h
        exact h.1
    simpa [bitOf_eq_testBit, Nat.testBit_two_pow_sub_one] using hb
  rw [bitOf_allCells, decide_eq_true_eq]
  exact Nat.lt_of_lt_of_le hvl (Nat.min_le_left ..)

theorem maskComb_prep (h1 : 1 ≤ md) (h7 : md ≤ 7) (hs : ∀ n ∈ srcs, n ≤ 7) :
    (maskComb i p md srcs passes val).prep t s = .ok ({ capture i p t with total := passes }, s) := by
  have hok : (decide (1 ≤ md) && decide (md ≤ 7) && srcs.all fun n => decide (n ≤ 7)) = true := by simpa [h1, h7] using hs
  change (check _ _ _ >>= fun _ => pure _) s = _
  rw [bind_ok (by rw [check_eq, hok]; rfl)]
  rfl

/-- The task as a mask instruction leaves it, before it retires. -/
def maskDone (t : Task) (md active bits fresh : Nat) : Task :=
  { ({ t with linear := false }.writeCol md active bits).awake with vstart := 0, resume := none }.scrub fresh false

@[simp] theorem maskDone_id {active bits fresh : Nat} : (maskDone t md active bits fresh).id = t.id :=
  Task.scrub_id.trans Task.writeCol_id
@[simp] theorem maskDone_regs {active bits fresh : Nat} : (maskDone t md active bits fresh).regs = t.regs :=
  Task.scrub_regs.trans Task.writeCol_regs
theorem col_maskDone {active bits fresh k : Nat} (hk : k < 216) :
    (maskDone t md active bits fresh).col k = ({ t with linear := false }.writeCol md active bits).col k := Task.col_scrub hk

section
variable (ht : s.curTask = some t) (hheld : t.held i = none) (ha : laneActive .cell p t = true) (htaken : t.combsTaken = false)
  (hreads : s.pendingReads t = []) (hwrites : s.pendingWrites t = []) (hpar : ∀ g, t.groupFail g = none) (h1 : 1 ≤ md) (h7 : md ≤ 7)
  (hs : ∀ n ∈ srcs, n ≤ 7)
include ht hheld ha htaken hreads hwrites hpar h1 h7 hs

theorem runComb_maskComb : runComb p i (maskComb i p md srcs passes val) s = .next (State.setTask { s with fresh := s.fresh + 42 }
      ((maskDone t md (activeCells p t) (val { t with linear := false } (activeCells p t)) s.fresh).retire i)) :=
  runComb_fresh ht hheld ha htaken (maskComb_prep h1 h7 hs) (State.columnsBusy_eq_false hreads hwrites) rfl
    (Comb.parityError_eq_none (t := { t with linear := false }) hpar)

/-- A mask instruction leaves in its mask, in the active cells, the value of each cell, and of the columns below the scratch it changes no
other. -/
theorem runComb_maskComb_result {f : Bool → Bool → Bool} (hlen : t.cols.length = 256)
    (hval : ∀ c, bitOf (activeCells p t) c = true →
      bitOf (val { t with linear := false } (activeCells p t)) c = f (bitOf (t.mask ma) c) (bitOf (t.mask mb) c)) :
    ∃ s' u, runComb p i (maskComb i p md srcs passes val) s = .next s' ∧ s'.curTask = some u ∧
      (∀ c, bitOf (u.col md) c =
        if bitOf (activeCells p t) c then f (bitOf (t.mask ma) c) (bitOf (t.mask mb) c) else bitOf (t.col md) c) ∧
      (∀ k, 8 ≤ k → k < 216 → u.col k = t.col k) ∧ s'.mem = s.mem ∧ u.regs = t.regs := by
  have hretire (u : Task) (k : Nat) : (u.retire i).col k = u.col k := by rw [Task.col, Task.retire_cols, Task.col]
  refine ⟨_, _, runComb_maskComb ht hheld ha htaken hreads hwrites hpar h1 h7 hs,
    State.curTask_setTask (s := { s with fresh := s.fresh + 42 }) ht (by simp), fun c => ?_, fun k h8 hk => ?_, rfl, by simp⟩
  · rw [hretire, col_maskDone (by omega), Task.bitOf_col_writeCol (by omega) (by rw [hlen]; omega)]
    split
    · rename_i h
      exact hval c h
    · rfl
  · rw [hretire, col_maskDone hk, Task.col_writeCol_of_ne (by omega)]
    rfl
end
end

/-- Settles O17: the masks by what one column write does; a field of columns by its columns one after another. -/
theorem maskAndColumnResults : Obligations.MaskAndColumnResults := by
  refine ⟨?_, fun t c set bits hcols hpar => ⟨fun k => Task.col_writeCol_of_ne, Task.col_zero_writeCol,
      fun h0 h j => Task.bitOf_col_writeCol h0 (hcols ▸ h), fun g hg => Task.groupSum_setCol hg hcols hpar⟩,
    fun t vd r set f vals hr h0 h hcols hf hn hset => ?_⟩
  · intro p md ma mb s t h1 h7 ha7 hb7 ht ha htaken hlen hreads hwrites hpar i f hi hheld
    have hsrcs : ∀ n ∈ [ma, mb], n ≤ 7 := by simp [ha7, hb7]
    simp only [List.mem_cons, Prod.mk.injEq, List.not_mem_nil, or_false] at hi
    rcases hi with ⟨rfl, rfl⟩ | ⟨rfl, rfl⟩ | ⟨rfl, rfl⟩ | ⟨rfl, rfl⟩
    · exact runComb_maskComb_result ht hheld ha htaken hreads hwrites hpar h1 h7 hsrcs hlen fun c _ => bitOf_and ..
    · exact runComb_maskComb_result ht hheld ha htaken hreads hwrites hpar h1 h7 hsrcs hlen fun c _ => bitOf_or ..
    · exact runComb_maskComb_result ht hheld ha htaken hreads hwrites hpar h1 h7 hsrcs hlen fun c _ => bitOf_xor ..
    · refine runComb_maskComb_result (srcs := [ma]) (mb := mb) (f := fun a _ => !a) ht hheld ha htaken hreads hwrites hpar h1 h7
        (by simp [ha7]) hlen fun c hc => ?_
      have hall : bitOf (Task.allCells { t with linear := false }) c = true := bitOf_allCells_of_active hc
      rw [bitOf_xor, bitOf_and, hall, Bool.true_and, Bool.true_xor]
      rfl
  · rw [← hcols] at h
    exact ⟨fun x hx => Task.cellBits_writeElems_same hr h0 h hf hn hx ((hset _).2 (List.mem_map_of_mem hx)),
      fun c => Task.cellBits_writeElems_of_not_mem hr h0 h, fun k => Task.col_writeElems_of_outside hr⟩

end Sys2Proof.Machine
end

/-! # Sparse tiles (O27) -/

section
namespace Sys2Proof.Machine

variable {s s₁ s₂ s₃ s₄ s₅ s₆ s₇ : State} {t u w : Task} {i : Instr} {p : Pred} {hd : Handle} {r : Resume} {n sa va h : Nat}

/-! ## Running a word that may be held, and a part of it that may fail -/

theorem runHeld_ok {l : Lanes} {body : Task → M Unit} (ht : s.curTask = some t) (ha : (t.held i).isSome ∨ laneActive l p t = true)
    (hb : body t s = .ok ((), s₁)) : runHeld l p i s body = .next s₁ := by
  simp only [runHeld, ht, Bool.or_eq_true, ha, if_true, hb]

theorem attempt_ok {α : Type} {m : M α} {v : α} (hm : m s = .ok (v, s₁)) : attempt m s = .ok (.ok v, s₁) := by
  simp only [attempt, hm]

theorem check_true {c : Bool} {cause : Nat} {v : Word} (hc : c = true) : check c cause v s = .ok ((), s) := by
  rw [check_eq, hc, if_pos rfl]

theorem regOf_eq {v : VReg} (ht : s.curTask = some t) (hv : t.vreg n = some v) : regOf i n s = .ok (v, s) := by
  unfold regOf
  rw [bind_ok (getT_eq ht), hv]
  rfl

/-- A change of the task's record, after which the word is done, is one change. -/
theorem modT_finishWord (f : Task → Task) (hf : (f u).id = u.id) (hu : s.curTask = some u) :
    (do modT f; finishWord i id) s = .ok ((), s.setTask ((f u).awake.retire i)) := by
  rw [bind_ok (modT_eq f hu), finishWord_eq id (State.curTask_setTask hu hf), State.setTask_setTask _ (by simp)]
  rfl

/-! ## SPST (R378) -/

theorem spstWrite_between (hn : n + 1 < r.lengths.length)
    (hw : writeBytes hd false false .write (hd.addr (r.key.toNat + r.total + (r.lengths.take n).sum))
      ((r.kept.drop (r.lengths.take n).sum).take (r.lengths.getD n 0)) s = .ok ((), s₁)) :
    spstWrite hd r n s = .ok ((), s₁) := by
  unfold spstWrite
  rw [bind_ok hw, if_pos hn]
  rfl

theorem spstWrite_last (hn : r.lengths.length ≤ n + 1)
    (hw : writeBytes hd false false .write (hd.addr (r.key.toNat + r.total + (r.lengths.take n).sum))
      ((r.kept.drop (r.lengths.take n).sum).take (r.lengths.getD n 0)) s = .ok ((), s₁))
    (htable : writeBytes hd false false .write (hd.addr (r.key.toNat + 64)) (recordTable 0 r.lengths) s₁ = .ok ((), s₂))
    (hpre : writeBytes hd false false .write (hd.addr r.key.toNat)
      (preambleBytes { r.cap 0 with spr := 1 } r.total 0 64 r.kept.length) s₂ = .ok ((), s₃)) :
    spstWrite hd r n s = .ok ((), s₃) := by
  unfold spstWrite
  rw [bind_ok hw, if_neg (by omega), bind_ok htable, hpre]

theorem spstStep_between (hw : spstWrite hd r n s = .ok ((), s₁)) (hn : n + 1 < r.lengths.length) (hu : s₁.curTask = some u) :
    spstStep i hd r n s = .ok ((), s₁.setTask { u with vstart := BitVec.ofNat 32 (n + 1), resume := some r }) := by
  unfold spstStep
  rw [bind_ok (attempt_ok hw)]
  simp only [if_pos hn, modT_eq _ hu]

theorem spstStep_last (hw : spstWrite hd r n s = .ok ((), s₁)) (hn : r.lengths.length ≤ n + 1) (hu : s₁.curTask = some u) :
    spstStep i hd r n s = .ok ((), s₁.setTask (({ u with
      ocst := u.ocst + 1, vst := u.vst ++ [hbmPart hd r.kept.length], vstart := 0, resume := none } : Task).awake.retire i)) := by
  unfold spstStep
  rw [bind_ok (attempt_ok hw)]
  simp only [if_neg (Nat.not_lt.2 hn)]
  exact modT_finishWord _ rfl hu

/-- What a fresh SPST captures: the offset and the cap, where the records begin, their lengths and their bytes. -/
def spstCapture (i : Instr) (p : Pred) (t : Task) (o poff : Nat) (cap : BitVec 128) (records : List (List Byte)) : Resume :=
  { capture i p t with
    key := w64 o, total := poff, caps := [cap],
    order := records.length :: records.map List.length ++ records.flatten.map (·.toNat) }

section
variable {o poff : Nat} {cap : BitVec 128} {records : List (List Byte)}

@[simp] theorem spstCapture_lengths : (spstCapture i p t o poff cap records).lengths = records.map List.length := by
  simp [spstCapture, Resume.lengths]

@[simp] theorem spstCapture_kept : (spstCapture i p t o poff cap records).kept = records.flatten := by
  simp [spstCapture, Resume.kept, Nat.add_comm 1, Function.comp_def]

/-- The bytes that are written first are those of the first record. -/
theorem take_flatten_headLength : records.flatten.take ((records.map List.length).getD 0 0) = records.headD [] := by
  cases records <;> simp

theorem headD_eq_flatten (hone : records.length ≤ 1) : records.headD [] = records.flatten := by
  match records, hone with
  | [], _ => rfl
  | [x], _ => simp

theorem spstCapture_key (ho : o < 2 ^ 64) : (spstCapture i p t o poff cap records).key.toNat = o := by
  simpa [spstCapture, w64] using Nat.mod_eq_of_lt ho

theorem spstStep_capture_between (ho : o < 2 ^ 64) (hmore : 1 < records.length)
    (hw : writeBytes hd false false .write (hd.addr (o + poff)) (records.headD []) s = .ok ((), s₁)) (hu : s₁.curTask = some u) :
    spstStep i hd (spstCapture i p t o poff cap records) 0 s =
      .ok ((), s₁.setTask { u with vstart := 1, resume := some (spstCapture i p t o poff cap records) }) := by
  have hn : 0 + 1 < (spstCapture i p t o poff cap records).lengths.length := by simpa using hmore
  refine spstStep_between (spstWrite_between hn ?_) hn hu
  rw [spstCapture_key ho, spstCapture_lengths, spstCapture_kept, List.take_zero, List.sum_nil, List.drop_zero, take_flatten_headLength]
  exact hw

theorem spstStep_capture_last (ho : o < 2 ^ 64) (hone : records.length ≤ 1)
    (hw : writeBytes hd false false .write (hd.addr (o + poff)) records.flatten s = .ok ((), s₁))
    (htable : writeBytes hd false false .write (hd.addr (o + 64)) (recordTable 0 (records.map List.length)) s₁ = .ok ((), s₂))
    (hpre : writeBytes hd false false .write (hd.addr o)
      (preambleBytes { Cap.of cap with spr := 1 } poff 0 64 (records.map List.length).sum) s₂ = .ok ((), s₃))
    (hu : s₃.curTask = some u) :
    spstStep i hd (spstCapture i p t o poff cap records) 0 s = .ok ((), s₃.setTask (({ u with
      ocst := u.ocst + 1, vst := u.vst ++ [hbmPart hd (records.map List.length).sum], vstart := 0, resume := none } : Task).awake.retire i)) := by
  have hn : (spstCapture i p t o poff cap records).lengths.length ≤ 0 + 1 := by simpa using hone
  have hkept : (spstCapture i p t o poff cap records).kept.length = (records.map List.length).sum := by simp
  rw [← hkept]
  refine spstStep_last (spstWrite_last (s₁ := s₁) (s₂ := s₂) hn ?_ ?_ ?_) hn hu
  · rw [spstCapture_key ho, spstCapture_lengths, spstCapture_kept, List.take_zero, List.sum_nil, List.drop_zero,
      take_flatten_headLength, headD_eq_flatten hone]
    exact hw
  · rw [spstCapture_key ho, spstCapture_lengths]
    exact htable
  · rw [spstCapture_key ho, hkept]
    exact hpre
end

/-- SPST, once its checks pass: what is left is its first record. -/
theorem execSpst_fresh {v : VReg} {s₀ : State} {a x : Nat} {l : List (Byte × Bool)} {old : List Byte}
    (ht : s.curTask = some t) (ha : laneActive .cell p t = true) (hv : t.vreg va = some v) (hheld : t.held (.spst p sa va h) = none)
    (hcap : capPasses v.cap = true) (hdisc : v.c.discard = false) (hfmt : v.c.f.isInt = true ∨ v.c.f.isFp = true)
    (hcount : v.c.count ≤ t.vl) (hpoison : (t.tptrap && v.c.poison) = false) (hocst : t.ocst < 65535)
    (hh : useHandle h s = .ok (hd, s₁)) (hacc : checkAccess hd (t.rs sa).toNat 64 .write 64 s₁ = .ok (a, s₂))
    (hread : readBytes hd false false .write a 64 s₂ = .ok (l, s₃)) (hold : freeBytes l s₃ = .ok (old, s₄))
    (hro : (capPasses (MemTile.of hd (t.rs sa).toNat old).bits && (MemTile.of hd (t.rs sa).toNat old).cap.ro) = false)
    {records : List (List Byte)} (hrec : records = (List.range (ceilDiv v.c.count 128)).map
      (sparseRecord v.c v.c.count (t.elem v.base v.c) (bitOf (activeCells p t))))
    {poff : Nat} (hpoff : poff = 64 + 64 * ceilDiv (4 * (ceilDiv v.c.count 128 + 1)) 64)
    (hroom : (records.map List.length).sum ≤ (MemTile.of hd (t.rs sa).toNat old).plen)
    (hacc' : checkAccess hd (t.rs sa).toNat (poff + (records.map List.length).sum) .write 64 s₄ = .ok (x, s₅))
    (hside : sidePort v.readCols (if hd.space = .comblin then combByteCols 0 32 else []) s₅ = .ok ((), s₆))
    (hstep : spstStep (.spst p sa va h) hd (spstCapture (.spst p sa va h) p t (t.rs sa).toNat poff v.cap records) 0 s₆ = .ok ((), s₀)) :
    exec (.spst p sa va h) s = .next s₀ := by
  have hk : records.length = ceilDiv v.c.count 128 := by simp [hrec]
  have hcapture : spstCapture (.spst p sa va h) p t (t.rs sa).toNat poff v.cap records =
      { capture (.spst p sa va h) p t with
        key := w64 (t.rs sa).toNat, total := poff, caps := [v.cap],
        order := ceilDiv v.c.count 128 :: records.map List.length ++ records.flatten.map (·.toNat) } := by
    rw [spstCapture, hk]
  rw [hcapture] at hstep
  subst hrec hpoff
  refine runHeld_ok ht (.inr ha) ?_
  rw [hheld]
  dsimp only
  rw [bind_ok (regOf_eq ht hv), bind_ok (check_true hcap), bind_ok (check_true (by simpa using hdisc)), bind_ok (check_true (by simpa using hfmt)),
    bind_ok (check_true (decide_eq_true hcount)), bind_ok (check_true (by simp [hpoison])), if_neg (Nat.not_le.2 hocst),
    bind_ok hh, bind_ok hacc, bind_ok hread, bind_ok hold, bind_ok (check_true (by simp [hro])),
    bind_ok (check_true (decide_eq_true hroom)), bind_ok hacc', bind_ok hside]
  exact hstep

/-- SPST, held between two records. -/
theorem execSpst_held (ht : s.curTask = some t) (hheld : t.held (.spst p sa va h) = some r) (hh : useHandle h s = .ok (hd, s₁))
    (hside : sidePort [] (if hd.space = .comblin then combByteCols 0 32 else []) s₁ = .ok ((), s₂))
    (hstep : spstStep (.spst p sa va h) hd r t.vstart.toNat s₂ = .ok ((), s₃)) : exec (.spst p sa va h) s = .next s₃ := by
  refine runHeld_ok ht (.inl (by simp [hheld])) ?_
  rw [hheld]
  dsimp only
  rw [bind_ok hh, bind_ok hside, hstep]

/-! ## SPLD (R379) -/

section
variable {α : Type} {g : Task → α} (hcol : ∀ (u : Task) c v, g (u.setCol c v) = g u) (hreg : ∀ (u : Task) n v, g (u.setVreg n v) = g u)
include hreg

theorem Task.clearMark_keeps {m : Option Nat} : g (t.clearMark m) = g t := by
  unfold Task.clearMark
  split
  · split
    · exact hreg ..
    · rfl
  · rfl

theorem Task.writeCap_keeps {c : BitVec 128} : g (t.writeCap n c) = g t := by
  unfold Task.writeCap
  split
  · exact hreg ..
  · rfl

include hcol

/-- A write of elements changes columns and the mark of VDISC, and leaves what sees neither. -/
theorem Task.writeElems_keeps {set : Nat} {f : Fmt} {vals : List (Nat × Nat)} : g (t.writeElems n set f vals) = g t := by
  exact (Task.clearMark_keeps hreg).trans (foldl_keeps (g := g) (fun u j => hcol u _ _) _ t)
end

/-- A loaded register leaves the task's other records as they were. -/
theorem loaded_keeps {α : Type} {g : Task → α} (hcol : ∀ (u : Task) c v, g (u.setCol c v) = g u)
    (hreg : ∀ (u : Task) n v, g (u.setVreg n v) = g u) {c : Cap} {due : Option (Nat × Word)}
    {got : List (Nat × Nat × Option (Nat × Word))} : g (loaded t va c due got) = g t :=
  (Task.writeCap_keeps hreg).trans (Task.writeElems_keeps hcol hreg)

theorem Task.setCol_ocld {c v : Nat} : (t.setCol c v).ocld = t.ocld := by unfold Task.setCol; split <;> rfl
theorem Task.setCol_vld {c v : Nat} : (t.setCol c v).vld = t.vld := by unfold Task.setCol; split <;> rfl

/-- The elements of an SPLD, all of them loaded. -/
theorem spldElems_ok {m : MemTile} {md : TileMeta} {got : List (Nat × Nat × Option (Nat × Word))} (hu : s.curTask = some u)
    (hgot : untilFails (fun e => spldElem m md (r.flat u e)) (r.tileCells u m.cap.count 0) s = .ok ((got, none), s₁))
    (hw : s₁.curTask = some w) : spldElems i va r m md 0 s = .ok ((), s₁.setTask ((inFlight
      (loaded w va { m.cap with spr := 0 } r.due got)
      ⟨firstDue r.due (got.findSome? fun x => x.2.2), hbmPart m.h (packedSize m.cap.f (r.tileCells u m.cap.count 0).length)⟩).awake.retire i)) := by
  unfold spldElems
  rw [bind_ok (getT_eq hu), bind_ok hgot]
  have hocld : (loaded w va { m.cap with spr := 0 } r.due got).ocld = w.ocld :=
    loaded_keeps (g := Task.ocld) (fun _ _ _ => Task.setCol_ocld) fun _ _ _ => rfl
  have hvld : (loaded w va { m.cap with spr := 0 } r.due got).vld = w.vld :=
    loaded_keeps (g := Task.vld) (fun _ _ _ => Task.setCol_vld) fun _ _ _ => rfl
  have hid : (loaded w va { m.cap with spr := 0 } r.due got).id = w.id :=
    loaded_keeps (g := Task.id) (fun _ _ _ => Task.setCol_id) fun _ _ _ => rfl
  dsimp only
  rw [modT_finishWord _ hid hw, inFlight, hocld, hvld]
  rfl

/-- SPLD, once its checks pass: what is left is its elements. -/
theorem execSpld_fresh {v : VReg} {m : MemTile} {b : List Byte} {a : Nat} {due due' : Option (Nat × Word)} {md : TileMeta}
    (ht : s.curTask = some t) (ha : laneActive .cell p t = true) (hv : t.vreg va = some v) (hheld : t.held (.spld p sa va h) = none)
    (hocld : t.ocld < 65535) (hh : useHandle h s = .ok (hd, s₁)) (hpre : readPreamble hd (t.rs sa).toNat s₁ = .ok ((m, b, a, due), s₂))
    (hhead : m.headOk b = true) (hscl : m.cap.scl = 0) (hspr : m.cap.spr = 1) (hwidth : m.cap.f.width ≤ v.width) (hro : v.c.ro = false)
    (hpoison : (t.tptrap && m.cap.poison) = false) (hmeta : readMeta m a s₂ = .ok ((md, due'), s₃))
    (hside : sidePort [] (t.regCols va) s₃ = .ok ((), s₄))
    (hload : spldElems (.spld p sa va h) va { capture (.spld p sa va h) p t with
      key := w64 (t.rs sa).toNat, total := m.poff, caps := [m.cap.bits], due := firstDue due due'
      order := md.maps.length :: md.maps ++ md.bytes.map (·.toNat) } m md 0 s₄ = .ok ((), s₅)) :
    exec (.spld p sa va h) s = .next s₅ := by
  refine runHeld_ok ht (.inr ha) ?_
  rw [hheld]
  dsimp only
  rw [bind_ok (regOf_eq ht hv), if_neg (Nat.not_le.2 hocld), bind_ok hh, bind_ok hpre]
  dsimp only
  rw [bind_ok (check_true hhead), bind_ok (check_true (by simp [hscl, hspr])), bind_ok (check_true (decide_eq_true hwidth)),
    bind_ok (check_true (by simp [hro])), bind_ok (check_true (by simp [hpoison])), bind_ok hmeta, bind_ok hside]
  exact hload

/-- Settles O27: a fresh SPST by its first record, a held one by the record at vstart, and SPLD by its elements. -/
theorem sparseTransfersComplete : Obligations.SparseTransfersComplete := by
  intro p sa r h s t ht ha v hv o
  refine ⟨⟨?_, ?_⟩, ?_⟩
  · intro hheld hcap hdisc hfmt hcount hpoison hocst hd s₁ hh a s₂ hacc l s₃ hread old s₄ hold hro k records poff plen hroom x s₅ hacc'
      s₆ hside
    have ho : o < 2 ^ 64 := (t.rs sa).isLt
    have hlen : records.length = k := by simp [records]
    have hfresh {s₀} := execSpst_fresh (s₀ := s₀) ht ha hv hheld hcap hdisc hfmt hcount hpoison hocst hh hacc hread hold hro rfl rfl hroom
      hacc' hside
    refine ⟨fun hk s₇ hw s₈ htable s₉ hpre u hu => ?_, fun hk s₇ hw u hu => ?_⟩
    · exact hfresh (spstStep_capture_last ho (hlen ▸ hk) hw htable hpre hu)
    · have hexec := hfresh (spstStep_capture_between ho (hlen ▸ hk) hw hu)
      rw [spstCapture, hlen] at hexec
      exact hexec
  · intro r hheld hd s₁ hh s₂ hside n s₃ hw u hu
    exact ⟨fun hn => execSpst_held ht hheld hh hside (spstStep_between hw hn hu),
      fun hn => execSpst_held ht hheld hh hside (spstStep_last hw hn hu)⟩
  · intro i hheld hocld hd s₁ hh m b a due s₂ hpre hhead hscl hspr hwidth hro hpoison md due' s₃ hmeta s₄ hside u hu cells got s₅ hgot w hw d x
    exact execSpld_fresh ht ha hv hheld hocld hh hpre hhead hscl hspr hwidth hro hpoison hmeta hside (spldElems_ok hu hgot hw)

end Sys2Proof.Machine
end

/-! # What comb arithmetic leaves in the cells (O60) -/

section
namespace Sys2Proof.Machine

/-- The issue of a comb instruction answers, on combs and columns that are free, and no group that it reads fails parity. -/
def Comb.issues (c : Comb) (s : State) (t : Task) : Bool :=
  match c.prep t s with
  | .ok (r, s₁) => !s₁.columnsBusy t ((c.reads r t).map (·.1)) (c.writes t) && (c.parityError r 0 { t with linear := false }).isNone
  | .error _ => false

theorem State.runsComb_of_issues {s : State} {t : Task} {p : Pred} {i : Instr} {c : Comb} (hc : combOf i = some (p, c))
    (ht : s.curTask = some t) (ha : laneActive .cell p t = true) (htaken : t.combsTaken = false) (hheld : t.held i = none)
    (hcols : t.cols.length = 256) (hi : c.issues s t = true) : s.runsComb t p i := by
  unfold Comb.issues at hi
  split at hi
  · rename_i r s₁ hprep
    rw [Bool.and_eq_true, Bool.not_eq_true', Option.isNone_iff_eq_none] at hi
    exact ⟨c, r, s₁, hc, ht, ha, htaken, hheld, hcols, hprep, hi.1, hi.2⟩
  · cases hi

/-- Register v1 of the counterexample: UINT1 in column 8. -/
def oneBit : VReg := ⟨8, 1, { Cap.blank with fmt := (Fmt.uint 1).code }.bits, false⟩

/-- A placed task of one element with that register alone. Its list of tags is empty, so that no tag holds g0. -/
def untagged : Task := { placedTask with avl := 1, tags := [], regs := (Vector.replicate 32 none).set 1 (some oneBit) }

/-- The machine with that task, which is the current one. -/
def untaggedState : State := { State.reset with tasks := [untagged], cur := some 0 }

/-- VSUB v1, v1, v1. -/
def subSelf : Instr := .vsub ⟨false, 0⟩ .rne .plain 1 1 (.vec 1) none

theorem untagged_vreg_one : untagged.vreg 1 = some oneBit := rfl

theorem untagged_vreg_eq_some {k : Nat} {r : VReg} (h : untagged.vreg k = some r) : k = 1 ∧ r = oneBit := by
  have hk : k < 32 := by
    refine Decidable.byContradiction fun hk => ?_
    have hnone : untagged.vreg k = none := dif_neg (by rwa [Vector.size_toArray])
    cases hnone.symm.trans h
  have hall : ∀ k : Fin 32, untagged.vreg k = if k = 1 then some oneBit else none := by decide +kernel
  have hone := hall ⟨k, hk⟩
  rw [h] at hone
  split at hone
  · rename_i h1
    exact ⟨congrArg Fin.val h1, Option.some.inj hone⟩
  · cases hone

theorem oneBit_format : oneBit.c.f = .uint 1 := by decide +kernel

theorem untagged_runsComb : untaggedState.runsComb untagged ⟨false, 0⟩ subSelf :=
  State.runsComb_of_issues rfl rfl (by decide +kernel) (by decide +kernel) (by decide +kernel) (by decide +kernel) (by decide +kernel)

theorem untagged_apart : untagged.apart 1 oneBit := by
  intro k r hr
  obtain ⟨rfl, rfl⟩ := untagged_vreg_eq_some hr
  exact ⟨by rw [oneBit_format]; decide, .inl rfl⟩

/-- With no tag to carry the one that completes the complement, 0 - 0 leaves 1. -/
theorem exec_subSelf : (match exec subSelf untaggedState with
    | .next s' => s'.curTask.map fun u => u.cellBits 8 0 1
    | _ => none) = some 1 := by decide +kernel

/-- Refutes O60: the statement asks nothing of the task's list of tags (a task whose combs are cleared has four). Where it is empty the
passes of R286 have no g0 for carries, and VSUB of a register from itself leaves 1. -/
theorem not_combResultValues : ¬ Obligations.CombResultValues := by
  rintro ⟨⟨harith, -⟩, -⟩
  obtain ⟨s', u, w, hexec, hu, -, -, hplain, -, hcells⟩ := harith ⟨false, 0⟩ .rne .plain false 1 1 (.vec 1) subSelf .plain (· + 1)
    (fun x y => x - y) (.tail _ (.head _)) untaggedState untagged oneBit oneBit (.uint 1) (untagged.elem 8 oneBit.c) untagged_runsComb
    ⟨untagged_vreg_one, by decide, by decide⟩ untagged_apart untagged_vreg_one
    ⟨oneBit, untagged_vreg_one, oneBit_format.symm, fun _ => rfl⟩
  have hw : w.c.f = .uint 1 := (hplain (by decide) oneBit_format.symm).trans oneBit_format
  have hzero : u.cellBits 8 0 1 = 0 := by
    have hdiff := (hcells 0 (by decide +kernel)).1 (by rw [oneBit_format]; rfl) rfl
    rw [hw, oneBit_format] at hdiff
    exact hdiff.trans (congrArg (Fmt.holding (.uint 1) false) (Int.sub_self _))
  have hone := exec_subSelf
  rw [hexec] at hone
  change s'.curTask.map (fun u => u.cellBits 8 0 1) = some 1 at hone
  rw [hu, Option.map_some, hzero] at hone
  exact absurd hone (by decide)

end Sys2Proof.Machine
end

/-! # What a trap does to the machine: TRAP, TRET and the entry of a trap (O4) -/

section
namespace Sys2Proof.Machine

variable {s : State} {t : Task} {i : Instr} {p : Pred} {q : Partition} {cause vf : Nat} {tval v : Word} {ret : BitVec 56}

/-! ## Words that trap -/

/-- A trap other than that of TRAP returns to the instruction that met it (R202). -/
theorem State.deliver_trap (hc : cause ≠ cSWTRAP) : s.deliver t i (.trap cause v) = s.takeTrap t cause v t.pc := by
  simp only [State.deliver, if_neg hc]

/-- The trap of TRAP returns after it (R250). -/
theorem State.deliver_swtrap :
    s.deliver t i (.trap cSWTRAP v) = s.takeTrap t cSWTRAP v (t.pc + BitVec.ofNat 56 (ilen i)) := by
  simp only [State.deliver, if_true]

theorem runWord_trap {l : Lanes} {body : Task → M Unit} (ht : s.curTask = some t) (ha : laneActive l p t = true)
    (hc : cause ≠ cSWTRAP) (hb : body t s = .error (.trap cause v)) : runWord l p i s body = .next (s.takeTrap t cause v t.pc) := by
  rw [runWord_error ht ha hb, State.deliver_trap hc]

theorem check_false {c : Bool} (hc : c = false) : check c cause v s = .error (.trap cause v) := by
  rw [check_eq, hc, if_neg Bool.false_ne_true]

theorem exec_trap {imm : Imm 16} (hr : s.runsQ p t) : exec (.trap p imm) s =
    .next (s.takeTrap t cSWTRAP (immValU imm) (t.pc + BitVec.ofNat 56 (ilen (.trap p imm)))) := by
  obtain ⟨ht, ha⟩ := hr
  rw [← State.deliver_swtrap]
  exact runFlow_error (l := .q) (body := fun _ => trap cSWTRAP (immValU imm)) ht ha (trap_eq ..)

theorem exec_tret_outside (hr : s.runsQ p t) (hin : t.tin = false) :
    exec (.tret p) s = .next (s.takeTrap t cILLFN (iword (.tret p)) t.pc) := by
  obtain ⟨ht, ha⟩ := hr
  rw [← State.deliver_trap (i := .tret p) (by decide)]
  exact runFlow_error (l := .q) (p := p) ht ha (bind_error (check_false hin))

theorem exec_tret_inside (hr : s.runsQ p t) (hin : t.tin = true) (hal : t.tepc.toNat % 8 = 0) :
    exec (.tret p) s = .next (s.setTask t.trapReturn.awake) := by
  obtain ⟨ht, ha⟩ := hr
  refine runFlow_ok (l := .q) ht ha ?_
  rw [bind_ok (check_true hin), bind_ok (check_true (beq_iff_eq.2 hal)), setT_eq]

/-! ## A cause of the task's own -/

/-- A cause below class 7 leaves the error log alone (R198). -/
theorem State.takeTrap_of_lt (h : cause < 0x380) : s.takeTrap t cause tval ret = s.enterTrap t cause tval ret :=
  congrArg (·.enterTrap t cause tval ret) (if_neg (Nat.not_le.2 h) : s.logDues [(cause, tval)] = s)

theorem State.mem_setTask_of_ne {u w : Task} (hw : w ∈ s.tasks) (h : w.id ≠ u.id) : w ∈ (s.setTask u).tasks :=
  List.mem_map.2 ⟨w, hw, if_neg (by simpa using h)⟩

/-- A task that enters its handler (R202). -/
def Task.handling (t : Task) (cause : Nat) (tval : Word) (ret : BitVec 56) : Task :=
  { t with tepc := ret, tcauseVs := t.resume.isSome, tcauseCode := BitVec.ofNat 10 cause, tval := tval, tin := true,
           pc := (t.tvec ++ (0 : BitVec 3) : BitVec 56), wait := none, stallSince := none }

theorem State.enterTrap_handled (hin : t.tin = false) (hvec : t.tvec ≠ 0) :
    s.enterTrap t cause tval ret = s.setTask (t.handling cause tval ret) :=
  if_neg (by simpa [hin] using hvec)

theorem handler_address (x : BitVec 53) : (x ++ (0 : BitVec 3) : BitVec 56) = x.setWidth 56 <<< 3 := by
  apply BitVec.eq_of_getLsbD_eq
  intro k hk
  rw [BitVec.getLsbD_append]
  simp [hk]

/-! ## A task that a trap ends (R204) -/

/-- A task that a trap ends, while its jobs run. -/
def Task.dying (t : Task) (cause : Nat) (tval : Word) : Task :=
  { t with wait := some (.ending cause t.tin false tval), stop := none }

/-- A task that a trap ends, once its jobs are done and while its notices are written: it holds no matrix rows. -/
def Task.parting (t : Task) : Task :=
  { t with wait := some .leaving, stop := none, mx := { t.mx with res := false, rows := [], prows := [], tiles := [], ptiles := [] } }

theorem State.enterTrap_unhandled (h : t.tin = true ∨ t.tvec = 0) :
    s.enterTrap t cause tval ret = (s.setTask (t.dying cause tval)).finishEnding (t.dying cause tval) :=
  if_pos (by simpa using h)

theorem State.finishEnding_busy (h : t.quiet = false) : s.finishEnding (t.dying cause tval) = s :=
  if_pos (by rw [show (t.dying cause tval).quiet = t.quiet from rfl, h]; rfl)

theorem State.finishEnding_quiet (h : t.quiet = true) : (s.setTask (t.dying cause tval)).finishEnding (t.dying cause tval) =
    ((t.endNotices cause t.tin tval).foldl (fun s n => s.raiseNotice t.vf n) (s.setTask t.parting)).leave t.parting := by
  rw [← State.setTask_setTask s (show (t.dying cause tval).id = t.parting.id from rfl)]
  refine (if_neg ?_).trans (if_neg Bool.false_ne_true)
  rw [show (t.dying cause tval).quiet = t.quiet from rfl, h]
  decide

/-! ## Notices that are raised -/

theorem State.part?_vf (h : s.part? vf = some q) : q.vf = vf := by simpa using List.find?_some h

theorem State.part?_raiseNotice {n : Notice} (h : s.part? vf = some q) :
    (s.raiseNotice vf n).part? vf = some { q with notices := q.notices ++ [n] } := by
  obtain rfl := State.part?_vf h
  simp only [State.raiseNotice, h]
  exact State.part?_setPart (q := { q with notices := q.notices ++ [n] }) h

theorem State.curTask_raiseNotice {n : Notice} : (s.raiseNotice vf n).curTask = s.curTask := by
  unfold State.raiseNotice
  split <;> rfl

theorem State.part?_foldl_raiseNotice {l : List Notice} (h : s.part? vf = some q) :
    (l.foldl (fun s n => s.raiseNotice vf n) s).part? vf = some { q with notices := q.notices ++ l } := by
  induction l generalizing s q with
  | nil => simpa using h
  | cons n l ih => simpa using ih (State.part?_raiseNotice (n := n) h)

/-- A task that one of its notices holds does not leave. -/
theorem State.leave_of_notice {n : Notice} (h : s.part? t.vf = some q) (hn : n ∈ q.notices) (ht : n.task = some t.id) :
    s.leave t = s := by
  have hleft : s.noticesLeft t = true := by
    simp only [State.noticesLeft, h]
    exact List.any_eq_true.2 ⟨n, hn, by simp [ht]⟩
  exact if_neg (by simp [hleft])

/-- The notice of one of the causes that a task ends with. -/
def Task.endNotice (t : Task) (double : Bool) (d : Nat × Word) : Notice :=
  { t.notice d.1 0xFFFFFFFF d.2 with unhandled := true, double := double, task := some t.id }

theorem Task.endNotices_eq {double : Bool} : t.endNotices cause double tval =
    t.endNotice double (cause, tval) :: (t.dues.filter (·.1 == cFOOT)).map (t.endNotice double) := rfl

theorem Task.endNotice_causes {double : Bool} (l : List (Nat × Word)) :
    (l.map (t.endNotice double)).map (fun x => (x.cause, x.ntval)) = l := by
  rw [List.map_map]
  exact List.map_id l

/-- A quiet task that a trap ends stands with its notices raised. -/
theorem State.takeTrap_quiet (ht : s.curTask = some t) (h : t.tin = true ∨ t.tvec = 0) (hc : cause < 0x380)
    (hq : s.part? t.vf = some q) (hquiet : t.quiet = true) :
    (s.takeTrap t cause tval ret).curTask = some t.parting ∧
    (s.takeTrap t cause tval ret).part? t.vf = some { q with notices := q.notices ++ t.endNotices cause t.tin tval } := by
  have hpart := State.part?_foldl_raiseNotice (l := t.endNotices cause t.tin tval)
    ((State.part?_setTask s t.parting t.vf).trans hq)
  have hin : t.endNotice t.tin (cause, tval) ∈ q.notices ++ t.endNotices cause t.tin tval := by simp [Task.endNotices_eq]
  rw [State.takeTrap_of_lt hc, State.enterTrap_unhandled h, State.finishEnding_quiet hquiet,
    State.leave_of_notice (t := t.parting) hpart hin rfl]
  refine ⟨?_, hpart⟩
  rw [foldl_keeps (g := State.curTask) fun _ _ => State.curTask_raiseNotice]
  exact State.curTask_setTask ht rfl

theorem State.takeTrap_busy (h : t.tin = true ∨ t.tvec = 0) (hc : cause < 0x380) (hbusy : t.quiet = false) :
    s.takeTrap t cause tval ret = s.setTask (t.dying cause tval) := by
  rw [State.takeTrap_of_lt hc, State.enterTrap_unhandled h, State.finishEnding_busy hbusy]

/-- Settles O4: the two instructions, the entry of a handler, and the end of a task that is busy or quiet. -/
theorem trapsAndReturnComplete : Obligations.TrapsAndReturnComplete := by
  refine ⟨fun p imm s t hr => ⟨exec_trap hr, exec_tret_outside hr, exec_tret_inside hr⟩,
    fun s t cause tval ret ht hin hvec hc => ?_, fun s t cause tval ret q ht h hc hq => ⟨fun hbusy => ?_, fun hquiet => ?_⟩⟩
  · rw [State.takeTrap_of_lt hc, State.enterTrap_handled hin hvec]
    have hcode : (BitVec.ofNat 10 cause).toNat = cause := by rw [BitVec.toNat_ofNat]; omega
    exact ⟨_, State.curTask_setTask ht rfl, rfl, hcode, rfl, rfl, rfl, handler_address t.tvec, rfl, rfl, rfl, rfl, rfl, rfl, rfl, rfl,
      rfl, rfl, rfl, rfl, fun w hw hne => State.mem_setTask_of_ne hw hne⟩
  · rw [State.takeTrap_busy h hc hbusy]
    exact ⟨State.curTask_setTask ht rfl, hq⟩
  · obtain ⟨hcur, hpart⟩ := State.takeTrap_quiet (tval := tval) (ret := ret) ht h hc hq hquiet
    refine ⟨hcur, _, _, _, hpart, congrArg (q.notices ++ ·) Task.endNotices_eq, rfl, rfl, Task.endNotice_causes _, fun x hx => ?_⟩
    obtain ⟨d, -, rfl⟩ := List.mem_map.1 (show x ∈ t.endNotices cause t.tin tval from hx)
    exact ⟨rfl, rfl, rfl, rfl, rfl⟩

end Sys2Proof.Machine
end

/-! # GETC and SETC (O11) -/

section
namespace Sys2Proof.Machine

variable {s : State} {t : Task} {q : Partition} {p : Pred} {i : Instr} {k n : Nat} {v cycle : Word} {creg : BitVec 12} {o : Option Word}

/-! ## The registers that there are (R226) -/

/-- The numbers of the task registers. -/
def taskRegisters : List Nat :=
  [0x000, 0x010, 0x011, 0x012, 0x013, 0x014, 0x019, 0x01A, 0x020, 0x021, 0x022, 0x023, 0x030, 0x031, 0x032, 0x033, 0x034,
   0x040, 0x041, 0x042, 0x043, 0x048, 0x049, 0x04A, 0x04B, 0x050, 0x051, 0x058, 0x060, 0x070, 0x071, 0x072, 0x073]

theorem Task.readReg_eq_none (h : k ∉ taskRegisters) : t.readReg cycle k = none := by
  simp only [taskRegisters, List.mem_cons, List.not_mem_nil, or_false, not_or] at h
  unfold Task.readReg
  split
  case h_34 => rfl
  all_goals omega

/-- The numbers of the supervisor registers: those that stand alone, and the five of each launch queue (R174). -/
def partRegisters : List Nat :=
  [0x800, 0x801, 0x802, 0x803, 0x808, 0x809, 0x80A, 0x80C, 0x80D, 0x80E, 0x810, 0x811, 0x812] ++ (List.range 0x50).map (0x840 + ·)

theorem State.readPart_eq_none (h : k ∉ partRegisters) : s.readPart q k = none := by
  simp only [partRegisters, List.mem_append, List.mem_cons, List.not_mem_nil, or_false, not_or, List.mem_map, List.mem_range,
    not_exists, not_and] at h
  obtain ⟨hfixed, hqueue⟩ := h
  have hout {a b : Nat} (ha : 0x840 ≤ a) (hb : b < 0x840 + 0x50) : ¬(a ≤ k ∧ k ≤ b) := fun hk =>
    hqueue (k - 0x840) (by clear hfixed; omega) (by clear hfixed; omega)
  unfold State.readPart
  split
  case h_14 =>
    dsimp only
    iterate 5 rw [if_neg (hout (by decide) (by decide))]
  all_goals simp at hfixed

/-- A number in one of some ranges is in no list that these ranges leave out. -/
theorem not_mem_of_ranges {l : List Nat} {ranges : List (Nat × Nat)} {r : Nat × Nat}
    (h : ∀ r ∈ ranges, ∀ x ∈ l, ¬(r.1 ≤ x ∧ x ≤ r.2)) (hr : r ∈ ranges) (ha : r.1 ≤ k) (hb : k ≤ r.2) : k ∉ l :=
  fun hk => h r hr k hk ⟨ha, hb⟩

/-! ## What a register reads as for a task that may name it (R181, R264) -/

/-- A control register that the task may name, and what it reads as: nothing where its number is unassigned. -/
def State.register (s : State) (t : Task) (k : Nat) (o : Option Word) : Prop :=
  (k < 0x800 ∧ t.readReg s.cycle k = o) ∨ (0x800 ≤ k ∧ t.sup = true ∧ ∃ q, s.part? t.vf = some q ∧ s.readPart q k = o)

theorem State.register.allowed (h : s.register t k o) : (decide (k < 0x800) || t.sup) = true := by
  rcases h with ⟨hk, -⟩ | ⟨-, hs, -⟩
  · simp [hk]
  · simp [hs]

/-- The reading of a register within an instruction, and what follows it. -/
theorem State.register.read_bind {f : Option Word → M Unit} (ht : s.curTask = some t) (h : s.register t k o) :
    (if k < 0x800 then do
      let v ← pure (t.readReg s.cycle k)
      f v
    else do
      let pt ← getP
      let v ← pure (s.readPart pt k)
      f v) s = f o s := by
  rw [ite_eq]
  rcases h with ⟨hk, rfl⟩ | ⟨hk, -, q, hq, rfl⟩
  · rw [if_pos hk, bind_ok (pure_eq ..)]
  · rw [if_neg (Nat.not_lt.2 hk), bind_ok (getP_eq ht hq), bind_ok (pure_eq ..)]

/-! ## GETC -/

theorem exec_getc_assigned (hr : s.runsQ p t) (h : s.register t creg.toNat (some v)) :
    exec (.getc p n creg) s = .next ((s.setTask (t.ws n v)).andRetire (.getc p n creg) t.id) := by
  obtain ⟨ht, ha⟩ := hr
  refine runWord_ok (l := .q) ht ha ?_
  rw [bind_ok (check_true h.allowed), h.read_bind ht]
  exact modT_eq _ ht

theorem exec_getc_unassigned (hr : s.runsQ p t) (h : s.register t creg.toNat none) :
    exec (.getc p n creg) s = .next (s.takeTrap t cILLFN (iword (.getc p n creg)) t.pc) := by
  obtain ⟨ht, ha⟩ := hr
  refine runWord_trap (l := .q) ht ha (by decide) ?_
  rw [bind_ok (check_true h.allowed), h.read_bind ht]
  rfl

/-! ## SETC -/

theorem exec_setc_task (hr : s.runsQ p t) (hk : creg.toNat < 0x800) (h : t.readReg s.cycle creg.toNat = some v) :
    exec (.setc p creg n) s = .next ((s.setTask (t.writeReg creg.toNat (t.rs n))).andRetire (.setc p creg n) t.id) := by
  obtain ⟨ht, ha⟩ := hr
  refine runWord_ok (l := .q) ht ha ?_
  rw [bind_ok (check_true (by simp [hk])), if_pos hk, bind_ok (check_true (by simp [h])), setT_eq]

theorem exec_setc_part (hr : s.runsQ p t) (hk : 0x800 ≤ creg.toNat) (hs : t.sup = true) (hq : s.part? t.vf = some q)
    (h : s.readPart q creg.toNat = some v) :
    exec (.setc p creg n) s = .next ((s.setPart (q.writeReg creg.toNat (t.rs n))).andRetire (.setc p creg n) t.id) := by
  obtain ⟨ht, ha⟩ := hr
  refine runWord_ok (l := .q) ht ha ?_
  rw [bind_ok (check_true (by simp [hs])), if_neg (Nat.not_lt.2 hk), bind_ok (getP_eq ht hq), bind_ok (check_true (by simp [h])), modS_eq]

theorem exec_setc_unassigned (hr : s.runsQ p t) (h : s.register t creg.toNat none) :
    exec (.setc p creg n) s = .next (s.takeTrap t cILLFN (iword (.setc p creg n)) t.pc) := by
  obtain ⟨ht, ha⟩ := hr
  refine runWord_trap (l := .q) ht ha (by decide) ?_
  rw [bind_ok (check_true h.allowed)]
  rcases h with ⟨hk, h⟩ | ⟨hk, -, q, hq, h⟩
  · rw [if_pos hk, bind_error (check_false (by simp [h]))]
  · rw [if_neg (Nat.not_lt.2 hk), bind_ok (getP_eq ht hq), bind_error (check_false (by simp [h]))]

theorem exec_register_unassigned (hr : s.runsQ p t) (h : s.register t creg.toNat none)
    (hi : i ∈ ([.getc p n creg, .setc p creg n] : List Instr)) : exec i s = .next (s.takeTrap t cILLFN (iword i) t.pc) := by
  simp only [List.mem_cons, List.not_mem_nil, or_false] at hi
  rcases hi with rfl | rfl
  · exact exec_getc_unassigned hr h
  · exact exec_setc_unassigned hr h

/-! ## Writes of the task's own record (R187, R264) -/

theorem runTask_active (f : Task → Task) (hr : s.runsQ p t) : runTask .q p i s f = .next (s.setTask ((f t).retire i)) := by
  obtain ⟨ht, ha⟩ := hr
  rw [runTask_eq f ht, if_pos (show laneActive .q p t = true from ha)]

theorem exec_vstartWrite (hr : s.runsQ p t) : exec (.vstartWrite p n) s =
    .next (s.setTask ((if t.rs n = 0 then { t with vstart := 0, resume := none } else t).retire (.vstartWrite p n))) :=
  runTask_active _ hr

theorem exec_avlWrite (hr : s.runsQ p t) : exec (.avlStripWrite p false n) s =
    .next (s.setTask ({ t with vstart := 0, resume := none, avl := (t.rs n).setWidth 40 }.retire (.avlStripWrite p false n))) :=
  runTask_active _ hr

theorem exec_stripWrite (hr : s.runsQ p t) : exec (.avlStripWrite p true n) s =
    .next (s.setTask ({ t with vstart := 0, resume := none, strip := (t.rs n).setWidth 24 }.retire (.avlStripWrite p true n))) :=
  runTask_active _ hr

/-! ## User mode (R181, R313) -/

/-- A word whose first check fails raises that check's cause. -/
theorem runWord_check {l : Lanes} {c : Task → Bool} {cause : Nat} {rest : Task → M Unit} (ht : s.curTask = some t)
    (ha : laneActive l p t = true) (hc : cause ≠ cSWTRAP) (hfail : c t = false) :
    runWord l p i s (fun t => do check (c t) cause v; rest t) = .next (s.takeTrap t cause v t.pc) :=
  runWord_trap ht ha hc (bind_error (check_false hfail))

theorem exec_register_user (hr : s.runsQ p t) (hs : t.sup = false) (hk : 0x800 ≤ creg.toNat)
    (hi : i ∈ ([.getc p n creg, .setc p creg n] : List Instr)) : exec i s = .next (s.takeTrap t cPRIV (iword i) t.pc) := by
  obtain ⟨ht, ha⟩ := hr
  simp only [List.mem_cons, List.not_mem_nil, or_false] at hi
  have hfail : (decide (creg.toNat < 0x800) || t.sup) = false := by simp [hs, hk]
  rcases hi with rfl | rfl <;> exact runWord_check (l := .q) ht ha (by decide) hfail

theorem regWrite_user {f : Partition → Word → State → State} (hr : s.runsQ p t) (hs : t.sup = false) :
    regWrite (.setc p n) i s f = .next (s.takeTrap t cPRIV (iword i) t.pc) := by
  obtain ⟨ht, ha⟩ := hr
  exact runWord_check (l := .q) ht ha (by decide) hs

theorem exec_supervisorWrite_user {base : Bool} (hr : s.runsQ p t) (hs : t.sup = false)
    (hi : i ∈ ([.hbaseWrite (.setc p n), .tlbinv (.setc p n), .lseedWrite (.setc p n), .swapSlotWrite base (.setc p n),
      .pfdone (.setc p n), .lqctlWrite k (.setc p n), .lqprodDoorbell k (.setc p n)] : List Instr)) :
    exec i s = .next (s.takeTrap t cPRIV (iword i) t.pc) := by
  simp only [List.mem_cons, List.not_mem_nil, or_false] at hi
  rcases hi with rfl | rfl | rfl | rfl | rfl | rfl | rfl <;> exact regWrite_user hr hs

theorem exec_ptload_user {h : Nat} (ht : s.curTask = some t) (hs : t.sup = false) (hp : p.pn = false) :
    exec (.ptload p h n) s = .next (s.takeTrap t cPRIV (iword (.ptload p h n)) t.pc) :=
  runWord_check (l := .whole) ht (by simp [laneActive, hp]) (by decide) hs

/-- Settles O11, register by register, and in user mode by the check that comes first. -/
theorem controlRegistersComplete : Obligations.ControlRegistersComplete := by
  refine ⟨fun p n creg s t hr => ⟨fun v hk h => ⟨exec_getc_assigned hr (.inl ⟨hk, h⟩), exec_setc_task hr hk h⟩,
      fun q v hk hs hq h => ⟨exec_getc_assigned hr (.inr ⟨hk, hs, q, hq, h⟩), exec_setc_part hr hk hs hq h⟩,
      ⟨fun q hk hs hq h i hi => exec_register_unassigned hr (.inr ⟨hk, hs, q, hq, h⟩) hi,
        fun hk h i hi => exec_register_unassigned hr (.inl ⟨hk, h⟩) hi, fun r hrange ha hb => ?_, fun q r hrange ha hb => ?_⟩,
      fun h0 => ?_, fun h0 => ?_, exec_avlWrite hr, exec_stripWrite hr⟩,
    fun p n creg k base h s t hr hs => ⟨fun hk i hi => exec_register_user hr hs hk hi, fun i hi => exec_supervisorWrite_user hr hs hi,
      fun x hx => exec_ptload_user hr.1 hs hx⟩⟩
  · exact Task.readReg_eq_none (not_mem_of_ranges (by decide) hrange ha hb)
  · exact State.readPart_eq_none (not_mem_of_ranges (by decide) hrange ha hb)
  · rw [exec_vstartWrite hr, if_pos h0]
  · rw [exec_vstartWrite hr, if_neg h0]

end Sys2Proof.Machine
end

/-! # Notices and faults of the fetch (O39) -/

section
namespace Sys2Proof.Machine

variable {s s₁ : State} {t u : Task} {q : Partition} {x : Notice} {rest : List Notice} {i : Instr} {vf k sd a : Nat} {index : Word}

/-! ## The bytes of a notice (R197) -/

@[simp] theorem leBytes_length (n v : Nat) : (leBytes n v).length = n := by
  induction n generalizing v with
  | zero => rfl
  | succ n ih => simp [leBytes, ih]

theorem Notice.bytes_length (x : Notice) : x.bytes.length = 32 := by simp [Notice.bytes]

/-! ## What waits for a notice (R204, R265) -/

theorem State.endSvc_of_none (h : x.task = none ∨ x.svc = false) : s.endSvc x index = s := by
  unfold State.endSvc
  rcases h with h | h <;> simp [h]

/-- The SVC of a notice goes on (R265). -/
theorem State.endSvc_of_notice (hsvc : x.svc = true) (hx : x.task = some k) (ht : s.task? k = some t)
    (hw : t.wait = some (.notice i sd)) : s.endSvc x index = s.setTask ((t.awake.ws sd index).retire i) := by
  simp only [State.endSvc, hsvc, if_true, hx, Option.bind_some, ht, hw]

theorem State.endLeaving_of_task (hx : x.task = some k) (ht : s.task? k = some t) : s.endLeaving x = s.leave t := by
  simp only [State.endLeaving, hx, Option.bind_some, ht]

theorem State.leave_of_wait (h : t.wait ≠ some .leaving) : s.leave t = s :=
  if_neg (by simp [h])

theorem State.endLeaving_of_wait (h : ∀ u, x.task.bind s.task? = some u → u.wait ≠ some .leaving) : s.endLeaving x = s := by
  unfold State.endLeaving
  split
  · rename_i u hu
    exact State.leave_of_wait (h u hu)
  · rfl

/-- A task whose last notice is dealt with ends (R204). -/
theorem State.leave_of_no_notice (hw : t.wait = some .leaving) (hq : s.part? t.vf = some q) (h : ∀ x ∈ q.notices, x.task ≠ some t.id) :
    s.leave t = s.endTask t := by
  have hnone : s.noticesLeft t = false := by
    simp only [State.noticesLeft, hq]
    exact List.any_eq_false.2 fun x hx => by simpa using h x hx
  exact if_pos (by simp [hw, hnone])

@[simp] theorem Task.retire_wait : (t.retire i).wait = t.wait := (congrArg Task.wait (Task.retire_flowAs (t := t) (i := i)) :)

/-! ## Writing a notice (R196, R197, R433) -/

/-- The oldest notice has been dealt with, and its SVC is to receive an index: SNQPROD where the notice was written, every bit set where
it could not be (R265, R433). -/
def State.noticed (s : State) (vf : Nat) (q : Partition) (x : Notice) (rest : List Notice) (s₁ : State) (index : Word) : Prop :=
  let a := q.snqbase.toNat * 2 ^ 17 + 32 * (q.snqprod.toNat % 4096)
  (∃ s', State.devWrite q a x.bytes s = .ok s' ∧ s'.part? vf = some q ∧ index = q.snqprod.setWidth 64 ∧
    s₁ = (s'.setPart { q with notices := rest, snqprod := q.snqprod + 1 }).send (.msix vf 1)) ∨
  (∃ e, State.devWrite q a x.bytes s = .error e ∧ index = BitVec.allOnes 64 ∧
    s₁ = ((s.setPart { q with notices := rest }).logRecord x.cause x.bytes).send (.msix 0 1))

theorem State.logRecord_keeps {α : Type} {g : State → α} (hg : ∀ (s : State) c v, g (s.logError c v) = g s) {c : Nat} {b : List Byte} :
    g (s.logRecord c b) = g s :=
  foldl_keeps (g := g) (fun _ _ => hg _ _ _) _ _

/-- The notices that then still wait. -/
theorem State.noticed.part (hq : s.part? vf = some q) (h : s.noticed vf q x rest s₁ index) :
    ∃ q₁, s₁.part? vf = some q₁ ∧ q₁.notices = rest := by
  obtain rfl := State.part?_vf hq
  rcases h with ⟨s', -, hq', -, rfl⟩ | ⟨e, -, -, rfl⟩
  · exact ⟨_, State.part?_setPart (q := { q with notices := rest, snqprod := q.snqprod + 1 }) hq', rfl⟩
  · refine ⟨{ q with notices := rest }, ?_, rfl⟩
    exact (State.logRecord_keeps (g := (·.part? q.vf)) fun _ _ _ => rfl).trans (State.part?_setPart (q := { q with notices := rest }) hq)

theorem Partition.noticeReady_of_room (hx : q.notices = x :: rest) (hroom : (q.snqprod - q.snqcons).toNat < 4096) :
    q.noticeReady = true := by
  rw [Partition.noticeReady, hx, decide_eq_true (show _ < Config.noticeRing from hroom)]
  rfl

theorem Partition.noticeReady_of_full (h : 4096 ≤ (q.snqprod - q.snqcons).toNat) : q.noticeReady = false := by
  rw [Partition.noticeReady, decide_eq_false (show ¬_ < Config.noticeRing from Nat.not_lt.2 h), Bool.and_false]

theorem exec_noticeWrite_full (hq : s.part? vf = some q) (h : 4096 ≤ (q.snqprod - q.snqcons).toNat) :
    exec (.noticeWrite vf) s = .next s := by
  change execNoticeWrite vf s = _
  simp only [execNoticeWrite, hq, Partition.noticeReady_of_full h, Bool.not_false, if_true]
  split <;> rfl

theorem exec_noticeWrite_none (hq : s.part? vf = some q) (h : q.notices = []) : exec (.noticeWrite vf) s = .next s := by
  change execNoticeWrite vf s = _
  simp only [execNoticeWrite, hq, h]

section
variable (hq : s.part? vf = some q) (hx : q.notices = x :: rest) (hroom : (q.snqprod - q.snqcons).toNat < 4096)
  (h : s.noticed vf q x rest s₁ index)
include hq hx hroom h

/-- The step, once the oldest notice has been dealt with: its SVC goes on, and its task may end. -/
theorem exec_noticeWrite : exec (.noticeWrite vf) s = .next ((s₁.endSvc x index).endLeaving x) := by
  change execNoticeWrite vf s = _
  unfold execNoticeWrite
  rcases h with ⟨s', hw, -, rfl, rfl⟩ | ⟨e, hw, rfl, rfl⟩ <;>
    simp only [hq, hx, Partition.noticeReady_of_room hx hroom, Bool.not_true, Bool.false_eq_true, if_false, hw]

theorem exec_noticeWrite_alone
    (halone : x.task = none ∨ (x.svc = false ∧ ∀ u, x.task.bind s₁.task? = some u → u.wait ≠ some .leaving)) :
    exec (.noticeWrite vf) s = .next s₁ := by
  rw [exec_noticeWrite hq hx hroom h, State.endSvc_of_none (halone.imp_right And.left), State.endLeaving_of_wait]
  rcases halone with hnone | ⟨-, hwait⟩
  · simp [hnone]
  · exact hwait

theorem exec_noticeWrite_svc (hsvc : x.svc = true) (hk : x.task = some k) (ht : s₁.task? k = some t)
    (hw : t.wait = some (.notice i sd)) : exec (.noticeWrite vf) s = .next (s₁.setTask ((t.awake.ws sd index).retire i)) := by
  have hid : ((t.awake.ws sd index).retire i).id = k := by simpa using State.task?_id ht
  rw [exec_noticeWrite hq hx hroom h, State.endSvc_of_notice hsvc hk ht hw,
    State.endLeaving_of_task hk (State.task?_setTask_same ht hid), State.leave_of_wait (by simp)]

theorem exec_noticeWrite_leaving (hsvc : x.svc = false) (hk : x.task = some k) (ht : s₁.task? k = some t)
    (hw : t.wait = some .leaving) (hvf : t.vf = vf) :
    ((∃ y ∈ rest, y.task = some k) → exec (.noticeWrite vf) s = .next s₁) ∧
    ((∀ y ∈ rest, y.task ≠ some k) → exec (.noticeWrite vf) s = .next (s₁.endTask t)) := by
  obtain ⟨q₁, hq₁, rfl⟩ := h.part hq
  obtain rfl := State.task?_id ht
  subst hvf
  rw [exec_noticeWrite hq hx hroom h, State.endSvc_of_none (.inr hsvc), State.endLeaving_of_task hk ht]
  exact ⟨fun ⟨y, hy, htask⟩ => congrArg _ (State.leave_of_notice hq₁ hy htask),
    fun hnone => congrArg _ (State.leave_of_no_notice hw hq₁ hnone)⟩

end

/-! ## The fetch of a word meets a fault (R207) -/

section
variable (ht : s.task? k = some t) (hq : s.part? t.vf = some q)
include ht hq

theorem exec_instructionPageFault_ok {l : Line × State} (h : s.icLine (t.ctx q) a = .ok l) :
    exec (.instructionPageFault k a) s = .next s := by
  change execInstructionPageFault k a s = _
  simp only [execInstructionPageFault, ht, hq, h]

theorem exec_instructionPageFault_unmapped (h : s.icLine (t.ctx q) a = .error .unmapped) :
    exec (.instructionPageFault k a) s = .next (s.setTask (t.askStop (.fault cIPF a) s.cycle.toNat)) := by
  change execInstructionPageFault k a s = _
  simp only [execInstructionPageFault, ht, hq, h]

theorem exec_instructionPageFault_denied (h : s.icLine (t.ctx q) a = .error .denied) :
    exec (.instructionPageFault k a) s = .next (s.takeTrap t cPROT (w64 a) t.pc) := by
  change execInstructionPageFault k a s = _
  simp only [execInstructionPageFault, ht, hq, h]
end

/-- Settles O39, by what waits for the oldest notice, and by the answer of the fetch. -/
theorem noticesAndFetchFaultsComplete : Obligations.NoticesAndFetchFaultsComplete := by
  intro s vf q hq
  refine ⟨fun x rest hx hroom => ⟨x.bytes_length, fun s₁ index (h : s.noticed vf q x rest s₁ index) =>
      ⟨exec_noticeWrite_alone hq hx hroom h, fun k u i sd => exec_noticeWrite_svc hq hx hroom h,
        fun k u => exec_noticeWrite_leaving hq hx hroom h⟩⟩,
    exec_noticeWrite_full hq, exec_noticeWrite_none hq, fun k t a ht hvf => ?_⟩
  rw [← hvf] at hq
  exact ⟨fun l => exec_instructionPageFault_ok ht hq, exec_instructionPageFault_unmapped ht hq, exec_instructionPageFault_denied ht hq⟩

end Sys2Proof.Machine
end
